-- ==== Sys2Proof/Word.lean ====
section
/-! DEFINITION. The word types of the AJ8 and nothing else: bytes, 16-, 32- and 64-bit words (R3 of spec/00_scope.md). -/

namespace Sys2Proof

/-- One byte of memory. -/
abbrev Byte := BitVec 8
/-- A 16-bit word: a bundle header, a BF16 or FP16 element. -/
abbrev Half := BitVec 16
/-- A 32-bit word: a vector lane, the long-immediate word. -/
abbrev Word := BitVec 32
/-- A 64-bit word: a scalar register, a control register. -/
abbrev DWord := BitVec 64

end Sys2Proof
end

