-- ==== Sys2Proof/Syntax.lean ====
section
/-! DEFINITION. The syntax of one step of the AJ8: the generic slot word (R62 of spec/03_bundle_format.md), the payloads of
the device's events, and `Instr`, one constructor for each row of spec/opcode_table.json. -/

namespace Sys2Proof

/-- The eight slots of a bundle (R59). -/
inductive Slot where
  | c | a | l | v0 | v1 | x | n | f
  deriving DecidableEq, Repr

/-- The slot's number, which EINFO.SLOT names (R59). -/
def Slot.num : Slot → Nat
  | .c => 0 | .a => 1 | .l => 2 | .v0 => 3 | .v1 => 4 | .x => 5 | .n => 6 | .f => 7

/-- The V slot that carries a vector instruction (R59, R82). -/
inductive VSlot where
  | v0 | v1
  deriving DecidableEq, Repr

/-- The V slot as one of the eight slots. -/
def VSlot.slot : VSlot → Slot
  | .v0 => .v0 | .v1 => .v1

/-- The generic slot word of R62 without its opcode, which the constructor of `Instr` names. Which of these fields an
instruction reads, and under which rule, is its own row's (R109, R130 to R136, R137, R174, R193, R212). -/
structure SlotWord where
  fmt  : BitVec 3 := 0
  d    : BitVec 6 := 0
  a    : BitVec 6 := 0
  b    : BitVec 6 := 0
  pred : BitVec 5 := 0
  pn   : Bool := false
  wb   : Bool := false
  hold : BitVec 2 := 0
  mod  : BitVec 4 := 0
  deriving DecidableEq, Repr

/-- The fields of a bundle header other than its presence bits (R58). -/
structure Header where
  idle : BitVec 2 := 0
  brk  : Bool := false
  seg  : Bool := false
  deriving DecidableEq, Repr

/-- What an exception records: the cause code of R254 and the fields of EADDR and EINFO (R20, R255). -/
structure TrapInfo where
  cause   : BitVec 8
  detail  : BitVec 8 := 0
  addr    : DWord := 0
  slot    : BitVec 3 := 0
  wr      : Bool := false
  remote  : Bool := false
  applied : Bool := false
  xcl     : BitVec 4 := 0
  xrow    : BitVec 4 := 0
  xnum    : BitVec 8 := 0
  deriving DecidableEq, Repr

/-- A fault, race or ATOMIC_LOST report that another package or die sends back (R260 to R262): the issuing thread by its
launch and TID, what it reports, the bundle of the access, and the interlock that a load or atomic holds. -/
structure LateReport where
  launch : Nat
  tid    : Nat
  info   : TrapInfo
  pc     : DWord
  step   : Nat := 0
  token  : Option Nat := none
  deriving DecidableEq, Repr

/-- A contribution or partial on its way to a window element's home (R357 to R359): the key (job slot, RID, home rank,
element address), the node id (d, j), the value in the accumulate format's bits, and the formats of the record.
`failed` marks the failure notice of R357. -/
structure Contribution where
  job     : Nat
  rid     : Nat
  home    : Nat
  addr    : DWord
  level   : Nat
  index   : Nat
  value   : DWord
  group   : Nat
  ifmt    : Nat
  afmt    : Nat
  ofmt    : Nat
  rop     : Nat
  failed  : Bool := false
  deriving DecidableEq, Repr

/-- A 256-byte flit of a fabric port (R384). -/
structure Flit where
  seq  : DWord
  kind : Byte
  kf   : Byte
  src  : Half
  dst  : Half
  ct   : List Byte
  tag  : List Byte
  deriving DecidableEq, Repr

/-- The BARs of the device (R397): BAR0, the registers; BAR2, the notify pages; BAR4, the window onto memory. -/
inductive Bar where
  | regs
  | notify
  | window
  deriving DecidableEq, Repr

/-- A host request through one of the BARs (R339, R383, R397, R398): the IDE stream it arrives on and the TDI it names, if any, its
offset in the BAR, the bytes written (none for a read) and the length read. -/
structure HostReq where
  bar    : Bar := .window
  stream : Option Nat
  tdi    : Option Nat
  off    : Nat
  write  : Bool
  bytes  : List Byte := []
  len    : Nat := 0
  deriving DecidableEq, Repr

/-- A KEY_EXCHANGE of an SPDM requester (R380): its mutual-authentication key and signature over the transcript, and its
ML-KEM-1024 encapsulation key. -/
structure KeyExchange where
  mutualAuth : Bool
  key        : List Byte
  transcript : List Byte
  sig        : List Byte
  kem        : List Byte
  deriving DecidableEq, Repr

/-- The fields of a job policy (R381). `raw` is the signed byte string. -/
structure JobPolicy where
  jobid : BitVec 128
  rank  : Nat
  count : Nat
  ctxs  : BitVec 256
  nkey  : Nat
  swd   : List (BitVec 384)
  paths : List (Nat × List Nat)
  swid  : List Nat
  rechk : Nat
  raw   : List Byte
  deriving DecidableEq, Repr

/-- The channel master key KJ and the reduction key KR of one epoch (R381, R393). -/
structure EpochKeys where
  kj : BitVec 256
  kr : BitVec 256
  deriving DecidableEq, Repr

/-- A policy with its signature and the key material sent inside the session (R381). -/
structure SignedPolicy where
  policy : JobPolicy
  keys   : EpochKeys
  sig    : List Byte
  deriving DecidableEq, Repr

/-- A signed END object (R382). -/
structure SignedEnd where
  jobid : BitVec 128
  raw   : List Byte
  sig   : List Byte
  deriving DecidableEq, Repr

/-- A signed REVOKE object (R393). -/
structure SignedRevoke where
  jobid : BitVec 128
  rank  : Nat
  epoch : Nat
  seqno : Nat
  raw   : List Byte
  sig   : List Byte
  deriving DecidableEq, Repr

/-- A request or object that the mailbox can hold (R379, R380, R382, R393). -/
inductive MailRequest where
  | algorithms (falcon mlkem : Bool)
  | cert
  | challenge (nonce : List Byte)
  | measurements (nonce : List Byte)
  | keyExchange (m : KeyExchange)
  | extend (i : Nat) (value : List Byte)
  | policy (m : SignedPolicy)
  | endJob (m : SignedEnd)
  | revoke (m : SignedRevoke)
  | epochKeys (jslot : Nat) (keys : EpochKeys)
  deriving DecidableEq, Repr

/-- What a switch answers to an attestation or re-check (R391, R392): `answered` is false for a refusal or a closed
session. -/
structure SwitchReport where
  sw       : Nat
  answered : Bool
  cert     : List Byte
  meas     : List Byte
  sig      : List Byte
  deriving DecidableEq, Repr

/-- Where an uncorrectable error strikes (R207, R285, R335, R402). Log 95. -/
inductive ErrorPlace where
  | line (pa : Nat)
  | scratch (core word : Nat)
  | acc (core tile : Nat)
  | unitWord (core word : Nat)
  | imem (core bank word : Nat)
  | carry (launch scan leaf word : Nat)
  | node (launch scan : Nat) (down : Bool) (d leaf word : Nat)
  | dieTables
  deriving DecidableEq, Repr

/-- What one patrol read finds (R285). -/
inductive ScrubFind where
  | clean
  | corrected
  | uncorrectable (pa : Nat)
  deriving DecidableEq, Repr

/-- A TDISP or IDE key-management request from the host (R383, R396): lock or start a TDI, stop it, or set up a stream for
it. -/
inductive TdispReq where
  | setupStream (tdi stream : Nat)
  | lockInterface (tdi : Nat)
  | startInterface (tdi : Nat)
  | stopInterface (tdi : Nat)
  deriving DecidableEq, Repr

/-- One step of the AJ8: one constructor for each row of spec/opcode_table.json. A slot instruction carries its slot word;
an event carries what the outside, or an arbitration the spec leaves open, supplies to it. Log 86. -/
inductive Instr where
  /-- BR: PC-relative branch taken when the slot's guard passes (R110). -/
  | br (w : SlotWord)
  /-- CALL: PC-relative call that writes the return address to s31 and l0 (R110). -/
  | call (w : SlotWord)
  /-- BRI: Branch to the address in the A operand; an odd target raises MISALIGN (R110). -/
  | bri (w : SlotWord)
  /-- RET: Branch to the address that s31 holds at issue (R110). -/
  | ret (w : SlotWord)
  /-- LOOP: Pushes a hardware-loop entry with count T, or skips the loop when T is 0 (R112). -/
  | loop (w : SlotWord)
  /-- LOOPR: Pushes a hardware loop that rotates the stage predicates p16 to p23, with drain count S (R112). -/
  | loopr (w : SlotWord)
  /-- LEXIT: Pops the innermost loop entry and branches to its end address (R114). -/
  | lexit (w : SlotWord)
  /-- PAND: Predicate AND, written to p[D] and l0 (R115). -/
  | pand (w : SlotWord)
  /-- POR: Predicate OR, written to p[D] and l0 (R115). -/
  | por (w : SlotWord)
  /-- PXOR: Predicate XOR, written to p[D] and l0 (R115). -/
  | pxor (w : SlotWord)
  /-- PANDN: Predicate AND-NOT, written to p[D] and l0 (R115). -/
  | pandn (w : SlotWord)
  /-- PMOV: Predicate move, written to p[D] and l0 (R115). -/
  | pmov (w : SlotWord)
  /-- MFC: Reads a control register into a scalar destination at latency 1 (R116). -/
  | mfc (w : SlotWord)
  /-- MTC: Writes a control register at commit, subject to privilege, W1C and clamping rules (R116). -/
  | mtc (w : SlotWord)
  /-- WAITC: Holds until the wait counter is at or below the threshold, with a limit and WLIM (R118). -/
  | waitc (w : SlotWord)
  /-- WAITO: Holds until the scratchpad block of the address is owned by no engine (R119). -/
  | waito (w : SlotWord)
  /-- DSYNC: Releases, waits for every thread of the domain instance, increments the phase count and acquires (R120). -/
  | dsync (w : SlotWord)
  /-- SUSP: Commits and turns the thread into a continuation with reason 1 (R121). -/
  | susp (w : SlotWord)
  /-- EXIT: Ends the thread's step after its open matrix and scan commands finish, and releases the core (R122). -/
  | exit (w : SlotWord)
  /-- CONFW: Holds until the step is confirmed, FLAGS.PROV = 0 (R123). -/
  | confw (w : SlotWord)
  /-- TRAP: Raises SOFT_TRAP at issue with DETAIL n and voids the bundle (R125). -/
  | trap (w : SlotWord)
  /-- SYSC: Commits, then enters the handler with SOFT_TRAP and DETAIL 128 + n (R125). -/
  | sysc (w : SlotWord)
  /-- RETH: Restores leased engine state, the shadows and the loop stack, clears HND and the latches, and branches to EPC (R126). -/
  | reth (w : SlotWord)
  /-- LEASE: Saves the interrupted thread's engine state to the lease extension and sets FLAGS.LEASE (R127). -/
  | lease (w : SlotWord)
  /-- UNLEASE: Restores the leased engine state and clears FLAGS.LEASE (R127). -/
  | unlease (w : SlotWord)
  /-- BKPT: Raises BREAK at issue with DETAIL 2 and voids the bundle (R125). -/
  | bkpt (w : SlotWord)
  /-- SEGPF: Starts the background copy of an overlay segment into the idle bank (R129). -/
  | segpf (w : SlotWord)
  /-- GRAB: Asks the walker for the next guided chunk and writes its first step, count and a predicate (R124). -/
  | grab (w : SlotWord)
  /-- EMPTY_BUNDLE: A header with no slot words issues in one cycle and applies its IDLE, BRK and SEG fields (R60). -/
  | emptyBundle (h : Header)
  /-- ADD: Integer add modulo 2^w (R130). -/
  | add (w : SlotWord)
  /-- SUB: Integer subtract modulo 2^w (R130). -/
  | sub (w : SlotWord)
  /-- MUL: Low w bits of the product (R130). -/
  | mul (w : SlotWord)
  /-- MULH: High w bits of the signed or unsigned 2w-bit product (R130). -/
  | mulh (w : SlotWord)
  /-- DIV: Signed or unsigned division, interlocked, with defined results for zero and overflow (R131). -/
  | div (w : SlotWord)
  /-- REM: Signed or unsigned remainder, interlocked (R131). -/
  | rem (w : SlotWord)
  /-- AND: Bitwise AND (R130). -/
  | and_ (w : SlotWord)
  /-- OR: Bitwise OR (R130). -/
  | or_ (w : SlotWord)
  /-- XOR: Bitwise XOR (R130). -/
  | xor_ (w : SlotWord)
  /-- ANDN: a AND NOT b (R130). -/
  | andn (w : SlotWord)
  /-- SHL: Shift left by b mod w (R130). -/
  | shl (w : SlotWord)
  /-- SHR: Logical or arithmetic shift right by b mod w (R130). -/
  | shr (w : SlotWord)
  /-- ROT: Rotate right by b mod w (R130). -/
  | rot (w : SlotWord)
  /-- MIN: Signed or unsigned minimum (R130). -/
  | min_ (w : SlotWord)
  /-- MAX: Signed or unsigned maximum (R130). -/
  | max_ (w : SlotWord)
  /-- EXT: Sign or zero extension of a (R130). -/
  | ext (w : SlotWord)
  /-- CLZ: Count of leading zeros of a (R130). -/
  | clz (w : SlotWord)
  /-- CTZ: Count of trailing zeros of a (R130). -/
  | ctz (w : SlotWord)
  /-- POPC: Population count of a (R130). -/
  | popc (w : SlotWord)
  /-- BFX: Extracts a bit field, sign- or zero-extended (R132). -/
  | bfx (w : SlotWord)
  /-- BFI: Inserts the low bits of a into a bit field of D (R132). -/
  | bfi (w : SlotWord)
  /-- CMP: Compares the 64-bit operands under a condition into a predicate and l1 (R133). -/
  | cmp (w : SlotWord)
  /-- CSEL: Selects a or b by the predicate named in PRED (R134). -/
  | csel (w : SlotWord)
  /-- MOVI: Moves an extended immediate or operand into D (R134). -/
  | movi (w : SlotWord)
  /-- MOVH: Writes b[31:0] into the high half of D (R134). -/
  | movh (w : SlotWord)
  /-- LEA: Address arithmetic A + (B scaled by the width) (R134). -/
  | lea (w : SlotWord)
  /-- SFADD: Scalar floating add, rounded once (R135). -/
  | sfadd (w : SlotWord)
  /-- SFMUL: Scalar floating multiply, rounded once (R135). -/
  | sfmul (w : SlotWord)
  /-- SFFMA: Scalar fused multiply-add with optional negations (R135). -/
  | sffma (w : SlotWord)
  /-- SFCMP: Scalar floating compare into a predicate and l1 (R135). -/
  | sfcmp (w : SlotWord)
  /-- SFCVT: Scalar conversion between floating and integer formats (R136). -/
  | sfcvt (w : SlotWord)
  /-- LDG: Global scalar load, interlocked (R145). -/
  | ldg (w : SlotWord)
  /-- STG: Global scalar store (R145). -/
  | stg (w : SlotWord)
  /-- LDL: Scratchpad scalar load at latency 4 (R145). -/
  | ldl (w : SlotWord)
  /-- STL: Scratchpad scalar store (R145). -/
  | stl (w : SlotWord)
  /-- VLDG: Global full-vector load, interlocked (R147). -/
  | vldg (w : SlotWord)
  /-- VSTG: Global full-vector store (R147). -/
  | vstg (w : SlotWord)
  /-- VLDL: Scratchpad full-vector load at latency 4 (R147). -/
  | vldl (w : SlotWord)
  /-- VSTL: Scratchpad full-vector store (R147). -/
  | vstl (w : SlotWord)
  /-- VGTG: Global gather by lane indices (R148). -/
  | vgtg (w : SlotWord)
  /-- VSCG: Global scatter by lane indices in ascending lane order (R148). -/
  | vscg (w : SlotWord)
  /-- VGTL: Scratchpad gather on the own core (R148). -/
  | vgtl (w : SlotWord)
  /-- VSCL: Scratchpad scatter on the own core (R148). -/
  | vscl (w : SlotWord)
  /-- LDF: Loads a word when it is full, as an acquire (R150). -/
  | ldf (w : SlotWord)
  /-- LDFE: Loads a word when it is full and sets it empty (R150). -/
  | ldfe (w : SlotWord)
  /-- STE: Stores when the word is empty and sets it full (R150). -/
  | ste (w : SlotWord)
  /-- STFL: Stores and sets the word full at once (R150). -/
  | stfl (w : SlotWord)
  /-- FEZ: Sets a word's full/empty bit empty (R150). -/
  | fez (w : SlotWord)
  /-- FEQ: Returns 1 if the word is full, else 0 (R150). -/
  | feq (w : SlotWord)
  /-- AADD: Returning atomic add (R152). -/
  | aadd (w : SlotWord)
  /-- AFADD: Returning atomic floating add in RNE (R152). -/
  | afadd (w : SlotWord)
  /-- AMIN: Returning atomic signed minimum (R152). -/
  | amin (w : SlotWord)
  /-- AMAX: Returning atomic signed maximum (R152). -/
  | amax (w : SlotWord)
  /-- AAND: Returning atomic AND (R152). -/
  | aand (w : SlotWord)
  /-- AOR: Returning atomic OR (R152). -/
  | aor (w : SlotWord)
  /-- AXOR: Returning atomic XOR (R152). -/
  | axor (w : SlotWord)
  /-- AXCH: Returning atomic exchange (R152). -/
  | axch (w : SlotWord)
  /-- ACAS: Returning atomic compare-and-swap (R152). -/
  | acas (w : SlotWord)
  /-- AINSM: Atomic insert under mask (R152). -/
  | ainsm (w : SlotWord)
  /-- AFFCS: Atomic find first clear bit and set it (R152). -/
  | affcs (w : SlotWord)
  /-- APLS: Atomic population-limited set of bits (R152). -/
  | apls (w : SlotWord)
  /-- REDADD: Non-returning atomic add (R154). -/
  | redadd (w : SlotWord)
  /-- REDFADD: Non-returning floating add in RNE (R154). -/
  | redfadd (w : SlotWord)
  /-- REDMIN: Non-returning signed minimum (R154). -/
  | redmin (w : SlotWord)
  /-- REDMAX: Non-returning signed maximum (R154). -/
  | redmax (w : SlotWord)
  /-- REDAND: Non-returning AND (R154). -/
  | redand (w : SlotWord)
  /-- REDOR: Non-returning OR (R154). -/
  | redor (w : SlotWord)
  /-- REDXOR: Non-returning XOR (R154). -/
  | redxor (w : SlotWord)
  /-- REDUCTION_ACK: The home acknowledges a reduction, which stops counting against the launch (R154). -/
  | reductionAck (access : Nat)
  /-- BARI: Initialises a barrier object with its target (R157). -/
  | bari (w : SlotWord)
  /-- BARV: Arrives at a barrier object with count n, possibly completing the phase or raising BARRIER_OVERRUN (R158). -/
  | barv (w : SlotWord)
  /-- BARW: Holds until the barrier phase differs from the operand, with a limit (R159). -/
  | barw (w : SlotWord)
  /-- FENCE: Orders the thread's own memory accesses at a scope (R160). -/
  | fence (w : SlotWord)
  /-- CPY: Hands a template copy to the copy engine and increments a wait counter (R162). -/
  | cpy (w : SlotWord)
  /-- COPY_COMPLETE: The copy engine writes the last line or stops on a failure and decrements the wait counter (R162). -/
  | copyComplete (i : Nat)
  /-- QBIND: Binds a stream to a descriptor and activates its subscription (R166). -/
  | qbind (w : SlotWord)
  /-- QSTOP: Unbinds a stream and cancels its subscription (R166). -/
  | qstop (w : SlotWord)
  /-- QDRN: Holds until every ring word of an output stream is empty (R166). -/
  | qdrn (w : SlotWord)
  /-- CSUB: Submits a collective record (R168). -/
  | csub (w : SlotWord)
  /-- TRIG: Adds an amount to a trigger counter (R169). -/
  | trig (w : SlotWord)
  /-- SIGOP: Sets, adds to or subtracts from a signal atomically at its home (R170). -/
  | sigop (w : SlotWord)
  /-- PREF: Prefetches a line into the home L2 or memory-side cache (R171). -/
  | pref (w : SlotWord)
  /-- VADD: Element-wise add (R178). -/
  | vadd (u : VSlot) (w : SlotWord)
  /-- VSUB: Element-wise subtract (R178). -/
  | vsub (u : VSlot) (w : SlotWord)
  /-- VMUL: Element-wise multiply (R178). -/
  | vmul (u : VSlot) (w : SlotWord)
  /-- VFMA: Element-wise fused a·b + d (R178). -/
  | vfma (u : VSlot) (w : SlotWord)
  /-- VFMS: Element-wise fused a·b − d (R178). -/
  | vfms (u : VSlot) (w : SlotWord)
  /-- VFNMA: Element-wise fused −(a·b) + d (R178). -/
  | vfnma (u : VSlot) (w : SlotWord)
  /-- VMIN: Element-wise minimum (R178). -/
  | vmin (u : VSlot) (w : SlotWord)
  /-- VMAX: Element-wise maximum (R178). -/
  | vmax (u : VSlot) (w : SlotWord)
  /-- VABS: Element-wise absolute value (R178). -/
  | vabs (u : VSlot) (w : SlotWord)
  /-- VNEG: Element-wise negation (R178). -/
  | vneg (u : VSlot) (w : SlotWord)
  /-- VAND: Lane-wise AND (R179). -/
  | vand (u : VSlot) (w : SlotWord)
  /-- VOR: Lane-wise OR (R179). -/
  | vor (u : VSlot) (w : SlotWord)
  /-- VXOR: Lane-wise XOR (R179). -/
  | vxor (u : VSlot) (w : SlotWord)
  /-- VANDN: Lane-wise a AND NOT b (R179). -/
  | vandn (u : VSlot) (w : SlotWord)
  /-- VSHL: Element-wise shift left (R178). -/
  | vshl (u : VSlot) (w : SlotWord)
  /-- VSHR: Element-wise logical shift right (R178). -/
  | vshr (u : VSlot) (w : SlotWord)
  /-- VSAR: Element-wise arithmetic shift right (R178). -/
  | vsar (u : VSlot) (w : SlotWord)
  /-- VMULH: High half of the signed element product (R178). -/
  | vmulh (u : VSlot) (w : SlotWord)
  /-- VCLAMP: Saturates integer elements to n bits, signed or unsigned (R180). -/
  | vclamp (u : VSlot) (w : SlotWord)
  /-- VCMP: Compares elements into a lane mask (R181). -/
  | vcmp (u : VSlot) (w : SlotWord)
  /-- VSEL: Selects lanes of a or b by a mask (R182). -/
  | vsel (u : VSlot) (w : SlotWord)
  /-- VCVT: Converts elements between formats, with parts and optional saturation (R184). -/
  | vcvt (u : VSlot) (w : SlotWord)
  /-- VPACK: Packs low bits of k registers into one (R188). -/
  | vpack (u : VSlot) (w : SlotWord)
  /-- VUNPK: Unpacks one register into k registers (R188). -/
  | vunpk (u : VSlot) (w : SlotWord)
  /-- VRCP: Element-wise reciprocal, correctly rounded (R185). -/
  | vrcp (u : VSlot) (w : SlotWord)
  /-- VRSQ: Element-wise reciprocal square root (R185). -/
  | vrsq (u : VSlot) (w : SlotWord)
  /-- VSQRT: Element-wise square root (R185). -/
  | vsqrt (u : VSlot) (w : SlotWord)
  /-- VEXP2: Element-wise 2^x (R185). -/
  | vexp2 (u : VSlot) (w : SlotWord)
  /-- VLOG2: Element-wise log2 x (R185). -/
  | vlog2 (u : VSlot) (w : SlotWord)
  /-- VMOVI: Writes a 12-bit signed immediate to every element of active lanes (R186). -/
  | vmovi (u : VSlot) (w : SlotWord)
  /-- VMOV: Moves a vector into active lanes (R186). -/
  | vmov (u : VSlot) (w : SlotWord)
  /-- VMOVN: Moves n consecutive registers as a memmove (R188). -/
  | vmovn (u : VSlot) (w : SlotWord)
  /-- VBCAST: Broadcasts one element within each cluster (R187). -/
  | vbcast (u : VSlot) (w : SlotWord)
  /-- VEXT: Extracts one element of a full vector to a scalar register (R187). -/
  | vext (u : VSlot) (w : SlotWord)
  /-- VIDX: Writes each element's full-vector element number (R186). -/
  | vidx (u : VSlot) (w : SlotWord)
  /-- VSHUF: Shuffles lanes within each cluster by a pattern entry (R189). -/
  | vshuf (u : VSlot) (w : SlotWord)
  /-- VXC: Copies lanes across clusters by rotate, broadcast or XOR (R190). -/
  | vxc (u : VSlot) (w : SlotWord)
  /-- VRED: Reduces each cluster's elements by a fixed pairwise tree (R191). -/
  | vred (u : VSlot) (w : SlotWord)
  /-- VSCAN: Inclusive prefix within each cluster in a fixed order (R191). -/
  | vscan (u : VSlot) (w : SlotWord)
  /-- KAND: Mask AND (R183). -/
  | kand (u : VSlot) (w : SlotWord)
  /-- KOR: Mask OR (R183). -/
  | kor (u : VSlot) (w : SlotWord)
  /-- KXOR: Mask XOR (R183). -/
  | kxor (u : VSlot) (w : SlotWord)
  /-- KNOT: Mask NOT (R183). -/
  | knot (u : VSlot) (w : SlotWord)
  /-- KPOP: Counts the ones of a mask into a scalar register (R183). -/
  | kpop (u : VSlot) (w : SlotWord)
  /-- MCFG: Loads and validates a step configuration record and resets the step counters (R195). -/
  | mcfg (w : SlotWord)
  /-- MWIN: Loads a window descriptor and enters window mode (R200). -/
  | mwin (w : SlotWord)
  /-- MSTEP: Performs one matrix step of the pass and advances the counters (R198). -/
  | mstep (w : SlotWord)
  /-- MSTEP_COMPLETE: A matrix step finishes in the engine, landing its tile result and flags and returning owned blocks (R202). -/
  | mstepComplete (i : Nat)
  /-- MZERO: Zeroes an accumulator tile (R204). -/
  | mzero (w : SlotWord)
  /-- MZERO_COMPLETE: The tile zeroing finishes on the tile port (R202). -/
  | mzeroComplete (i : Nat)
  /-- AMVR: Moves accumulator rows to vector registers (R204). -/
  | amvr (w : SlotWord)
  /-- AMVR_COMPLETE: The moved rows land in the vector registers and the counter decrements (R204). -/
  | amvrComplete (i : Nat)
  /-- AMVW: Moves vector registers into accumulator rows (R204). -/
  | amvw (w : SlotWord)
  /-- AMVW_COMPLETE: The rows are written into the tile and the counter decrements (R204). -/
  | amvwComplete (i : Nat)
  /-- MDRN: Drains a tile to scratchpad in an output format (R205). -/
  | mdrn (w : SlotWord)
  /-- MDRN_COMPLETE: The last drained line is written, blocks return and the counter decrements (R205). -/
  | mdrnComplete (i : Nat)
  /-- MFIN: Holds until every earlier X command on its tile has completed (R206). -/
  | mfin (w : SlotWord)
  /-- SOPD: Loads a combine word into an operator register (R214). -/
  | sopd (w : SlotWord)
  /-- SID: Queues the writing of the operator's identity into a pair tile (R217). -/
  | sid (w : SlotWord)
  /-- SID_COMPLETE: The identity values and IDN mark are written to the pair tile (R231). -/
  | sidComplete (i : Nat)
  /-- SCMB: Combines vector register pairs under an operator (R218). -/
  | scmb (w : SlotWord)
  /-- SCHK: Queues a local chunk scan that leaves a summary in a pair tile (R220). -/
  | schk (w : SlotWord)
  /-- SCHK_COMPLETE: The chunk scan finishes, writes its summary and returns its blocks (R220). -/
  | schkComplete (i : Nat)
  /-- SFIX: Queues application of a carry to a chunk in scratchpad (R221). -/
  | sfix (w : SlotWord)
  /-- SFIX_COMPLETE: The fix-up finishes writing the chunk and returns its blocks (R221). -/
  | sfixComplete (i : Nat)
  /-- SXCH: Queues the posting of a pair tile to the scan network as a leaf (R223). -/
  | sxch (w : SlotWord)
  /-- SXCH_POST: At its turn the pair tile is captured, posted and marked carry-pending (R223). -/
  | sxchPost (i : Nat)
  /-- SWT: Holds until the unit has no pending SXCH or carry (R225). -/
  | swt (w : SlotWord)
  /-- SSTEP_AFF: Updates one state row by the operator's combine and writes the row to a vector (R226). -/
  | sstepAff (w : SlotWord)
  /-- SSTEP_SSM: Updates a whole state tile by the SSM recurrence and produces the y vector (R227). -/
  | sstepSsm (w : SlotWord)
  /-- SRD: Queues a copy of state rows into vector registers (R229). -/
  | srd (w : SlotWord)
  /-- SRD_COMPLETE: The state rows land in the vector registers and l6 (R229). -/
  | srdComplete (i : Nat)
  /-- SWR: Queues a write of vector registers into state rows (R229). -/
  | swr (w : SlotWord)
  /-- SWR_COMPLETE: The rows are written into the state unit (R229). -/
  | swrComplete (i : Nat)
  /-- SSPL: Queues a spill of state units to memory (R230). -/
  | sspl (w : SlotWord)
  /-- SSPL_COMPLETE: The last spilled byte is moved and the counter decrements (R230). -/
  | ssplComplete (i : Nat)
  /-- SFIL: Queues a fill of state units from memory (R230). -/
  | sfil (w : SlotWord)
  /-- SFIL_COMPLETE: The last filled byte is moved, poison marks set or cleared and the counter decrements (R230). -/
  | sfilComplete (i : Nat)
  /-- SCLD: Loads a scale register from scratchpad at latency 4 (R208). -/
  | scld (w : SlotWord)
  /-- SCMV: Copies or broadcasts scale data between scale registers (R208). -/
  | scmv (w : SlotWord)
  /-- PATLD: Loads a shuffle-pattern entry into a physical bank (R209). -/
  | patld (w : SlotWord)
  /-- PATSW: Swaps the active pattern bank (R209). -/
  | patsw (w : SlotWord)
  /-- RESULT_LANDING: An exposed result lands in its register, latch and FPST at its cycle (R73). -/
  | resultLanding
  /-- INTERLOCKED_RESULT: An interlocked result such as a global load or atomic response lands and releases its interlock (R72). -/
  | interlockedResult (i : Nat)
  /-- TRAP_ENTRY: At the bundle boundary after an exception, records the cause and enters handler mode at HBASE + 64·cause (R255). -/
  | trapEntry (t : TrapInfo)
  /-- WAIT_TIMEOUT: A held wait reaches its limit and raises WAIT_TIMEOUT, voiding the bundle (R117). -/
  | waitTimeout
  /-- WAIT_SUSPEND: A held wait reaches WLIM and the thread becomes a continuation with reason 2 (R117). -/
  | waitSuspend
  /-- LATE_REPORT: A remote fault, race or ATOMIC_LOST report is delivered at the next bundle boundary (R260). -/
  | lateReport (r : LateReport)
  /-- WALK_COMPLETE: A page walk finishes, fills the TLBs or faults, and releases the held bundle (R283). -/
  | walkComplete (die i : Nat)
  /-- FEED_ELEMENT: A feeder writes the next element into an empty ring slot and sets it full (R277). -/
  | feedElement (q : Fin 8)
  /-- DRAIN_ELEMENT: A drainer writes a full ring element to global memory and sets it empty (R277). -/
  | drainElement (q : Fin 8)
  /-- CHUNK_REQUEST: The walker serves a dispatcher request with a guided chunk after checkpointing (R287). -/
  | chunkRequest (launch die : Nat)
  /-- STEP_START: A dispatcher starts a new thread for a step on a core holding the claim (R289). -/
  | stepStart (launch core : Nat)
  /-- QUANTUM_EXPIRY: A thread's resident cycles reach QUANT, pre-empting it or restarting the count (R292). -/
  | quantumExpiry
  /-- PRIORITY_PREEMPT: Ready higher-priority work pre-empts the lowest-priority resident thread (R293). -/
  | priorityPreempt (die : Nat)
  /-- PREEMPT_REQUEST: A pre-emption request reaches the core, which freezes at Z, possibly delayed by a BARV (R299). -/
  | preemptRequest (reason : Nat)
  /-- GANG_SWAP: A suspending member suspends every member of its gang instance with reason 5 (R294). -/
  | gangSwap (launch inst : Nat)
  /-- SPILL_SAVE: After in-flight commands complete, the state-spill engine writes the frame sections (R302). -/
  | spillSave
  /-- RESUME: A ready continuation is placed, its frame restored and its segment loaded (R303). -/
  | resume (launch cont core : Nat)
  /-- REPLAY_LANDING: A replay entry lands at R + REM with its latch and FPST effects (R303). -/
  | replayLanding
  /-- GANG_PLACE: A gang instance is placed once every member's core is available (R294). -/
  | gangPlace (launch inst : Nat) (cores : List Nat)
  /-- SEGMENT_FETCH_MISS: Fetch of a non-resident segment stalls and starts its copy into the idle bank (R306). -/
  | segmentFetchMiss
  /-- SEGMENT_COPY_DONE: An overlay segment copy finishes or marks the segment failed (R307). -/
  | segmentCopyDone
  /-- DIE_FENCE: A fatal error fences a die, which issues nothing further (R402). -/
  | dieFence (die : Nat)
  /-- SHAPE_CELL_ARRIVAL: A reported write to the shape cell is read with VALID and accepted as the true shape (R315). -/
  | shapeCellArrival (launch : Nat)
  /-- SHAPE_TIMEOUT: No shape arrives within TLIM, so every provisional step is trimmed (R318). -/
  | shapeTimeout (launch : Nat)
  /-- PROVISIONAL_COMMIT: A confirmed step's buffered lines commit and its PROV clears (R320). -/
  | provisionalCommit (launch : Nat)
  /-- CARRY_LAND: A scan carry lands in the pair tile and clears carry-pending (R224). -/
  | carryLand (launch scan leaf : Nat)
  /-- SCAN_NODE_COMBINE: A network node combines its two operands once they have arrived (R331). -/
  | scanNodeCombine (launch scan : Nat) (down : Bool) (d leaf : Nat)
  /-- SCAN_ROUND_ABORT: A failure aborts a scan round, poisoning its unlanded carries (R336). -/
  | scanRoundAbort (launch scan : Nat)
  /-- QUEUE_VISIT: A firmware core visits a queue in its executive slot and starts up to four packets (R351). -/
  | queueVisit (q : Nat)
  /-- LAUNCH: A LAUNCH packet is validated and accepted as a launch (R346). -/
  | launch (q : Nat)
  /-- LAUNCH_CONTEXT_START: A launch held for scan contexts starts when its contexts become free (R329). -/
  | launchContextStart (launch : Nat)
  /-- COPY: A COPY packet runs a template copy from the front end (R347). -/
  | copy (q : Nat)
  /-- WAITSIG: A WAITSIG packet holds its queue until a signal meets a condition (R345). -/
  | waitsig (q : Nat)
  /-- SIGNAL_REPORT: A reported signal write is re-read and may satisfy a waiting WAITSIG (R345). -/
  | signalReport (q : Nat)
  /-- SETSIG: A SETSIG packet updates a signal like SIGOP (R345). -/
  | setsig (q : Nat)
  /-- COLL: A COLL packet submits a collective record (R347). -/
  | coll (q : Nat)
  /-- SHAPE: A SHAPE packet delivers a true shape to a launch, or completes SHAPE_LATE (R316). -/
  | shape (q : Nat)
  /-- MARK: A MARK packet completes once every earlier packet of its queue has completed (R347). -/
  | mark (q : Nat)
  /-- QCTL_RESET: Resets a target queue, stopping its work and discarding its outputs (R349). -/
  | qctlReset (q : Nat)
  /-- QCTL_SHOOT: A TLB shootdown of a context's range (R284). -/
  | qctlShoot (q : Nat)
  /-- QCTL_POOLFREE: Returns an allocated range to a pool (R348). -/
  | qctlPoolfree (q : Nat)
  /-- PACKET_COMPLETION: A packet completes: status word, signal, interrupt and successor releases (R343). -/
  | packetCompletion (i : Nat)
  /-- HELD_PACKET_START: A held packet whose release count reaches NPRED starts (R344). -/
  | heldPacketStart (q : Nat)
  /-- FETCH_FAULT: A ring granule fault sets STATE 2 and sends a page request (R350). -/
  | fetchFault (q : Nat)
  /-- REGISTER_WRITE: A write to a device register with no row of its own (R5). -/
  | registerWrite (off : Nat) (bytes : List Byte)
  /-- COLL_ACCEPT: The accepting die validates a collective record and arms or starts it (R356). -/
  | collAccept (i : Nat)
  /-- COLL_TRANSFER: The collective walker emits one transfer per innermost iteration (R357). -/
  | collTransfer (die : Nat)
  /-- REDUCE_ARRIVAL: A contribution or partial arrives at the receive-reduce unit and pairs with its sibling (R359). -/
  | reduceArrival (c : Contribution)
  /-- COLL_COMPLETE: A record completes: completion record, counter increment, interrupt (R363). -/
  | collComplete (i : Nat)
  /-- WIDX_WRITE: A write to a queue's notify register is accepted and sets PEND, or sets NERR (R339). -/
  | widxWrite (q : Nat) (w : Word)
  /-- QCFG_WRITE: A write of QCFG, with EN transitions resuming or stopping fetch (R338). -/
  | qcfgWrite (q : Nat) (v : DWord)
  /-- QSTAT_WRITE: A write of QSTAT setting RIDX while disabled or clearing NERR (R338). -/
  | qstatWrite (q : Nat) (v : DWord)
  /-- PGRQ_POP: A read of PGRQ pops one page request entry (R403). -/
  | pgrqPop
  /-- PGRSP: The host answers a page request, refetching or setting BADRING (R403). -/
  | pgrsp (v : DWord)
  /-- SWITCH_REDUCE: An attested switch forms a node and forwards its FP32 partial (R360). -/
  | switchReduce (l r : Contribution)
  /-- LINK_STOP: A STOP pause mark halts bulk sending at the next flit boundary (R367). -/
  | linkStop (l : Nat)
  /-- LINK_RESUME: A RESUME pause mark restarts bulk sending (R367). -/
  | linkResume (l : Nat)
  /-- FLIT_SEND: A transmitter sends the next flit under its key and SEQ (R386). -/
  | flitSend (ch : Nat) (kind : Byte) (body : List Byte)
  /-- FLIT_RECEIVE: A receiver accepts a flit matching the expected pair or drops it and requests a retry (R386). -/
  | flitReceive (ch : Nat) (f : Flit)
  /-- RETRY_REQUEST: A transmitter resends stored ciphertext from the named flit (R386). -/
  | retryRequest (ch : Nat) (slot : Bool) (seq : DWord)
  /-- RETRY_REPEAT: The receiver repeats its retry request every 10 µs (R386). -/
  | retryRepeat (ch : Nat)
  /-- CHANNEL_ACK: A cumulative acknowledgement frees stored flits and may release the old key slot (R386). -/
  | channelAck (ch : Nat) (slot : Bool) (seq : DWord)
  /-- KEY_DRAIN_EXPIRY: DRAIN µs after accepting the marker, the receiver erases the old slot (R388). -/
  | keyDrainExpiry (ch : Nat)
  /-- CHANNEL_FAIL: A flit dropped 16 times over more than 10 ms fails the channel (R387). -/
  | channelFail (ch : Nat)
  /-- RKEY: Makes every channel of every locked job switch key now (R389). -/
  | rkey
  /-- BOOT_GO: The boot ROM checks the staged firmware image and releases the firmware cores (R371). -/
  | bootGo
  /-- COLD_RESET: PERST#, FLR or RSTCTL.COLD reset the whole module (R400). -/
  | coldReset
  /-- FWRST: Resets and reloads the firmware cores (R400). -/
  | fwrst
  /-- TRAIN: Starts memory training (R400). -/
  | train
  /-- TRAINING_DONE: Training completes, setting TRDONE or TRERR (R400). -/
  | trainingDone (failed : List Nat)
  /-- QEN: Enables queues and zeroes every CYC, or clears every queue's EN (R400). -/
  | qen (on : Bool)
  /-- FUSE_BLOW: FUSEP.BLOW raises the fused security version (R401). -/
  | fuseBlow
  /-- FZREL: Releases a frozen IDE stream named by its freeze-log index (R378). -/
  | fzrel (i : Nat)
  /-- RASC_CLR: Clears a die's error counters (R286). -/
  | rascClr (die : Nat)
  /-- L2CV_WRITE: Sets a die's L2 carve-outs while queues are disabled (R271). -/
  | l2cvWrite (die : Nat) (v : DWord)
  /-- MSPLIT_WRITE: Sets the wide-region size before training (R272). -/
  | msplitWrite (v : DWord)
  /-- HOST_REQUEST: A host request to device memory is accepted or refused by its IDE stream and TDI (R383). -/
  | hostRequest (r : HostReq)
  /-- SPDM_CERT: Returns the device certificate chain (R380). -/
  | spdmCert
  /-- SPDM_CHALLENGE: Answers an SPDM challenge (R380). -/
  | spdmChallenge (nonce : List Byte)
  /-- SPDM_MEASUREMENTS: Returns signed measurement blocks MEAS0 to MEAS15 (R380). -/
  | spdmMeasurements (nonce : List Byte)
  /-- SPDM_KEY_EXCHANGE: Opens a mutually authenticated session (R380). -/
  | spdmKeyExchange (m : KeyExchange)
  /-- HOST_MEAS_EXTEND: The host extends MEAS4 to MEAS7 through the mailbox (R373). -/
  | hostMeasExtend (i : Nat) (v : List Byte)
  /-- JOB_POLICY: A signed job policy binds a job: keys, contexts, channel keys, measurement (R382). -/
  | jobPolicy (m : SignedPolicy)
  /-- END_OBJECT: A signed END unbinds the job and zeroizes its keys (R382). -/
  | endObject (m : SignedEnd)
  /-- REVOKE_OBJECT: A signed REVOKE object is accepted or dropped (R393). -/
  | revokeObject (m : SignedRevoke)
  /-- REVOKE_APPLY: A member holding the object and keys applies the revocation (R394). -/
  | revokeApply (jslot : Nat) (keys : EpochKeys)
  /-- SWITCH_ATTEST: The controller attests a switch, sends it the reduction key and sets ATT (R391). -/
  | switchAttest (jslot : Nat) (m : SwitchReport)
  /-- SWITCH_RECHECK: Every RECHECK interval a switch is re-challenged and withdrawn on failure (R392). -/
  | switchRecheck (jslot : Nat) (m : SwitchReport)
  /-- UNCORRECTABLE_ERROR: An uncorrectable memory error poisons the unit, counts in RASC and raises RAS (R285). -/
  | uncorrectableError (die : Nat) (w : ErrorPlace)
  /-- SCRUB_PATROL: Patrol scrubbing reads DRAM and L2 on its schedule (R285). -/
  | scrubPatrol (die : Nat) (w : ScrubFind)
  /-- POWER_TICK: Each millisecond the power controller lowers or raises the core clock (R404). -/
  | powerTick (watts : Nat) (temps : List Int)
  /-- THERMAL_TRIP: A die at 115 °C stops every clock of the module (R405). -/
  | thermalTrip (die : Nat) (temp : Int)
  /-- TDISP_REQUEST: A TDISP or IDE key-management request from the host moves a TDI between CONFIG_UNLOCKED and RUN and sets up its IDE stream (R383). -/
  | tdispRequest (r : TdispReq)
  /-- NEGOTIATE_ALGORITHMS: An SPDM algorithm negotiation from a requester is answered with the post-quantum algorithms, or with ERROR UnsupportedRequest (R380). -/
  | negotiateAlgorithms (falcon mlkem : Bool)
  /-- LOST_HEARTBEAT: A keyed switch's session closes or its heartbeat is lost, withdrawing it: ATT cleared and in-switch records finished with PATH_LOST (R392). -/
  | lostHeartbeat (jslot sw : Nat)
  deriving DecidableEq, Repr

end Sys2Proof
end

