-- ==== Sys2Proof/Machine/Parts.lean ====
section
/-! DEFINITION. The parts of the machine state that belong to a thread and to a core: registers (R9 to R24 of
spec/01_machine_state.md), results in flight (R72, R73), the loop stack (R111), streams (R165), engine commands (R202,
R231), and the effects a bundle applies at its commit (R77). Everything here is plain data. -/

namespace Sys2Proof.Machine

/-- A full vector: 128 lanes of 32 bits, lane L = 16 c + i for lane i of cluster c (R11). -/
abbrev Vec := Vector Word 128
/-- An accumulator tile: 128 rows of 128 FP32 elements (R18). -/
abbrev Tile := Vector Vec 128
/-- A scale register: 128 BF16 elements (R9, R17). -/
abbrev Scale := Vector Half 128
/-- Bytes by address, strictly rising, none equal to the value an unlisted address reads as (zero). -/
abbrev Mem := List Host.Cell
/-- Numbers in rising order: the words whose bit is set. -/
abbrev Bits := List Nat

/-- The zero full vector. -/
def Vec.zero : Vec := Vector.replicate 128 0#32
/-- The zero tile. -/
def Tile.zero : Tile := Vector.replicate 128 Vec.zero
/-- The zero scale register. -/
def Scale.zero : Scale := Vector.replicate 128 0#16

/-- A register word's owner: what an interlock, a poison mark or a latency check names (R74, R76, R149). -/
inductive RegId where
  | s (n : Nat) | p (n : Nat) | k (n : Nat) | v (n : Nat) | e (n : Nat)
  | row (unit row : Nat) | latch (n : Nat) | held (slot : Nat) | stream (q : Nat) | pat (bank : Bool) (n : Nat)
  deriving DecidableEq, Repr

/-- One register word that a result writes when it lands. The second mask of a vector or mask write holds the lanes that
are written: merged-off lanes keep what they hold at landing (R175, R181). `rotate` is the one-place rotation of p16 to p23
with the new p16 (R113). -/
inductive Write where
  | scalar (n : Nat) (x : DWord)
  | pred (n : Nat) (b : Bool)
  | mask (n : Nat) (x en : BitVec 128)
  | vec (n : Nat) (x : Vec) (en : BitVec 128)
  | scale (n : Nat) (x : Scale)
  | pattern (bank : Bool) (n : Nat) (x : BitVec 96)
  | units (unit row addr : Nat) (bytes : List Byte)
  | streamS (q : Nat) (x : DWord)
  | streamV (q : Nat) (x : Vec)
  | rotate (first : Bool)
  deriving DecidableEq, Repr

/-- What a result delivers to a latch: a scalar part or a vector part (R12). -/
inductive LatchVal where
  | scalar (x : DWord)
  | vector (x : Vec)
  deriving DecidableEq, Repr

/-- A poisoned register word: its register, its lane, and the load address recorded with the mark (R149). -/
structure PMark where
  reg  : RegId
  lane : Nat
  addr : DWord
  deriving DecidableEq, Repr

/-- A result on its way: the cycle it lands in, what it writes, the latch it reaches, the FPST flags that land with it
(R23) and the poison marks it carries (R72, R73, R149). `replay` marks an entry of the replay buffer (R300, R303). -/
structure Landing where
  due    : Nat
  writes : List Write
  latch  : Option (Nat × LatchVal) := none
  flags  : BitVec 5 := 0
  marks  : List PMark := []
  replay : Bool := false
  deriving DecidableEq, Repr

/-- Where an access that has left its die is performed: the home die in this package, or none for another package, the address
accessed and the bundle that made it (R260, R261, R282). -/
structure Home where
  die : Option Nat
  va  : DWord
  pc  : DWord := 0
  rank : Nat := 0
  atom : Bool := false
  deriving DecidableEq, Repr

/-- An outstanding interlocked result (R72, R74): the registers it will write; the result once it is known; the token of
the command or request that will supply it otherwise; whether it is a load or a returning atomic, which an acquiring FENCE
waits for (R160); and, where the access left the die, where it went. -/
structure Ilock where
  regs  : List RegId
  land  : Option Landing
  token : Nat
  mem   : Bool
  home  : Option Home
  deriving DecidableEq, Repr

/-- A hardware-loop entry (R111, R113). `drainN` is N of LOOPR; `rot` marks LOOPR. -/
structure LoopEntry where
  start     : DWord
  stop      : DWord
  remaining : Nat
  started   : Nat
  drainN    : Nat
  rot       : Bool
  deriving DecidableEq, Repr

/-- A subscription record (R276). -/
structure Subscription where
  drain : Bool
  count : Nat
  base  : DWord
  n1    : Nat
  s1    : Int
  s2    : Int
  deriving DecidableEq, Repr

/-- A stream binding (R14, R165 to R167, R276, R277). `pos` is the ring position in bytes; `flying` counts elements written
but not yet appended; `subs` is the subscription record once read; `fed` counts the subscription's elements moved; `engine` is the token of an open chunk scan that
holds the stream (R222). -/
structure Stream where
  bound  : Bool := false
  out    : Bool := false
  base   : Nat := 0
  lines  : Nat := 0
  vector : Bool := false
  sub    : DWord := 0
  subs   : Option Subscription := none
  pos    : Nat := 0
  flying : Nat := 0
  fed    : Nat := 0
  idle   : Bool := true
  priv   : Bool := false
  engine : Option Nat := none
  desc   : Nat := 0
  fault  : Option DWord := none
  deriving DecidableEq, Repr

/-- The values held in the slots C, X, N, F, V0 and V1; none where empty (R71). -/
structure HeldSet where
  c  : Option DWord := none
  x  : Option DWord := none
  n  : Option DWord := none
  f  : Option DWord := none
  v0 : Option Vec := none
  v1 : Option Vec := none
  deriving DecidableEq, Repr

/-- A matrix step configuration (R194). -/
structure MConfig where
  abase : Nat
  bbase : Nat
  asm_  : Int
  ask   : Int
  bsn   : Int
  bsk   : Int
  mt    : Nat
  nt    : Nat
  kt    : Nat
  bfmt  : BitVec 3
  ctrb  : Bool
  ctra  : Bool
  amap  : Nat
  sea   : Nat
  sak   : Nat
  seb   : Nat
  sbk   : Nat
  sam   : Nat
  sbn   : Nat
  aps   : Nat
  bps   : Nat
  deriving DecidableEq, Repr

/-- A window descriptor (R200). -/
structure MWindow where
  xbase : Nat
  xstr  : Nat
  trows : Nat
  m0    : Int
  ch    : Nat
  wid   : Nat
  dil   : Nat
  halo  : Option Nat
  hrows : Nat
  deriving DecidableEq, Repr

/-- The failure of a copy recorded against a wait counter (R163, R164). Log 83. -/
structure CopyFail where
  ctr    : Nat
  offset : DWord
  detail : BitVec 8
  wr     : Bool
  step   : Nat
  pc     : DWord
  deriving DecidableEq, Repr

/-- EINFO (R20). -/
structure Einfo where
  xnum    : BitVec 8 := 0
  xrow    : BitVec 4 := 0
  xcl     : BitVec 4 := 0
  detail  : BitVec 8 := 0
  remote  : Bool := false
  wr      : Bool := false
  slot    : BitVec 3 := 0
  applied : Bool := false
  deriving DecidableEq, Repr

/-- The control registers of R20. CYC is not here: it is the package's one count (R21). Log 5. -/
structure Ctl where
  tid    : BitVec 48 := 0
  core   : BitVec 5 := 0
  die    : BitVec 3 := 0
  pkg    : BitVec 16 := 0
  launch : BitVec 32 := 0
  lchk   : Bool := false
  lease  : Bool := false
  hnd    : Bool := false
  prov   : Bool := false
  rmode  : BitVec 2 := 0
  fpst   : BitVec 5 := 0
  mmst   : BitVec 3 := 0
  epc    : DWord := 0
  ecause : BitVec 8 := 0
  eaddr  : DWord := 0
  einfo  : Einfo := {}
  hbase  : DWord := 0
  sbase  : BitVec 8 := 0
  slim   : BitVec 9 := 0
  segt   : DWord := 0
  dmbc   : BitVec 5 := 0
  dmbd   : BitVec 32 := 0
  dmbp   : BitVec 8 := 0
  count  : BitVec 16 := 1
  rank   : BitVec 16 := 0
  phc    : Word := 0
  phd    : Word := 0
  php    : Word := 0
  phj    : Word := 0
  wlim   : Word := 65536
  deriving DecidableEq, Repr

/-- The engine state that LEASE saves to the lease extension of the spill frame (R127, section 13 of R302), with SBASE and SLIM
as they were. -/
structure LeaseImage where
  sb        : Nat
  slim      : Nat
  acc       : Vector Tile 8
  accPoison : Bits
  units     : Mem
  upoison   : Bits
  idn       : Bits
  pending   : Bits
  e         : Vector Scale 16
  pat       : Vector (Vector (BitVec 96) 64) 2
  bank      : Bool
  mcfg      : Option MConfig
  mwin      : Option MWindow
  mctr      : Nat × Nat × Nat
  marks     : List PMark
  deriving DecidableEq, Repr

/-- A deferred fault of a provisional step (R266). -/
structure Deferred where
  info : TrapInfo
  deriving DecidableEq, Repr

/-- An arrival at a barrier object whose request has left the core, while its BARV bundle holds (R409): the cycle in which the response
arrives, and what it brings: the value of D, or the exception (R158). -/
structure Arrival where
  due   : Nat
  reply : DWord ⊕ TrapInfo
  deriving DecidableEq, Repr

/-- The state of one thread (R9): its registers, its control registers, and what the device keeps for it. `home` is the core on which its step was first placed, which fixes its domain
instances (R30). Log 5. -/
structure Thread where
  launch    : Nat := 0
  step      : Nat := 0
  pc        : DWord := 0
  s         : Vector DWord 32 := Vector.replicate 32 0#64
  p         : BitVec 24 := 1#24
  k         : Vector (BitVec 128) 8 := (Vector.replicate 8 0#128).set 0 (BitVec.allOnes 128)
  v         : Vector Vec 32 := Vector.replicate 32 Vec.zero
  lS        : Vector DWord 8 := Vector.replicate 8 0#64
  lV        : Vector Vec 8 := Vector.replicate 8 Vec.zero
  q         : Vector Stream 8 := Vector.replicate 8 {}
  w         : Vector Half 4 := Vector.replicate 4 0#16
  o         : Vector Word 4 := Vector.replicate 4 0#32
  e         : Vector Scale 16 := Vector.replicate 16 Scale.zero
  pat       : Vector (Vector (BitVec 96) 64) 2 := Vector.replicate 2 (Vector.replicate 64 0#96)
  bank      : Bool := false
  acc       : Vector Tile 8 := Vector.replicate 8 Tile.zero
  accPoison : Bits := []
  ctl       : Ctl := {}
  home      : Nat := 0
  loops     : List LoopEntry := []
  loopShadow : List LoopEntry := []
  held      : HeldSet := {}
  heldShadow : HeldSet := {}
  breakSkip : Bool := false
  marks     : List PMark := []
  mcfg      : Option MConfig := none
  mwin      : Option MWindow := none
  mctr      : Nat × Nat × Nat := (0, 0, 0)
  flight    : List Landing := []
  ilocks    : List Ilock := []
  waited    : Nat := 0
  wlimF     : Option Nat := none
  fails     : List CopyFail := []
  arrived   : Option Nat := none
  leaseSave : Option LeaseImage := none
  deferred  : Option Deferred := none
  barv      : Option Arrival := none
  frame     : Option Nat := none
  quantum   : Nat := 0
  landed    : BitVec 5 := 0
  late      : List LateReport := []
  deriving DecidableEq, Repr

/-- A matrix engine command (R198, R202, R204, R205). The scale registers, the rounding mode and the vector registers are
captured at issue or commit; scratchpad bytes are read as they stand when the command runs, which R203 makes the same. -/
inductive XOp where
  | mstep (tile : Nat) (z : Bool) (mode : BitVec 2) (fa fb : BitVec 3) (ctra ctrb : Bool) (addrA addrB : Nat)
      (aps bps : Nat) (sa sb : Scale) (win : Option (MWindow × Nat × Nat))
  | mzero (tile : Nat)
  | amvr (tile row n vd w : Nat)
  | amvw (tile row w : Nat) (rows : List Vec)
  | mdrn (tile fmt : Nat) (mode : BitVec 2) (dst w : Nat)
  deriving DecidableEq, Repr

/-- Scratchpad bytes as they stood at the commit of an open engine command, before a stream element that was on its way landed there, and
which of their words were poisoned (R203). -/
structure OldBytes where
  off   : Nat
  bytes : List Byte
  bad   : List Nat
  deriving DecidableEq, Repr

/-- An X command in the engine's queue (R202): its token, the cycle of its commit, the scratchpad blocks it reads and
writes, which it owns until it completes, the bytes it reads that have changed since its commit, oldest first (R203), and the cycle in which
it completes under the nominal timing, once it has started. -/
structure XCmd where
  op     : XOp
  token  : Nat
  commit : Nat
  reads  : List Nat := []
  writes : List Nat := []
  was    : List OldBytes := []
  due    : Option Nat := none
  deriving DecidableEq, Repr

/-- A chunk descriptor (R219). Sources and destinations: `none` a stream destination that is discarded, `some (inl q)` a
stream, `some (inr (offset, stride))` scratchpad. -/
inductive ChunkPort where
  | stream (q : Nat)
  | pad (off : Nat) (stride : Int)
  | discard
  deriving DecidableEq, Repr

/-- A chunk descriptor (R219), with its bytes as the program wrote them (R302). -/
structure Chunk where
  len  : Nat
  as_  : ChunkPort
  bs   : ChunkPort
  hd   : ChunkPort
  xd   : ChunkPort
  init : Option Nat
  raw  : List Byte := []
  deriving DecidableEq, Repr

/-- A piece of a translated address range: its offset, length and address, and either its physical address with the key id, or the
package rank it lies in (R281, R282). -/
structure Piece where
  off  : Nat
  len  : Nat
  va   : DWord
  pa   : Nat
  key  : Nat
  away : Option Nat
  deriving DecidableEq, Repr

/-- A scan engine command (R217, R220, R221, R223, R229, R230). `u` is the physical unit index of the tile. -/
inductive NOp where
  | sid (u : Nat) (fp32 : Bool) (op : Word)
  | schk (u : Nat) (fp32 : Bool) (op : Word) (d : Chunk)
  | sfix (u : Nat) (fp32 : Bool) (op : Word) (d : Chunk)
  | sxch (u : Nat) (fp32 : Bool) (op : Word) (scan leaf : Nat)
  | srd (u row n vd : Nat) (wb fp32 : Bool)
  | swr (u row : Nat) (fp32 : Bool) (rows : List Vec)
  | sspl (u n w : Nat) (dst : Nat ⊕ List Piece)
  | sfil (u n w : Nat) (src : Nat ⊕ List Piece)
  deriving DecidableEq, Repr

/-- An N command in the scan engine's queue (R231), with the units it names and writes, the scratchpad blocks it reads and
writes (R222), the bytes it reads that have changed since its commit, the cycle of its nominal completion once it has started, and for an open SCHK or SFIX its progress in 512-byte pieces,
the element accumulators, none for the padding identity, their poisoned words (2 i for x and 2 i + 1 for y of element i) and its flags
so far (R220, R232, R335). -/
structure NCmd where
  op     : NOp
  token  : Nat
  commit : Nat
  units  : List Nat := []
  uwr    : List Nat := []
  blocks : List Nat := []
  bwr    : List Nat := []
  was    : List OldBytes := []
  due    : Option Nat := none
  done   : Nat := 0
  accs   : List (Option (Word × Word)) := []
  bad    : Bits := []
  flags  : BitVec 5 := 0
  deriving DecidableEq, Repr

/-- A segment held by an instruction bank (R305, R306). `poison` lists its poisoned 8-byte words with the image line each
came from (POISON DETAIL 1, R254); `failed` marks a segment whose copy met a poisoned line (R307). -/
structure Segment where
  index  : Nat
  start  : Nat
  len    : Nat
  img    : DWord
  bytes  : Mem
  poison : Bits
  failed : Bool := false
  deriving DecidableEq, Repr

/-- A segment copy under way: the segment and its table entry as read when the copy started (R422). -/
structure SegCopy where
  index : Nat
  start : Nat
  len   : Nat
  img   : DWord
  deriving DecidableEq, Repr

/-- The bundle that is being issued: the address of its header, its length in bytes, its header fields and its
long-immediate word (R57, R58). -/
structure Bundle where
  addr : DWord := 0
  len  : Nat := 0
  idle : Nat := 0
  brk  : Bool := false
  seg  : Bool := false
  limm : Option Word := none
  deriving DecidableEq, Repr

/-- A micro-TLB or last-level TLB entry (R283): context, page number, page size in bits and the entry found. -/
structure TlbEntry where
  ctx   : Nat
  page  : Nat
  shift : Nat
  entry : DWord
  deriving DecidableEq, Repr

/-- What an access needs of its page (R281). -/
structure Need where
  rd   : Bool := false
  wr   : Bool := false
  x    : Bool := false
  user : Bool := true
  deriving DecidableEq, Repr

/-- Where a copy or command came from: the thread, by launch and TID, or none for a COPY packet. -/
structure ThreadRef where
  launch : Nat
  tid    : Nat
  deriving DecidableEq, Repr

/-- A copy in the copy engine (R162, R347): its issuer, core and context, its counter, its addresses, its template once
read, how many destination words are done, the DMBD that bounds its scratchpad addresses (R141), whether it waits for its thread's
earlier accesses, and its own number. -/
structure Copy where
  who   : Option ThreadRef
  core  : Nat
  ctx   : Nat
  user  : Bool
  ctr   : Nat
  src   : DWord
  dst   : DWord
  tmpl  : DWord
  image : Option (List Byte)
  scope : BitVec 3
  prog  : Nat := 0
  packet : Option Nat := none
  step   : Nat := 0
  pc     : DWord := 0
  dmbd   : BitVec 32 := BitVec.allOnes 32
  rel    : Bool := false
  no     : Nat := 0
  deriving DecidableEq, Repr

/-- A reduction or signal operation on memory, as an effect (R152, R154, R170). -/
inductive AtomOp where
  | add | fadd | min | max | and | or | xor | xchg | cas | insm | ffcs | pls
  deriving DecidableEq, Repr

/-- One write a provisional step has buffered (R319): bytes at a physical address or a reduction there, the same at an address of
another package (R172, R282), or a contribution to a reduction window (R154). -/
inductive ProvItem where
  | bytes (pa key : Nat) (bs : List Byte)
  | red (pa key : Nat) (op : AtomOp) (size : Nat) (b : DWord)
  | away (rank : Nat) (va : DWord) (bs : List Byte)
  | awayRed (rank : Nat) (va : DWord) (op : AtomOp) (size : Nat) (b : DWord)
  | tree (line : Nat) (c : Contribution) (own : Bool)
  deriving DecidableEq, Repr

/-- The effects a bundle applies at its commit (R77): each slot that executes contributes a list of them, and a void
bundle applies none (R80). -/
inductive Eff where
  | land (l : Landing)
  | ilock (i : Ilock)
  | scratch (core off : Nat) (bs : List Byte)
  | full (core word : Nat) (b rel : Bool)
  | pin (pa n : Nat)
  | mem (pa key : Nat) (bs : List Byte)
  | prov (i : ProvItem)
  | release (loc n : Nat) (scope : BitVec 3)
  | race (pa : Nat) (wr : Bool)
  | sent (va : Option DWord) (rank : Nat)
  | contribute (c : Contribution) (own : Bool)
  | mmst (bits : BitVec 3)
  | jump (target : DWord)
  | loopPush (e : LoopEntry)
  | loopPop
  | mtc (num : BitVec 6) (x : DWord)
  | failClear (ctr : Nat)
  | phase (level : Nat)
  | suspend
  | exit
  | sysc (n : BitVec 8)
  | reth
  | lease
  | unlease
  | segCopy (idx : Nat)
  | streamTake (q : Nat)
  | streamOwe (q : Nat)
  | holdS (slot : Nat) (x : DWord)
  | holdV (slot : Nat) (x : Vec)
  | unhold (slot : Nat)
  | bind (q : Nat) (b : Stream)
  | unbind (q : Nat)
  | counter (w : Nat)
  | copy (c : Copy)
  | coll (addr : DWord) (scope : BitVec 3) (rel : Bool)
  | trig (handle : DWord) (amount : Word)
  | xcmd (c : XOp) (reads writes : List Nat)
  | ncmd (c : NOp) (units uwr blocks bwr : List Nat)
  | mcfg (c : MConfig)
  | mwin (c : MWindow)
  | mctr (c : Nat × Nat × Nat)
  | patsw
  | sopd (n : Nat) (x : Word)
  | walk (va : DWord) (need : Need)
  | arrive (level : Nat)
  | device (off : Nat) (bs : List Byte)
  | popPage
  | remote (rank : Nat) (write : Bool) (va : DWord) (bs : List Byte)
  | atom (pa key : Nat) (bs : List Byte)
  | padAtom (core off : Nat) (bs : List Byte)
  | remoteAtom (rank : Nat) (op : AtomOp) (size : Nat) (va b d : DWord) (token : Option Nat)
  | remoteBar (rank : Nat) (va : DWord) (n : Option Nat)
  | barvSent (a : Arrival)
  | draw
  | grabAsk (d p : Nat)
  | violation (addr : DWord) (reason : Nat)
  | abortSeen (unit : Nat)
  deriving DecidableEq, Repr

/-- What a held bundle waits for, as far as R117 needs it: its limit (0 unbounded), the WAIT_TIMEOUT detail, whether WLIM
applies (it applies to waits, tagged waits, barrier waits and stream reads: R117, R151, R159, R225, R277, R297), and the slot
that waits. -/
structure WaitInfo where
  limit  : Nat := 0
  detail : BitVec 8 := 0
  wlim   : Bool := false
  slot   : Nat := 0
  deriving DecidableEq, Repr

/-- What looking at one slot at issue gives (R70, R74, R80): guarded off; the bundle holds, with what the device does while
it holds (a walk is asked for, an arrival counts); a hold whose request leaves in the first cycle in which nothing else holds and
nothing is raised, with what the request does (R409); an encoding exception, which comes before any hold; an exception, with
the effects that stand although the bundle is void (R158, R244); or the effects to apply at commit. -/
inductive Res where
  | off
  | hold (w : WaitInfo) (es : List Eff)
  | send (es : List Eff)
  | enc (t : TrapInfo)
  | trap (t : TrapInfo) (es : List Eff)
  | ok (es : List Eff)
  deriving DecidableEq, Repr

/-- The fault of a page walk that a held bundle of a core waits for (R283). -/
structure WalkFault where
  ctx    : Nat
  va     : DWord
  cause  : BitVec 8
  detail : BitVec 8
  deriving DecidableEq, Repr

/-- A launch's claim that stays on a core while a thread of another launch occupies it, with its bytes, full/empty bits and poison
marks (R27, R297). -/
structure Claim where
  launch : Nat
  size   : Nat
  bytes  : Mem := []
  full   : Bits := []
  poison : Bits := []
  deriving DecidableEq, Repr

/-- One core with the thread resident on it, its engines' queues, the blocks that drains have written and that have not returned, each with the
drain's wait counter (R414), with the claim of the launch that occupies it and the claims that stay beside it: tile
cores 0 to 255 as 32 die + core, firmware cores 256 to 259. `exiting`: the thread has ended and waits for its engine commands (R122);
`discard`: their results are discarded (R321). Log 5. -/
structure Core where
  live      : Bool := false
  frozen    : Bool := false
  exiting   : Bool := false
  discard   : Bool := false
  thr       : Thread := {}
  scratch   : Mem := []
  full      : Bits := []
  spoison   : Bits := []
  claim     : Nat := 0
  owner     : Option Nat := none
  beside    : List Claim := []
  acc       : Nat := 0
  units     : Mem := []
  upoison   : Bits := []
  idn       : Bits := []
  pending   : Bits := []
  aborted   : Bits := []
  xq        : List XCmd := []
  nq        : List NCmd := []
  drained   : List (Nat × Nat) := []
  xArray    : Nat := 0
  xPort     : Nat := 0
  nFree     : Nat × Nat × Nat := (0, 0, 0)
  banks     : Vector (Option Segment) 2 := Vector.replicate 2 none
  active    : Bool := false
  copying   : Option SegCopy := none
  segFails  : List (Nat × TrapInfo) := []
  viaBranch : Bool := false
  utlb      : List TlbEntry := []
  nextIssue : Nat := 0
  placed    : Nat := 0
  freezeReq : Option (Nat × Nat) := none
  wfaults   : List WalkFault := []
  found     : List TlbEntry := []
  waitInfo  : Option WaitInfo := none
  bun       : Bundle := {}
  stage     : Option (List (Nat × Res)) := none
  deriving DecidableEq, Repr

end Sys2Proof.Machine
end

