-- ==== Sys2Proof/Machine/Encoding.lean ====
section
/-! DEFINITION. The encoding of every slot instruction as one table (R109, R130 to R136, R137, R174, R193, R212): its slot,
its opcode (R82), what each field holds, and from it the encoding checks in the order of R79, the operand fields, the
destinations and the latencies that the bundle rules of R78 compare. -/

namespace Sys2Proof.Machine

/-- What the D, A or B field of an instruction holds (R63, R65, R109, R137, R174, R193, R212). `dest` marks a number field
that serves only as a destination, which is not decoded when WB is 0 (R65). -/
inductive Field where
  | zero
  | any
  | src
  | dst
  | srcDst
  | pred (dest : Bool)
  | mask (dest : Bool)
  | reg (dest : Bool)
  | num (ok : Nat → Bool)

/-- What bits [5:4] of the slot word hold (R66, R67, R71): a hold, the A slot's IMM (`true` where a short immediate is
accepted), or the L slot's ordering with the orderings accepted. -/
inductive Bits54 where
  | hold
  | imm (accepts : Bool)
  | order (accepts : List (BitVec 2))

/-- One row of the encoding tables. `fmt` answers the ILLEGAL_OP detail of a refused FMT; `own` holds the value rules of the
instruction's own description that the word's bits alone decide (check 10 of R79). -/
structure Row where
  slot  : Slot
  op    : BitVec 6
  fmt   : Option Nat
  d     : Field
  a     : Field
  b     : Field
  mod   : Bool
  b54   : Bits54
  wb    : Option Bool
  own   : Bool := true
  noFw  : Bool := false
  vOnly : Option VSlot := none

/-- Elements of one lane in the vector format FMT: 1, 2 or 4 (R11, R68). -/
def kel (fmt : Nat) : Nat :=
  if fmt = 1 ∨ fmt = 2 ∨ fmt = 4 then 2 else if fmt = 5 then 4 else 1

/-- An FMT check whose refusal has DETAIL 2. -/
def fmtIf (ok : Bool) : Option Nat := if ok then none else some 2

/-- The FMT check of an instruction with a list of access sizes: DETAIL 14 for a size it does not accept, 2 for any other
refused value (R138). -/
def fmtSize (w : SlotWord) (sizes : List Nat) (bit2 : Bool) : Option Nat :=
  if w.fmt.toNat % 4 ∉ sizes then some 14 else fmtIf (bit2 || w.fmt.toNat < 4)

/-- A number field whose values from 0 to m are accepted. -/
def upTo (m : Nat) : Field := .num fun x => x ≤ m

/-- A C-slot row: FMT must be `f`-accepted, bits [5:4] hold, WB as given (R109). -/
def rowC (op : BitVec 6) (d a b : Field) (wb : Option Bool) (fmt : Option Nat) (mod : Bool) (noFw : Bool := false) : Row :=
  { slot := .c, op := op, fmt := fmt, d := d, a := a, b := b, mod := mod, b54 := .hold, wb := wb, noFw := noFw }

/-- An A-slot row that reads B with the short immediate (R66, R130): under IMM = 01 neither B nor MOD is decoded further. Log 111. -/
def rowA (op : BitVec 6) (w : SlotWord) (d a : Field) (fmt : Bool) : Row :=
  { slot := .a, op := op, fmt := fmtIf fmt, d := d, a := a, b := if w.hold = 0 then .src else .any,
    mod := w.hold = 1 || w.mod = 0, b54 := .imm true, wb := none }

/-- An A-slot row without a short immediate (R130 for an unread B, R135, R136). -/
def rowA' (op : BitVec 6) (d a b : Field) (fmt mod : Bool) (own : Bool := true) : Row :=
  { slot := .a, op := op, fmt := fmtIf fmt, d := d, a := a, b := b, mod := mod, b54 := .imm false, wb := none, own := own }

/-- The B field of an "off" form: a scaled immediate when FMT[2] is 1, else an operand (R67, R137). -/
def offB (w : SlotWord) : Field := if w.fmt.toNat < 4 then .src else .any

/-- MOD where its low three bits are a scope: at most SYS, 000 under RLX but for BARV and BARW, and MOD[3] as allowed (R67,
R143). -/
def modScope (w : SlotWord) (bit3 : Bool) (bar : Bool := false) : Bool :=
  w.mod.toNat % 8 ≤ 4 && (bar || w.hold ≠ 0 || w.mod.toNat % 8 = 0) && (bit3 || w.mod.toNat < 8)

/-- An L-slot row (R137). -/
def rowL (op : BitVec 6) (d a b : Field) (fmt : Option Nat) (ord : List (BitVec 2)) (mod : Bool) (wb : Option Bool)
    (noFw : Bool := false) : Row :=
  { slot := .l, op := op, fmt := fmt, d := d, a := a, b := b, mod := mod, b54 := .order ord, wb := wb, noFw := noFw }

/-- A V-slot row (R174). -/
def rowV (u : VSlot) (op : BitVec 6) (d a b : Field) (fmt mod : Bool) (own : Bool := true) (only : Option VSlot := none) :
    Row :=
  { slot := u.slot, op := op, fmt := fmtIf fmt, d := d, a := a, b := b, mod := mod, b54 := .hold, wb := none, own := own,
    vOnly := only }

/-- An X-, N- or F-slot row (R193, R212). -/
def rowE (k : Slot) (op : BitVec 6) (d a b : Field) (fmt mod : Bool) (wb : Option Bool) (own : Bool := true) : Row :=
  { slot := k, op := op, fmt := fmtIf fmt, d := d, a := a, b := b, mod := mod, b54 := .hold, wb := wb, own := own }

/-- No ordering but RLX. -/
def ordNone : List (BitVec 2) := [0]
/-- The orderings of a load. -/
def ordLoad : List (BitVec 2) := [0, 1]
/-- The orderings of a store, a reduction or a command. -/
def ordStore : List (BitVec 2) := [0, 2]
/-- Every ordering. -/
def ordAny : List (BitVec 2) := [0, 1, 2, 3]

/-- A floating vector format (R68). -/
def vfp (w : SlotWord) : Bool := w.fmt.toNat ≤ 2
/-- A vector format. -/
def vany (w : SlotWord) : Bool := w.fmt.toNat ≤ 5
/-- An integer vector format. -/
def vint (w : SlotWord) : Bool := 3 ≤ w.fmt.toNat && w.fmt.toNat ≤ 5

/-- The value rules of VCVT that its word decides (R184). -/
def vcvtOk (w : SlotWord) : Bool :=
  let g := w.b.toNat % 8
  let part := w.b.toNat / 8 % 4
  g ≠ w.fmt.toNat && part < max (kel w.fmt.toNat) (kel g) / min (kel w.fmt.toNat) (kel g) && !(w.b.toNat ≥ 32 && g ≤ 2)

/-- Whether VCVT reads its D field: the destination has more elements per lane than the source (R184). -/
def vcvtReadsD (w : SlotWord) : Bool := kel w.fmt.toNat < kel (w.b.toNat % 8)

/-- The scalar floating formats of R135. -/
def sfFmt (w : SlotWord) : Bool := w.fmt = 1 || w.fmt = 2 || w.fmt = 6

/-- The directions SFCVT accepts (R136): every listed MOD but a conversion from a format to itself. -/
def sfcvtMod (w : SlotWord) : Bool :=
  w.mod.toNat ∈ [0, 1, 2, 4, 5, 6, 7, 8, 9, 10, 11] &&
    !(w.mod = 0 && w.fmt = 1) && !(w.mod = 1 && w.fmt = 2) && !(w.mod = 2 && w.fmt = 6)

/-- A rounding code: 0 for RMODE, 4 to 7 for an explicit mode (R136, R193). -/
def roundCode (x : Nat) : Bool := x = 0 || 4 ≤ x && x ≤ 7

/-- The encoding row of a slot instruction with its slot word; none for an event of the device. Whether the range of a plain number is checked
with its row here (check 5 of R79) or later (check 10), the spec leaves open: VCVT's g, VXC's mode and VRED's [5:3] here, VCLAMP's n, VBCAST's e,
VMOVN's n and VRED's operations 6 and 7 later. Log 126. -/
def row : Instr → Option (SlotWord × Row)
  | .br w => some (w, rowC 0x01 .any .any .any (some false) (fmtIf (w.fmt = 0)) true)
  | .call w => some (w, rowC 0x02 .any .any .any (some false) (fmtIf (w.fmt = 0)) true)
  | .bri w => some (w, rowC 0x03 .zero .src .zero (some false) (fmtIf (w.fmt = 0)) (w.mod = 0))
  | .ret w => some (w, rowC 0x04 .zero .zero .zero (some false) (fmtIf (w.fmt = 0)) (w.mod = 0))
  | .loop w => some (w, rowC 0x05 .src .any .any (some false) (fmtIf (w.fmt = 0)) true)
  | .loopr w => some (w, rowC 0x06 .src .any .any (some false) none true)
  | .lexit w => some (w, rowC 0x07 .zero .zero .zero (some false) (fmtIf (w.fmt = 0)) (w.mod = 0))
  | .pand w => some (w, rowC 0x08 (.pred true) (.pred false) (.pred false) none (fmtIf (w.fmt = 0)) (w.mod = 0))
  | .por w => some (w, rowC 0x09 (.pred true) (.pred false) (.pred false) none (fmtIf (w.fmt = 0)) (w.mod = 0))
  | .pxor w => some (w, rowC 0x0A (.pred true) (.pred false) (.pred false) none (fmtIf (w.fmt = 0)) (w.mod = 0))
  | .pandn w => some (w, rowC 0x0B (.pred true) (.pred false) (.pred false) none (fmtIf (w.fmt = 0)) (w.mod = 0))
  | .pmov w => some (w, rowC 0x0C (.pred true) (.pred false) .zero none (fmtIf (w.fmt = 0)) (w.mod = 0))
  | .mfc w => some (w, rowC 0x0D .dst (upTo 26) .zero none (fmtIf (w.fmt = 0)) (w.mod = 0))
  | .mtc w => some (w, rowC 0x0E .zero .src (upTo 26) (some false) (fmtIf (w.fmt = 0)) (w.mod = 0))
  | .waitc w => some (w, rowC 0x0F .src (upTo 3) .src (some false) (fmtIf (w.fmt = 0)) (w.mod = 0))
  | .waito w => some (w, rowC 0x10 .src .src .zero (some false) (fmtIf (w.fmt = 0)) (w.mod = 0) true)
  | .dsync w => some (w, rowC 0x11 .zero .zero .zero (some false) (fmtIf (w.fmt = 0)) (decide (w.mod.toNat ≤ 3)) true)
  | .susp w => some (w, rowC 0x12 .zero .zero .zero (some false) (fmtIf (w.fmt = 0)) (w.mod = 0) true)
  | .exit w => some (w, rowC 0x13 .zero .zero .zero (some false) (fmtIf (w.fmt = 0)) (w.mod = 0) true)
  | .confw w => some (w, rowC 0x14 .zero .zero .zero (some false) (fmtIf (w.fmt = 0)) (w.mod = 0) true)
  | .trap w => some (w, rowC 0x15 .zero (upTo 7) .zero (some false) (fmtIf (w.fmt = 0)) true)
  | .sysc w => some (w, rowC 0x16 .zero (upTo 7) .zero (some false) (fmtIf (w.fmt = 0)) true)
  | .reth w => some (w, rowC 0x17 .zero .zero .zero (some false) (fmtIf (w.fmt = 0)) (w.mod = 0))
  | .lease w => some (w, rowC 0x18 .zero .zero .zero (some false) (fmtIf (w.fmt = 0)) (w.mod = 0))
  | .unlease w => some (w, rowC 0x19 .zero .zero .zero (some false) (fmtIf (w.fmt = 0)) (w.mod = 0))
  | .bkpt w => some (w, rowC 0x1A .zero .zero .zero (some false) (fmtIf (w.fmt = 0)) (w.mod = 0))
  | .segpf w => some (w, rowC 0x1B .zero .src .zero (some false) (fmtIf (w.fmt = 0)) (w.mod = 0) true)
  | .grab w => some (w, { rowC 0x1C (.reg false) (.pred false) .zero (some true) (fmtIf (w.fmt = 0)) (w.mod = 0) true with
      own := w.d ≠ 31 })
  | .add w => some (w, rowA 0x01 w .dst .src true)
  | .sub w => some (w, rowA 0x02 w .dst .src true)
  | .mul w => some (w, rowA 0x03 w .dst .src true)
  | .mulh w => some (w, rowA 0x04 w .dst .src true)
  | .div w => some (w, rowA 0x05 w .dst .src true)
  | .rem w => some (w, rowA 0x06 w .dst .src true)
  | .and_ w => some (w, rowA 0x07 w .dst .src true)
  | .or_ w => some (w, rowA 0x08 w .dst .src true)
  | .xor_ w => some (w, rowA 0x09 w .dst .src true)
  | .andn w => some (w, rowA 0x0A w .dst .src true)
  | .shl w => some (w, rowA 0x0B w .dst .src true)
  | .shr w => some (w, rowA 0x0C w .dst .src true)
  | .rot w => some (w, rowA 0x0D w .dst .src true)
  | .min_ w => some (w, rowA 0x0E w .dst .src true)
  | .max_ w => some (w, rowA 0x0F w .dst .src true)
  | .ext w => some (w, rowA' 0x10 .dst .src .zero true (w.mod = 0))
  | .clz w => some (w, rowA' 0x11 .dst .src .zero (w.fmt.toNat < 4) (w.mod = 0))
  | .ctz w => some (w, rowA' 0x12 .dst .src .zero (w.fmt.toNat < 4) (w.mod = 0))
  | .popc w => some (w, rowA' 0x13 .dst .src .zero (w.fmt.toNat < 4) (w.mod = 0))
  | .bfx w => some (w, rowA 0x14 w .dst .src (w.fmt.toNat % 4 = 0))
  | .bfi w => some (w, rowA 0x15 w .srcDst .src (w.fmt = 0))
  | .cmp w => some (w, rowA 0x16 w (.pred true) .src true)
  | .csel w => some (w, rowA 0x17 w .dst .src (w.fmt = 0))
  | .movi w => some (w, rowA 0x18 w .dst .zero true)
  | .movh w => some (w, rowA 0x19 w .srcDst .zero (w.fmt = 0))
  | .lea w => some (w, rowA 0x1A w .dst .src (w.fmt.toNat < 4))
  | .sfadd w => some (w, rowA' 0x1B .dst .src .src (sfFmt w) (w.mod.toNat ≤ 1))
  | .sfmul w => some (w, rowA' 0x1C .dst .src .src (sfFmt w) (w.mod = 0))
  | .sffma w => some (w, rowA' 0x1D .srcDst .src .src (sfFmt w) (w.mod.toNat ≤ 3))
  | .sfcmp w => some (w, rowA' 0x1E (.pred true) .src .src (sfFmt w) (w.mod.toNat ≤ 3))
  | .sfcvt w => some (w, rowA' 0x1F .dst .src (.num roundCode) (sfFmt w) (sfcvtMod w))
  | .ldg w => some (w, rowL 0x01 .dst .src (offB w) none ordLoad (modScope w true) none)
  | .stg w => some (w, rowL 0x02 .src .src (offB w) none ordStore (modScope w false) (some false))
  | .ldl w => some (w, rowL 0x03 .dst .src (offB w) none ordLoad (modScope w true) none)
  | .stl w => some (w, rowL 0x04 .src .src (offB w) none ordStore (modScope w false) (some false))
  | .vldg w => some (w, rowL 0x05 .dst .src (offB w) (fmtIf (w.fmt.toNat % 4 = 0)) ordNone (w.mod = 0) none true)
  | .vstg w => some (w, rowL 0x06 .src .src (offB w) (fmtIf (w.fmt.toNat % 4 = 0)) ordNone (w.mod = 0) (some false) true)
  | .vldl w => some (w, rowL 0x07 .dst .src (offB w) (fmtIf (w.fmt.toNat % 4 = 0)) ordNone (w.mod = 0) none true)
  | .vstl w => some (w, rowL 0x08 .src .src (offB w) (fmtIf (w.fmt.toNat % 4 = 0)) ordNone (w.mod = 0) (some false) true)
  | .vgtg w => some (w, rowL 0x09 .srcDst .src .src (fmtIf (w.fmt.toNat % 4 = 2)) ordNone (w.mod = 0) none true)
  | .vscg w => some (w, rowL 0x0A .src .src .src (fmtIf (w.fmt.toNat % 4 = 2)) ordNone (w.mod = 0) (some false) true)
  | .vgtl w => some (w, rowL 0x0B .srcDst .src .src (fmtIf (w.fmt.toNat % 4 = 2)) ordNone (w.mod = 0) none true)
  | .vscl w => some (w, rowL 0x0C .src .src .src (fmtIf (w.fmt.toNat % 4 = 2)) ordNone (w.mod = 0) (some false) true)
  | .ldf w => some (w, rowL 0x0D .dst .src (offB w) (fmtSize w [3] true) ordNone true none true)
  | .ldfe w => some (w, rowL 0x0E .dst .src (offB w) (fmtSize w [3] true) ordNone true none true)
  | .ste w => some (w, rowL 0x0F .src .src (offB w) (fmtSize w [3] true) ordNone true (some false) true)
  | .stfl w => some (w, rowL 0x10 .src .src (offB w) (fmtSize w [3] true) ordNone (w.mod = 0) (some false) true)
  | .fez w => some (w, rowL 0x11 .zero .src (offB w) (fmtSize w [3] true) ordNone (w.mod = 0) (some false) true)
  | .feq w => some (w, rowL 0x12 .dst .src (offB w) (fmtSize w [3] true) ordNone (w.mod = 0) none true)
  | .aadd w => some (w, rowL 0x13 .dst .src .src (fmtSize w [2, 3] false) ordAny (modScope w true) none)
  | .afadd w => some (w, rowL 0x14 .dst .src .src (fmtSize w [1, 2] false) ordAny (modScope w true) none)
  | .amin w => some (w, rowL 0x15 .dst .src .src (fmtSize w [2, 3] false) ordAny (modScope w true) none)
  | .amax w => some (w, rowL 0x16 .dst .src .src (fmtSize w [2, 3] false) ordAny (modScope w true) none)
  | .aand w => some (w, rowL 0x17 .dst .src .src (fmtSize w [2, 3] false) ordAny (modScope w true) none)
  | .aor w => some (w, rowL 0x18 .dst .src .src (fmtSize w [2, 3] false) ordAny (modScope w true) none)
  | .axor w => some (w, rowL 0x19 .dst .src .src (fmtSize w [2, 3] false) ordAny (modScope w true) none)
  | .axch w => some (w, rowL 0x1A .dst .src .src (fmtSize w [2, 3] false) ordAny (modScope w true) none)
  | .acas w => some (w, rowL 0x1B .srcDst .src .src (fmtSize w [2, 3] false) ordAny (modScope w true) (some true))
  | .ainsm w => some (w, rowL 0x1C .srcDst .src .src (fmtSize w [2, 3] false) ordAny (modScope w true) (some true))
  | .affcs w => some (w, rowL 0x1D .dst .src .zero (fmtSize w [3] false) ordAny (modScope w true) none)
  | .apls w => some (w, rowL 0x1E .srcDst .src .src (fmtSize w [3] false) ordAny (modScope w true) (some true))
  | .redadd w => some (w, rowL 0x1F .zero .src .src (fmtSize w [2, 3] false) ordStore (modScope w true) (some false))
  | .redfadd w => some (w, rowL 0x20 .zero .src .src (fmtSize w [1, 2] false) ordStore (modScope w true) (some false))
  | .redmin w => some (w, rowL 0x21 .zero .src .src (fmtSize w [2, 3] false) ordStore (modScope w true) (some false))
  | .redmax w => some (w, rowL 0x22 .zero .src .src (fmtSize w [2, 3] false) ordStore (modScope w true) (some false))
  | .redand w => some (w, rowL 0x23 .zero .src .src (fmtSize w [2, 3] false) ordStore (modScope w true) (some false))
  | .redor w => some (w, rowL 0x24 .zero .src .src (fmtSize w [2, 3] false) ordStore (modScope w true) (some false))
  | .redxor w => some (w, rowL 0x25 .zero .src .src (fmtSize w [2, 3] false) ordStore (modScope w true) (some false))
  | .bari w => some (w, rowL 0x26 .zero .src .src (fmtIf (w.fmt = 0)) ordStore (modScope w true) (some false))
  | .barv w => some (w, rowL 0x27 .dst .src .src (fmtIf (w.fmt = 0)) ordNone (modScope w true true) none)
  | .barw w => some (w, rowL 0x28 .src .src .src (fmtIf (w.fmt = 0)) ordNone (modScope w true true) (some false))
  | .fence w => some (w, rowL 0x29 .zero .zero .zero (fmtIf (w.fmt = 0)) [1, 2, 3] (modScope w false) (some false))
  | .cpy w => some (w, rowL 0x2A .any .src .src (fmtIf (w.fmt.toNat < 4)) ordStore (modScope w false) (some false))
  | .qbind w => some (w, rowL 0x2B (upTo 7) .src .zero (fmtIf (w.fmt.toNat ≤ 1)) ordNone (w.mod = 0) (some false) true)
  | .qstop w => some (w, rowL 0x2C (upTo 7) .zero .zero (fmtIf (w.fmt = 0)) ordNone (w.mod = 0) (some false) true)
  | .qdrn w => some (w, rowL 0x2D (upTo 7) .zero .zero (fmtIf (w.fmt = 0)) ordNone (w.mod = 0) (some false) true)
  | .csub w => some (w, rowL 0x2E .zero .src .zero (fmtIf (w.fmt = 0)) ordStore (modScope w false) (some false))
  | .trig w => some (w, rowL 0x2F .zero .src .src (fmtIf (w.fmt = 0)) ordStore (modScope w false) (some false))
  | .sigop w => some (w, rowL 0x30 .zero .src .src (fmtIf (w.fmt.toNat ≤ 2)) ordStore (modScope w false) (some false))
  | .pref w => some (w, rowL 0x31 .zero .src (offB w) (fmtIf (w.fmt.toNat % 4 ≤ 1)) ordNone (w.mod = 0) (some false))
  | .vadd u w => some (w, rowV u 0x01 .dst .src .src (vany w) true)
  | .vsub u w => some (w, rowV u 0x02 .dst .src .src (vany w) true)
  | .vmul u w => some (w, rowV u 0x03 .dst .src .src (vany w) true)
  | .vfma u w => some (w, rowV u 0x04 .srcDst .src .src (vany w) true)
  | .vfms u w => some (w, rowV u 0x05 .srcDst .src .src (vany w) true)
  | .vfnma u w => some (w, rowV u 0x06 .srcDst .src .src (vany w) true)
  | .vmin u w => some (w, rowV u 0x07 .dst .src .src (vany w) true)
  | .vmax u w => some (w, rowV u 0x08 .dst .src .src (vany w) true)
  | .vabs u w => some (w, rowV u 0x09 .dst .src .zero (vany w) true)
  | .vneg u w => some (w, rowV u 0x0A .dst .src .zero (vany w) true)
  | .vand u w => some (w, rowV u 0x0B .dst .src .src (vany w) true)
  | .vor u w => some (w, rowV u 0x0C .dst .src .src (vany w) true)
  | .vxor u w => some (w, rowV u 0x0D .dst .src .src (vany w) true)
  | .vandn u w => some (w, rowV u 0x0E .dst .src .src (vany w) true)
  | .vshl u w => some (w, rowV u 0x0F .dst .src .src (vint w) true)
  | .vshr u w => some (w, rowV u 0x10 .dst .src .src (vint w) true)
  | .vsar u w => some (w, rowV u 0x11 .dst .src .src (vint w) true)
  | .vmulh u w => some (w, rowV u 0x12 .dst .src .src (vint w) true)
  | .vclamp u w => some (w, rowV u 0x13 .dst .src .any (vint w) true (w.b.toNat % 32 + 1 ≤ 32 / kel w.fmt.toNat))
  | .vcmp u w => some (w, rowV u 0x14 .any .src .src (vany w) true (!(vfp w && w.d.toNat ≥ 48)))
  | .vsel u w => some (w, rowV u 0x15 .dst .src .src (w.fmt = 0) (w.mod.toNat < 8))
  | .vcvt u w => some (w, rowV u 0x16 (if vcvtReadsD w then .srcDst else .dst) .src (.num fun x => x % 8 ≤ 5) (vany w) true (vcvtOk w))
  | .vpack u w => some (w, rowV u 0x17 (.reg true) (.reg false) .zero (w.fmt.toNat ∈ [1, 2, 4, 5]) true (w.a.toNat + kel w.fmt.toNat ≤ 32))
  | .vunpk u w => some (w, rowV u 0x18 (.reg true) (.reg false) .zero (w.fmt.toNat ∈ [1, 2, 4, 5]) true (!w.wb || w.d.toNat + kel w.fmt.toNat ≤ 32))
  | .vrcp u w => some (w, rowV u 0x19 .dst .src .zero (vfp w) true)
  | .vrsq u w => some (w, rowV u 0x1A .dst .src .zero (vfp w) true)
  | .vsqrt u w => some (w, rowV u 0x1B .dst .src .zero (vfp w) true)
  | .vexp2 u w => some (w, rowV u 0x1C .dst .src .zero (vfp w) true)
  | .vlog2 u w => some (w, rowV u 0x1D .dst .src .zero (vfp w) true)
  | .vmovi u w => some (w, rowV u 0x1E .dst .any .any (vany w) true)
  | .vmov u w => some (w, rowV u 0x1F .dst .src .zero (w.fmt = 0) true)
  | .vmovn u w => some (w, rowV u 0x20 (.reg true) (.reg false) .any (w.fmt = 0) true (w.a.toNat + w.b.toNat + 1 ≤ 32 && (!w.wb || w.d.toNat + w.b.toNat + 1 ≤ 32)))
  | .vbcast u w => some (w, rowV u 0x21 .dst .src .any (vany w) true (w.b.toNat < 16 * kel w.fmt.toNat))
  | .vext u w => some (w, rowV u 0x22 (.reg true) .src (.reg false) (vany w) (w.mod = 0))
  | .vidx u w => some (w, rowV u 0x23 .dst .zero .zero (vany w) true)
  | .vshuf u w => some (w, rowV u 0x24 .srcDst .src .any (w.fmt = 0) true true (some .v1))
  | .vxc u w => some (w, rowV u 0x25 .dst .src (.num fun x => x / 16 ≠ 3 && x / 8 % 2 = 0) (w.fmt = 0) true true (some .v0))
  | .vred u w => some (w, rowV u 0x26 .dst .src (upTo 7) (vany w) true (w.b.toNat ≤ 5 && !(vfp w && w.b.toNat ≥ 3)))
  | .vscan u w => some (w, rowV u 0x27 .dst .src (upTo 7) (vany w) true (w.b.toNat ≤ 5 && !(vfp w && w.b.toNat ≥ 3)))
  | .kand u w => some (w, rowV u 0x28 (.mask true) (.mask false) (.mask false) (w.fmt = 0) (w.mod = 0))
  | .kor u w => some (w, rowV u 0x29 (.mask true) (.mask false) (.mask false) (w.fmt = 0) (w.mod = 0))
  | .kxor u w => some (w, rowV u 0x2A (.mask true) (.mask false) (.mask false) (w.fmt = 0) (w.mod = 0))
  | .knot u w => some (w, rowV u 0x2B (.mask true) (.mask false) .zero (w.fmt = 0) (w.mod = 0))
  | .kpop u w => some (w, rowV u 0x2C (.reg true) (.mask false) .zero (w.fmt = 0) (w.mod = 0))
  | .mcfg w => some (w, rowE .x 0x01 .zero .src .zero (w.fmt = 0) (w.mod = 0) (some false))
  | .mwin w => some (w, rowE .x 0x02 .zero .src .zero (w.fmt = 0) (w.mod = 0) (some false))
  | .mstep w => some (w, rowE .x 0x03 .zero .zero .zero (w.fmt.toNat ≤ 5) (w.mod.toNat ≤ 1) (some false))
  | .mzero w => some (w, rowE .x 0x04 (upTo 7) .zero .zero (w.fmt = 0) (w.mod = 0) (some false))
  | .amvr w => some (w, rowE .x 0x05 (upTo 31) .src .any (w.fmt = 0) (w.mod.toNat ≤ 3) (some false) (w.d.toNat + w.b.toNat % 8 + 1 ≤ 32))
  | .amvw w => some (w, rowE .x 0x06 (upTo 31) .src .any (w.fmt = 0) (w.mod.toNat ≤ 3) (some false) (w.d.toNat + w.b.toNat % 8 + 1 ≤ 32))
  | .mdrn w => some (w, rowE .x 0x07 (.num fun x => roundCode (x / 8)) .src .zero (w.fmt = 0) (w.mod.toNat % 4 ≠ 3) (some false))
  | .mfin w => some (w, rowE .x 0x08 (upTo 7) .zero .zero (w.fmt = 0) (w.mod = 0) (some false))
  | .sopd w => some (w, rowE .n 0x01 (upTo 3) .src .zero (w.fmt = 0) (w.mod = 0) (some false))
  | .sid w => some (w, rowE .n 0x02 .zero .zero .any (w.fmt.toNat ≤ 1) true (some false))
  | .scmb w => some (w, rowE .n 0x03 (.reg true) (.reg false) (.reg false) (w.fmt.toNat ≤ 1) (w.mod.toNat ≤ 3) none (w.a ≠ 31 && w.b ≠ 31 && (!w.wb || w.d ≠ 31)))
  | .schk w => some (w, rowE .n 0x04 .zero .src .any (w.fmt.toNat ≤ 1) true (some false))
  | .sxch w => some (w, rowE .n 0x05 .zero .src .any (w.fmt.toNat ≤ 1) true (some false))
  | .swt w => some (w, rowE .n 0x06 .src .zero .any (w.fmt.toNat ≤ 1) (w.mod.toNat % 4 = 0) (some false))
  | .sfix w => some (w, rowE .n 0x07 .zero .src .any (w.fmt.toNat ≤ 1) true (some false))
  | .sstepAff w => some (w, rowE .n 0x08 (.reg true) (.reg false) .src (w.fmt.toNat ≤ 1) (w.mod = 0) none (w.a ≠ 31))
  | .sstepSsm w => some (w, rowE .n 0x08 (.reg true) (.reg false) .src (w.fmt.toNat ≤ 1) (w.mod = 1) none (w.a ≠ 31))
  | .srd w => some (w, rowE .n 0x09 (.reg true) (upTo 15) .any (w.fmt.toNat ≤ 1) true none (!w.wb || w.d.toNat + 2 ^ (w.mod.toNat % 4) ≤ 32))
  | .swr w => some (w, rowE .n 0x0A (.reg false) (upTo 15) .any (w.fmt.toNat ≤ 1) true (some false) (w.d.toNat + 2 ^ (w.mod.toNat % 4) ≤ 32))
  | .sspl w => some (w, rowE .n 0x0B .any .src .any (w.fmt = 0) true (some false))
  | .sfil w => some (w, rowE .n 0x0C .any .src .any (w.fmt = 0) true (some false))
  | .scld w => some (w, rowE .f 0x01 (upTo 15) .src .zero (w.fmt = 0) (w.mod = 0) (some false))
  | .scmv w => some (w, rowE .f 0x02 (upTo 15) (upTo 15) (if w.mod.getLsbD 0 then .src else .zero) (w.fmt = 0) (w.mod.toNat ≤ 1) (some false))
  | .patld w => some (w, rowE .f 0x03 .any .src .zero (w.fmt = 0) (w.mod.toNat ≤ 1) (some false))
  | .patsw w => some (w, rowE .f 0x04 .zero .zero .zero (w.fmt = 0) (w.mod = 0) (some false))
  | .emptyBundle _ => none
  | .reductionAck _ => none
  | .copyComplete _ => none
  | .mstepComplete _ => none
  | .mzeroComplete _ => none
  | .amvrComplete _ => none
  | .amvwComplete _ => none
  | .mdrnComplete _ => none
  | .sidComplete _ => none
  | .schkComplete _ => none
  | .sfixComplete _ => none
  | .sxchPost _ => none
  | .srdComplete _ => none
  | .swrComplete _ => none
  | .ssplComplete _ => none
  | .sfilComplete _ => none
  | .resultLanding => none
  | .interlockedResult _ => none
  | .trapEntry _ => none
  | .waitTimeout => none
  | .waitSuspend => none
  | .lateReport _ => none
  | .walkComplete _ _ => none
  | .feedElement _ => none
  | .drainElement _ => none
  | .chunkRequest _ _ => none
  | .stepStart _ _ => none
  | .quantumExpiry => none
  | .priorityPreempt _ => none
  | .preemptRequest _ => none
  | .gangSwap _ _ => none
  | .spillSave => none
  | .resume _ _ _ => none
  | .replayLanding => none
  | .gangPlace _ _ _ => none
  | .segmentFetchMiss => none
  | .segmentCopyDone => none
  | .dieFence _ => none
  | .shapeCellArrival _ => none
  | .shapeTimeout _ => none
  | .provisionalCommit _ => none
  | .carryLand _ _ _ => none
  | .scanNodeCombine _ _ _ _ _ => none
  | .scanRoundAbort _ _ => none
  | .widxWrite _ _ => none
  | .qcfgWrite _ _ => none
  | .qstatWrite _ _ => none
  | .queueVisit _ => none
  | .launch _ => none
  | .launchContextStart _ => none
  | .copy _ => none
  | .waitsig _ => none
  | .signalReport _ => none
  | .setsig _ => none
  | .coll _ => none
  | .shape _ => none
  | .mark _ => none
  | .qctlReset _ => none
  | .qctlShoot _ => none
  | .qctlPoolfree _ => none
  | .packetCompletion _ => none
  | .heldPacketStart _ => none
  | .fetchFault _ => none
  | .pgrqPop => none
  | .pgrsp _ => none
  | .collAccept _ => none
  | .collTransfer _ => none
  | .reduceArrival _ => none
  | .switchReduce _ _ => none
  | .collComplete _ => none
  | .linkStop _ => none
  | .linkResume _ => none
  | .flitSend _ _ _ => none
  | .flitReceive _ _ => none
  | .retryRequest _ _ _ => none
  | .retryRepeat _ => none
  | .channelAck _ _ _ => none
  | .keyDrainExpiry _ => none
  | .channelFail _ => none
  | .rkey => none
  | .bootGo => none
  | .coldReset => none
  | .fwrst => none
  | .train => none
  | .trainingDone _ => none
  | .qen _ => none
  | .fuseBlow => none
  | .fzrel _ => none
  | .rascClr _ => none
  | .l2cvWrite _ _ => none
  | .msplitWrite _ => none
  | .registerWrite _ _ => none
  | .hostRequest _ => none
  | .spdmCert => none
  | .spdmChallenge _ => none
  | .spdmMeasurements _ => none
  | .spdmKeyExchange _ => none
  | .hostMeasExtend _ _ => none
  | .jobPolicy _ => none
  | .endObject _ => none
  | .revokeObject _ => none
  | .revokeApply _ _ => none
  | .switchAttest _ _ => none
  | .switchRecheck _ _ => none
  | .uncorrectableError _ _ => none
  | .scrubPatrol _ _ => none
  | .powerTick _ _ => none
  | .thermalTrip _ _ => none
  | .tdispRequest _ => none
  | .negotiateAlgorithms _ _ => none
  | .lostHeartbeat _ _ => none

/-- The slot word of a slot instruction. -/
def wordOf (i : Instr) : Option SlotWord := (row i).map Prod.fst

/-- Check 5 of R79 on one field: the ILLEGAL_OP detail of a refused value, under the field's own rule (R63, R65, R66, R67,
R174, R212). Code 63 in an A- or L-slot operand, an illegal destination and a number field in this order. Log 110. -/
def fieldErr (k : Slot) (wb : Bool) (f : Field) (x : BitVec 6) : Option Nat :=
  let n := x.toNat
  match f with
  | .zero => none
  | .any => none
  | .num ok => if ok n then none else some 2
  | .src => if 48 ≤ n ∧ n ≤ 61 then some 3 else if n = 63 ∧ (k = .a ∨ k = .l) then some 5 else none
  | .dst =>
    if !wb then none else if 48 ≤ n ∧ n ≤ 61 then some 3 else if 32 ≤ n ∧ n ≤ 39 ∨ 62 ≤ n then some 4 else none
  | .srcDst =>
    if 48 ≤ n ∧ n ≤ 61 then some 3
    else if n = 63 ∧ (k = .a ∨ k = .l) then some 5
    else if wb ∧ (32 ≤ n ∧ n ≤ 39 ∨ 62 ≤ n) then some 4 else none
  | .pred dest => if dest && !wb then none else if 32 ≤ n then some 3 else if 24 ≤ n then some 2 else none
  | .mask dest => if dest && !wb then none else if 32 ≤ n then some 3 else if 8 ≤ n then some 2 else none
  | .reg dest => if dest && !wb then none else if 32 ≤ n then some 3 else none

/-- Whether a field is read as an operand source (R63). -/
def Field.isSrc : Field → Bool
  | .src | .srcDst => true
  | _ => false

/-- Check 7 of R79 on bits [5:4] (R66, R67, R71, R143). A hold must name an operand source field, and no other operand source
may then be code 63. -/
def bits54Err (r : Row) (w : SlotWord) : Option Nat :=
  match r.b54 with
  | .imm acc => if w.hold = 0 || (w.hold = 1 && acc) then none else some 2
  | .order l => if w.hold ∈ l then none else some 13
  | .hold =>
    let held (f : Field) (x : BitVec 6) : Bool := f.isSrc && x = 63
    if w.hold = 1 then
      if !r.a.isSrc || held r.d w.d || held r.b w.b then some 5 else none
    else if w.hold = 2 then
      if !r.b.isSrc || held r.d w.d || held r.a w.a then some 5 else none
    else none

/-- Check 9 of R79: an unread field that is not zero (R86). -/
def unreadErr (r : Row) (w : SlotWord) : Bool :=
  let bad (f : Field) (x : BitVec 6) : Bool := match f with | .zero => x ≠ 0 | _ => false
  bad r.d w.d || bad r.a w.a || bad r.b w.b

/-- The encoding checks of a listed opcode, in the order of R79: the DETAIL of the first that fails. `fw` is true on a
firmware core. -/
def rowErr (fw : Bool) (r : Row) (w : SlotWord) : Option Nat :=
  (if r.vOnly.any (fun u => u.slot ≠ r.slot) then some 6 else none).or <|
  (if fw && r.noFw then some 7 else none).or <|
  (if w.pred.toNat ≥ 24 then some 2 else none).or <|
  r.fmt.or <|
  (fieldErr r.slot w.wb r.d w.d).or <|
  (fieldErr r.slot w.wb r.a w.a).or <|
  (fieldErr r.slot w.wb r.b w.b).or <|
  (if r.mod then none else some 2).or <|
  (bits54Err r w).or <|
  (if r.wb.any (fun x => x ≠ w.wb) then some 8 else none).or <|
  (if unreadErr r w then some 2 else none).or <|
  (if r.own then none else some 2)

/-- The encoding checks of an instruction (R79); an event has none. -/
def encErr (fw : Bool) (i : Instr) : Option Nat :=
  match row i with
  | some (w, r) => rowErr fw r w
  | none => none

/-- The operand fields of an instruction with their codes: `true` marks a source, `false` a destination that is written (R63,
R65). -/
def operandCodes (i : Instr) : List (Nat × Bool) :=
  match row i with
  | none => []
  | some (w, r) =>
    let one (f : Field) (x : BitVec 6) : List (Nat × Bool) :=
      match f with
      | .src => [(x.toNat, true)]
      | .srcDst => (x.toNat, true) :: if w.wb then [(x.toNat, false)] else []
      | .dst => if w.wb then [(x.toNat, false)] else []
      | _ => []
    one r.d w.d ++ one r.a w.a ++ one r.b w.b

/-- The input streams that an instruction's operand fields read (R63, R78 DETAIL 7). -/
def streamReads (i : Instr) : List Nat :=
  ((operandCodes i).filter fun x => x.2 && 40 ≤ x.1 && x.1 ≤ 47).map fun x => x.1 - 40

/-- The exposed latency of an instruction's results (R72); none where they are interlocked or there are none. -/
def latency : Instr → Option Nat
  | .mul _ | .mulh _ => some 3
  | .sfadd _ | .sfmul _ | .sffma _ | .sfcmp _ | .sfcvt _ => some 4
  | .add _ | .sub _ | .and_ _ | .or_ _ | .xor_ _ | .andn _ | .shl _ | .shr _ | .rot _ | .min_ _ | .max_ _ | .ext _ | .clz _
  | .ctz _ | .popc _ | .bfx _ | .bfi _ | .cmp _ | .csel _ | .movi _ | .movh _ | .lea _ => some 1
  | .pand _ | .por _ | .pxor _ | .pandn _ | .pmov _ | .mfc _ | .call _ => some 1
  | .vadd _ w | .vsub _ w | .vmul _ w | .vfma _ w | .vfms _ w | .vfnma _ w => some (if w.fmt.toNat ≤ 2 then 4 else 2)
  | .vmin _ _ | .vmax _ _ | .vabs _ _ | .vneg _ _ | .vand _ _ | .vor _ _ | .vxor _ _ | .vandn _ _ | .vshl _ _ | .vshr _ _
  | .vsar _ _ | .vmulh _ _ | .vclamp _ _ | .vcmp _ _ | .vsel _ _ | .vpack _ _ | .vunpk _ _ | .vmovi _ _ | .vmov _ _
  | .vmovn _ _ | .vbcast _ _ | .vidx _ _ | .kand _ _ | .kor _ _ | .kxor _ _ | .knot _ _ | .kpop _ _ => some 2
  | .vcvt _ _ => some 4
  | .vrcp _ _ | .vrsq _ _ | .vsqrt _ _ | .vexp2 _ _ | .vlog2 _ _ => some 8
  | .vshuf _ _ => some 3
  | .vxc _ _ | .vred _ _ | .vext _ _ => some 6
  | .vscan _ _ => some 8
  | .ldl _ | .vldl _ | .vgtl _ | .ldf _ | .ldfe _ | .feq _ => some 4
  | .barv _ => some 1
  | .scld _ | .scmv _ | .patld _ => some 4
  | .scmb _ | .sstepAff _ => some 4
  | .sstepSsm _ => some 12
  | _ => none

/-- Consecutive vector registers. -/
def vregs (first n : Nat) : List RegId := (List.range n).map fun i => .v (first + i)

/-- Whether an instruction's D operand is in the vector file (R63). -/
def vectorD : Instr → Bool
  | .vldg _ | .vldl _ | .vgtg _ | .vgtl _ => true
  | i => match row i with
    | some (_, r) => r.slot = .v0 || r.slot = .v1
    | none => false

/-- The destination registers, predicates, masks and output streams that a slot names (R78 DETAIL 6): each register of a
range or pair counts, and CALL's s31. -/
def dests (i : Instr) : List RegId :=
  match i with
  | .call _ => [.s 31]
  | .grab w => [.s w.d.toNat, .s (w.d.toNat + 1), .p w.a.toNat]
  | .amvr w => vregs w.d.toNat (w.b.toNat % 8 + 1)
  | .scld w | .scmv w => [.e (w.d.toNat % 16)]
  | .pand w | .por w | .pxor w | .pandn w | .pmov w | .cmp w | .sfcmp w => if w.wb then [.p w.d.toNat] else []
  | .vcmp _ w => if w.wb then [.k (w.d.toNat % 8)] else []
  | .kand _ w | .kor _ w | .kxor _ w | .knot _ w => if w.wb then [.k w.d.toNat] else []
  | .kpop _ w | .vext _ w => if w.wb then [.s w.d.toNat] else []
  | .vmovn _ w => if w.wb then vregs w.d.toNat (w.b.toNat + 1) else []
  | .vunpk _ w => if w.wb then vregs w.d.toNat (kel w.fmt.toNat) else []
  | .vpack _ w | .sstepAff w | .sstepSsm w => if w.wb then [.v w.d.toNat] else []
  | .scmb w => if w.wb then vregs w.d.toNat 2 else []
  | .srd w => if w.wb then vregs w.d.toNat (2 ^ (w.mod.toNat % 4)) else []
  | i =>
    match (operandCodes i).find? fun x => !x.2 with
    | some (c, _) =>
      if 40 ≤ c ∧ c ≤ 47 then [.stream (c - 40)]
      else if c ≤ 31 then [if vectorD i then .v c else .s c] else []
    | none => []

/-- Two slots' destinations conflict: a shared word, with equal exposed latencies or one of the results interlocked (R78
DETAIL 6). -/
def destClash (i j : Instr) : Bool :=
  (dests i).any (fun x => x ∈ dests j) && (latency i = latency j || latency i = none || latency j = none)

/-- Some pair of a list's elements, an earlier with a later one, satisfies a relation. -/
def anyPair {α : Type} (f : α → α → Bool) : List α → Bool
  | [] => false
  | x :: xs => xs.any (f x) || anyPair f xs

/-- The bundle conditions 4 to 7 of R78 on the listed instructions of a bundle: the DETAIL of the first that holds. Log 110. -/
def bundleErr (slots : List Instr) (limm : Bool) (pad : Byte) : Option Nat :=
  (if slots.any (fun i => (operandCodes i).any fun x => x.1 = 62) ≠ limm then some 4 else none).or <|
  (if pad ≠ 0 then some 5 else none).or <|
  (if anyPair destClash slots then some 6 else none).or <|
  (if anyPair (fun a b => decide (a = b)) (slots.flatMap streamReads) then some 7 else none)

end Sys2Proof.Machine
end

