-- ==== Sys2Proof/WellFormed.lean ====
section
/-! DEFINITION. Which instructions are well formed: a slot instruction whose word passes every encoding check of R79 on a
tile core, and an event whose numbers name a part the package has (R1, R2). -/

namespace Sys2Proof

open Machine (encErr)

/-- The numbers an event carries name parts that the package has: 8 dies, 256 tile cores, 1,024 queues, 36 link ends, 64 freeze
log entries, 8 job slots (R1, R2, R338, R378, R381). -/
def Instr.inRange : Instr → Bool
  | .walkComplete die _ | .priorityPreempt die | .dieFence die | .collTransfer die | .chunkRequest _ die | .rascClr die
  | .l2cvWrite die _ | .uncorrectableError die _ | .scrubPatrol die _ | .thermalTrip die _ => die < 8
  | .stepStart _ core | .resume _ _ core => core < 256
  | .gangPlace _ _ cores => cores.all fun c => c < 256
  | .widxWrite q _ | .qcfgWrite q _ | .qstatWrite q _ | .queueVisit q | .launch q | .copy q | .waitsig q | .signalReport q
  | .setsig q | .coll q | .shape q | .mark q | .qctlReset q | .qctlShoot q | .qctlPoolfree q | .heldPacketStart q
  | .fetchFault q => q < 1024
  | .linkStop l | .linkResume l => l < 36
  | .fzrel i => i < 64
  | .hostMeasExtend i _ => 4 ≤ i && i < 8
  | .revokeApply j _ | .switchAttest j _ | .switchRecheck j _ | .lostHeartbeat j _ => j < 8
  | _ => true

/-- An instruction is well formed when it passes its encoding checks (R79) and its numbers are in range. -/
def Instr.wf (i : Instr) : Bool := (encErr false i).isNone && i.inRange

/-- `Instr.wf` as a proposition. -/
abbrev Instr.WellFormed (i : Instr) : Prop := i.wf = true

end Sys2Proof
end

