-- ==== Sys2Proof/Decode.lean ====
section
/-! DEFINITION. Decoding bundles and slot words (R57 to R62, R82), total on any bytes, and encoding them. -/

namespace Sys2Proof

/-- Bytes as a little-endian number (R3). -/
def leNat : List Byte → Nat
  | [] => 0
  | b :: bs => b.toNat + 256 * leNat bs

/-- The n low bytes of a number, least significant first (R3). -/
def leBytes : Nat → Nat → List Byte
  | 0, _ => []
  | n + 1, x => BitVec.ofNat 8 x :: leBytes n (x / 256)

/-- The fields of a 40-bit slot word other than OP (R62). -/
def slotFields (x : BitVec 40) : SlotWord :=
  { fmt := x.extractLsb' 31 3, d := x.extractLsb' 25 6, a := x.extractLsb' 19 6, b := x.extractLsb' 13 6,
    pred := x.extractLsb' 8 5, pn := x.getLsbD 7, wb := x.getLsbD 6, hold := x.extractLsb' 4 2, mod := x.extractLsb' 0 4 }

/-- The instruction that an opcode names in a slot (R82); SSTEP's two variants differ in MOD[0]. -/
def ofOpcode (k : Slot) (op : BitVec 6) (w : SlotWord) : Option Instr :=
  match k with
  | .c => match op.toNat with
    | 1 => some (.br w)
    | 2 => some (.call w)
    | 3 => some (.bri w)
    | 4 => some (.ret w)
    | 5 => some (.loop w)
    | 6 => some (.loopr w)
    | 7 => some (.lexit w)
    | 8 => some (.pand w)
    | 9 => some (.por w)
    | 10 => some (.pxor w)
    | 11 => some (.pandn w)
    | 12 => some (.pmov w)
    | 13 => some (.mfc w)
    | 14 => some (.mtc w)
    | 15 => some (.waitc w)
    | 16 => some (.waito w)
    | 17 => some (.dsync w)
    | 18 => some (.susp w)
    | 19 => some (.exit w)
    | 20 => some (.confw w)
    | 21 => some (.trap w)
    | 22 => some (.sysc w)
    | 23 => some (.reth w)
    | 24 => some (.lease w)
    | 25 => some (.unlease w)
    | 26 => some (.bkpt w)
    | 27 => some (.segpf w)
    | 28 => some (.grab w)
    | _ => none
  | .a => match op.toNat with
    | 1 => some (.add w)
    | 2 => some (.sub w)
    | 3 => some (.mul w)
    | 4 => some (.mulh w)
    | 5 => some (.div w)
    | 6 => some (.rem w)
    | 7 => some (.and_ w)
    | 8 => some (.or_ w)
    | 9 => some (.xor_ w)
    | 10 => some (.andn w)
    | 11 => some (.shl w)
    | 12 => some (.shr w)
    | 13 => some (.rot w)
    | 14 => some (.min_ w)
    | 15 => some (.max_ w)
    | 16 => some (.ext w)
    | 17 => some (.clz w)
    | 18 => some (.ctz w)
    | 19 => some (.popc w)
    | 20 => some (.bfx w)
    | 21 => some (.bfi w)
    | 22 => some (.cmp w)
    | 23 => some (.csel w)
    | 24 => some (.movi w)
    | 25 => some (.movh w)
    | 26 => some (.lea w)
    | 27 => some (.sfadd w)
    | 28 => some (.sfmul w)
    | 29 => some (.sffma w)
    | 30 => some (.sfcmp w)
    | 31 => some (.sfcvt w)
    | _ => none
  | .l => match op.toNat with
    | 1 => some (.ldg w)
    | 2 => some (.stg w)
    | 3 => some (.ldl w)
    | 4 => some (.stl w)
    | 5 => some (.vldg w)
    | 6 => some (.vstg w)
    | 7 => some (.vldl w)
    | 8 => some (.vstl w)
    | 9 => some (.vgtg w)
    | 10 => some (.vscg w)
    | 11 => some (.vgtl w)
    | 12 => some (.vscl w)
    | 13 => some (.ldf w)
    | 14 => some (.ldfe w)
    | 15 => some (.ste w)
    | 16 => some (.stfl w)
    | 17 => some (.fez w)
    | 18 => some (.feq w)
    | 19 => some (.aadd w)
    | 20 => some (.afadd w)
    | 21 => some (.amin w)
    | 22 => some (.amax w)
    | 23 => some (.aand w)
    | 24 => some (.aor w)
    | 25 => some (.axor w)
    | 26 => some (.axch w)
    | 27 => some (.acas w)
    | 28 => some (.ainsm w)
    | 29 => some (.affcs w)
    | 30 => some (.apls w)
    | 31 => some (.redadd w)
    | 32 => some (.redfadd w)
    | 33 => some (.redmin w)
    | 34 => some (.redmax w)
    | 35 => some (.redand w)
    | 36 => some (.redor w)
    | 37 => some (.redxor w)
    | 38 => some (.bari w)
    | 39 => some (.barv w)
    | 40 => some (.barw w)
    | 41 => some (.fence w)
    | 42 => some (.cpy w)
    | 43 => some (.qbind w)
    | 44 => some (.qstop w)
    | 45 => some (.qdrn w)
    | 46 => some (.csub w)
    | 47 => some (.trig w)
    | 48 => some (.sigop w)
    | 49 => some (.pref w)
    | _ => none
  | .x => match op.toNat with
    | 1 => some (.mcfg w)
    | 2 => some (.mwin w)
    | 3 => some (.mstep w)
    | 4 => some (.mzero w)
    | 5 => some (.amvr w)
    | 6 => some (.amvw w)
    | 7 => some (.mdrn w)
    | 8 => some (.mfin w)
    | _ => none
  | .n => match op.toNat with
    | 1 => some (.sopd w)
    | 2 => some (.sid w)
    | 3 => some (.scmb w)
    | 4 => some (.schk w)
    | 5 => some (.sxch w)
    | 6 => some (.swt w)
    | 7 => some (.sfix w)
    | 8 => some (if w.mod.getLsbD 0 then .sstepSsm w else .sstepAff w)
    | 9 => some (.srd w)
    | 10 => some (.swr w)
    | 11 => some (.sspl w)
    | 12 => some (.sfil w)
    | _ => none
  | .f => match op.toNat with
    | 1 => some (.scld w)
    | 2 => some (.scmv w)
    | 3 => some (.patld w)
    | 4 => some (.patsw w)
    | _ => none
  | .v0 => match op.toNat with
    | 1 => some (.vadd .v0 w)
    | 2 => some (.vsub .v0 w)
    | 3 => some (.vmul .v0 w)
    | 4 => some (.vfma .v0 w)
    | 5 => some (.vfms .v0 w)
    | 6 => some (.vfnma .v0 w)
    | 7 => some (.vmin .v0 w)
    | 8 => some (.vmax .v0 w)
    | 9 => some (.vabs .v0 w)
    | 10 => some (.vneg .v0 w)
    | 11 => some (.vand .v0 w)
    | 12 => some (.vor .v0 w)
    | 13 => some (.vxor .v0 w)
    | 14 => some (.vandn .v0 w)
    | 15 => some (.vshl .v0 w)
    | 16 => some (.vshr .v0 w)
    | 17 => some (.vsar .v0 w)
    | 18 => some (.vmulh .v0 w)
    | 19 => some (.vclamp .v0 w)
    | 20 => some (.vcmp .v0 w)
    | 21 => some (.vsel .v0 w)
    | 22 => some (.vcvt .v0 w)
    | 23 => some (.vpack .v0 w)
    | 24 => some (.vunpk .v0 w)
    | 25 => some (.vrcp .v0 w)
    | 26 => some (.vrsq .v0 w)
    | 27 => some (.vsqrt .v0 w)
    | 28 => some (.vexp2 .v0 w)
    | 29 => some (.vlog2 .v0 w)
    | 30 => some (.vmovi .v0 w)
    | 31 => some (.vmov .v0 w)
    | 32 => some (.vmovn .v0 w)
    | 33 => some (.vbcast .v0 w)
    | 34 => some (.vext .v0 w)
    | 35 => some (.vidx .v0 w)
    | 36 => some (.vshuf .v0 w)
    | 37 => some (.vxc .v0 w)
    | 38 => some (.vred .v0 w)
    | 39 => some (.vscan .v0 w)
    | 40 => some (.kand .v0 w)
    | 41 => some (.kor .v0 w)
    | 42 => some (.kxor .v0 w)
    | 43 => some (.knot .v0 w)
    | 44 => some (.kpop .v0 w)
    | _ => none
  | .v1 => match op.toNat with
    | 1 => some (.vadd .v1 w)
    | 2 => some (.vsub .v1 w)
    | 3 => some (.vmul .v1 w)
    | 4 => some (.vfma .v1 w)
    | 5 => some (.vfms .v1 w)
    | 6 => some (.vfnma .v1 w)
    | 7 => some (.vmin .v1 w)
    | 8 => some (.vmax .v1 w)
    | 9 => some (.vabs .v1 w)
    | 10 => some (.vneg .v1 w)
    | 11 => some (.vand .v1 w)
    | 12 => some (.vor .v1 w)
    | 13 => some (.vxor .v1 w)
    | 14 => some (.vandn .v1 w)
    | 15 => some (.vshl .v1 w)
    | 16 => some (.vshr .v1 w)
    | 17 => some (.vsar .v1 w)
    | 18 => some (.vmulh .v1 w)
    | 19 => some (.vclamp .v1 w)
    | 20 => some (.vcmp .v1 w)
    | 21 => some (.vsel .v1 w)
    | 22 => some (.vcvt .v1 w)
    | 23 => some (.vpack .v1 w)
    | 24 => some (.vunpk .v1 w)
    | 25 => some (.vrcp .v1 w)
    | 26 => some (.vrsq .v1 w)
    | 27 => some (.vsqrt .v1 w)
    | 28 => some (.vexp2 .v1 w)
    | 29 => some (.vlog2 .v1 w)
    | 30 => some (.vmovi .v1 w)
    | 31 => some (.vmov .v1 w)
    | 32 => some (.vmovn .v1 w)
    | 33 => some (.vbcast .v1 w)
    | 34 => some (.vext .v1 w)
    | 35 => some (.vidx .v1 w)
    | 36 => some (.vshuf .v1 w)
    | 37 => some (.vxc .v1 w)
    | 38 => some (.vred .v1 w)
    | 39 => some (.vscan .v1 w)
    | 40 => some (.kand .v1 w)
    | 41 => some (.kor .v1 w)
    | 42 => some (.kxor .v1 w)
    | 43 => some (.knot .v1 w)
    | 44 => some (.kpop .v1 w)
    | _ => none

/-- The instruction of a slot word (R62, R82); none for an opcode that the slot does not list. -/
def decodeSlot (k : Slot) (x : BitVec 40) : Option Instr := ofOpcode k (x.extractLsb' 34 6) (slotFields x)

/-- A bundle as its bytes give it: its header fields, its slot words in ascending slot, its pad byte and its long-immediate
word (R57, R58). -/
structure RawBundle where
  hdr   : Header
  words : List (Slot × BitVec 40)
  pad   : Byte
  limm  : Option Word
  len   : Nat
  deriving DecidableEq, Repr

/-- What the halfword at a fetch address begins (R60): line pad; a bundle that breaks a rule checked before BRK, with its
DETAIL (R78, conditions 1 to 3, and 4 for P = 0 with LX = 1, R60); or a bundle. -/
inductive Fetched where
  | pad
  | bad (detail : Nat)
  | bundle (b : RawBundle)
  deriving DecidableEq, Repr

/-- The slots in ascending number (R59). -/
def allSlots : List Slot := [.c, .a, .l, .v0, .v1, .x, .n, .f]

/-- The slots whose presence bit is set (R58). -/
def presentSlots (p : Nat) : List Slot := allSlots.filter fun k => p.testBit k.num

/-- The slot words after the header, five bytes each (R57). -/
def takeWords : List Slot → List Byte → List (Slot × BitVec 40)
  | [], _ => []
  | k :: ks, bs => (k, BitVec.ofNat 40 (leNat (bs.take 5))) :: takeWords ks (bs.drop 5)

/-- The length in bytes of a bundle with n slot words (R57). -/
def bundleLen (n : Nat) (lx : Bool) : Nat := 2 + 5 * n + n % 2 + if lx then 4 else 0

/-- Decode the bytes from a header on, at an offset within its 64-byte line (R57, R58, R60, R61, R78). A bundle with P = 0 and
LX = 1 counts six bytes for the line check and then breaks condition 4. -/
def decodeBundle (fw : Bool) (off : Nat) (bytes : List Byte) : Fetched :=
  let h := leNat (bytes.take 2)
  let p := h % 256
  let ks := presentSlots p
  let n := ks.length
  let lx := h.testBit 12
  let len := bundleLen n lx
  if h = 0 then .pad
  else if h / 8192 ≠ 0 then .bad 1
  else if fw && p ≥ 8 then .bad 2
  else if off + len > 64 then .bad 3
  else
    let body := bytes.drop 2
    let rest := body.drop (5 * n)
    .bundle
      { hdr := { idle := BitVec.ofNat 2 (h / 1024), brk := h.testBit 9, seg := h.testBit 8 }
        words := takeWords ks body
        pad := if n % 2 = 1 then rest.headD 0 else 0
        limm := if lx then some (BitVec.ofNat 32 (leNat ((rest.drop (n % 2)).take 4))) else none
        len := len }

/-- The instructions of a bundle's slot words whose opcodes are listed. -/
def RawBundle.listed (b : RawBundle) : List Instr := b.words.filterMap fun x => decodeSlot x.1 x.2

/-- Whether a bundle breaks one of the conditions 4 to 7 of R78, and which. -/
def RawBundle.err (b : RawBundle) : Option Nat :=
  Machine.bundleErr b.listed b.limm.isSome b.pad

/-- The 40-bit slot word of an opcode and its fields (R62). -/
def packWord (op : BitVec 6) (w : SlotWord) : BitVec 40 :=
  BitVec.ofNat 40 (w.mod.toNat + 16 * (w.hold.toNat + 4 * (w.wb.toNat + 2 * (w.pn.toNat + 2 * (w.pred.toNat + 32 *
    (w.b.toNat + 64 * (w.a.toNat + 64 * (w.d.toNat + 64 * (w.fmt.toNat + 8 * op.toNat)))))))))

/-- The slot and the slot word of a slot instruction; none for an event and for the empty bundle. -/
def encodeSlot (i : Instr) : Option (Slot × BitVec 40) :=
  (Machine.row i).map fun x => (x.2.slot, packWord x.2.op x.1)

/-- The header halfword (R58). -/
def headerWord (h : Header) (lx : Bool) (p : Nat) : Nat :=
  (if lx then 4096 else 0) + 1024 * h.idle.toNat + (if h.brk then 512 else 0) + (if h.seg then 256 else 0) + p

/-- The presence bits of a list of slots. -/
def presence (ks : List Slot) : Nat := (ks.map fun k => 2 ^ k.num).sum

/-- The bytes of a bundle with the given slot words, in ascending slot (R57). -/
def encodeBundle (h : Header) (words : List (Slot × BitVec 40)) (limm : Option Word) : List Byte :=
  leBytes 2 (headerWord h limm.isSome (presence (words.map Prod.fst))) ++
    words.flatMap (fun x => leBytes 5 x.2.toNat) ++
    (if words.length % 2 = 1 then [0] else []) ++
    (match limm with | some l => leBytes 4 l.toNat | none => [])

/-- The bytes of one well-formed instruction alone in a bundle: its slot word, or an empty bundle. -/
def encode (i : Instr) (h : Header := {}) (limm : Option Word := none) : List Byte :=
  match encodeSlot i with
  | some x => encodeBundle h [x] limm
  | none => match i with
    | .emptyBundle h' => encodeBundle h' [] none
    | _ => []

/-- The first instruction of a bundle, where the bundle and the instruction pass their checks. -/
def RawBundle.first (b : RawBundle) : Option Instr :=
  match b.words with
  | [] => if b.err = none then some (.emptyBundle b.hdr) else none
  | (k, x) :: _ =>
    match decodeSlot k x with
    | some i => if b.err = none ∧ i.wf then some i else none
    | none => none

/-- The instruction that stands first in a bundle's bytes on a tile core, at byte 0 of a line. -/
def decodeBytes (bytes : List Byte) : Option Instr :=
  match decodeBundle false 0 bytes with
  | .bundle b => b.first
  | _ => none

/-- The decoder on an instruction whose bits are numbered from the least significant bit of its first byte; bits above
`nbits` are zero. -/
def decodeTableWord (nbits w : Nat) : Option Instr := decodeBytes (leBytes 64 (w % 2 ^ nbits))

end Sys2Proof
end

