-- ==== Sys2Proof/Config.lean ====
section
/-! DEFINITION. What the spec leaves to an implementation or does not state: the fused roots, the cryptographic functions it
takes from other standards, and the free values. Every constant here is opaque: nothing in Lean can find its value, so a
statement about the machine holds whatever it is. -/

namespace Sys2Proof.Config

/-- Who accesses an address from another package (R239, R244, R245, R282): the launch, TID and core-domain instance there, the membership
and the phase counts of the thread, whether the access is one of those that the race table checks, and the scopes of its acquire and
its release. -/
structure Asker where
  launch  : Nat
  tid     : Nat
  core    : Nat
  inst    : Nat
  dmbd    : BitVec 32
  dmbp    : BitVec 8
  phc     : Word
  phd     : Word
  php     : Word
  phj     : Word
  checked : Bool
  acq     : Option (BitVec 3)
  rel     : Option (BitVec 3)
  deriving DecidableEq, Repr

/-- What another package asks of an address of this one (R282): a read of n bytes; a write, of bytes that carry a poison mark or not (R285);
an atomic or reduction on n bytes, its operation numbered in R152's order; or an arrival of a core's BARV. -/
inductive Asked where
  | read (n : Nat)
  | write (bytes : List Byte) (bad : Bool)
  | atomic (op n : Nat) (b d : DWord)
  | arrive (n core : Nat)
  deriving DecidableEq, Repr

/-- The 224 bytes of a flit that carries a contribution or partial with these fields (R384, R385): the spec gives them no layout. Log 69. -/
opaque partBody : (fields : List Nat) → List Byte
/-- The contribution or partial that the plaintext of a reduction-keyed flit carries, if it carries one (R384, R385). Log 69. -/
opaque partOf : (body : List Byte) → Option Contribution
/-- The body of a channel-control flit: a retry request, or else an acknowledgement, that names a slot and a SEQ (R384, R386); the spec gives
it no layout. Log 69. -/
opaque controlBody : (retry slot : Bool) → (seq : DWord) → List Byte
/-- What the plaintext of a channel-control flit says, if it is one (R384, R386). Log 69. -/
opaque controlOf : (body : List Byte) → Option (Bool × Bool × DWord)
/-- The request that the bytes in the mailbox make, if they make one (R379, R380): SPDM gives their format. Log 65. -/
opaque requestOf : (buffer : List Byte) → Option MailRequest
/-- What the enclave controller sends a switch to attest it (R391): its SPDM requests. Log 67. -/
opaque switchAsk : (draw : Nat) → List Byte
/-- The vendor-defined message that carries KR[e] and the switch's id inside a session with that switch (R391). Log 67. -/
opaque switchKey : (kr : BitVec 256) → (swid : Nat) → (draw : Nat) → List Byte
/-- Which of the sizes of BAR4 the host has chosen (R397): 2^(30 + this mod 12) bytes. Log 76. -/
opaque bar4Log : Nat
/-- Where in a firmware core's data memory the fetchers deliver the granules of a queue's packet (R376): the spec names no place. Log 129. -/
opaque granuleAt : (queue : Nat) → Nat
/-- The access that the plaintext of a bulk flit carries, if it carries one (R282): the spec gives it no encoding. Log 86. -/
opaque accessOf : (body : List Byte) → Option (DWord × Asked × Asker)
/-- The fused hash of the firmware root key (R371). -/
opaque rootH : BitVec 512
/-- SHAKE256 of the boot ROM, with which MEAS0 is extended (R373). -/
opaque bootRomDigest : BitVec 512
/-- SHAKE256 with a 512-bit output (R371, R373). -/
opaque shake512 : List Byte → BitVec 512
/-- SHAKE256 with a 288-bit output (R385). -/
opaque shake288 : List Byte → BitVec 288
/-- SHA-384 (R380, R382, R391). -/
opaque sha384 : List Byte → BitVec 384
/-- Falcon-1024 verification of a signature over a message under a public key (R371, R381). -/
opaque falconVerify : (key msg sig : List Byte) → Bool
/-- A Falcon-1024 signature under the device identity key (R379, R380). -/
opaque falconSign : (msg : List Byte) → List Byte
/-- Verification of a certificate chain under the Obyen root, with the public key it certifies (R391). -/
opaque certKey : (cert : List Byte) → Option (List Byte)
/-- The device certificate chain (R379, R380). -/
opaque deviceCert : List Byte
/-- ML-KEM-1024 encapsulation to a requester's key, as the session's response bytes (R380). -/
opaque kemEncapsulate : (kem : List Byte) → (draw : Nat) → List Byte
/-- AES-256-GCM encryption: key, IV, associated data, plaintext; ciphertext and tag (R384, R385). -/
opaque gcmSeal : (key : BitVec 256) → (iv : BitVec 96) → (aad pt : List Byte) → List Byte × List Byte
/-- AES-256-GCM decryption: none where the tag does not verify (R386). -/
opaque gcmOpen : (key : BitVec 256) → (iv : BitVec 96) → (aad ct tag : List Byte) → Option (List Byte)
/-- A key drawn from the enclave controller's random generator (R382, R400). -/
opaque drawKey : Nat → BitVec 256
/-- A 64-bit value that the spec leaves open: what another package answers to a remote load or atomic (R282). -/
opaque freeWord : Nat → DWord
/-- Bytes that another package's memory answers to one read (R282): the read's number, the byte within it. -/
opaque freeByte : (draw : Nat) → (i : Nat) → Byte
/-- Whether a line of the data that another package returns carries a poison mark (R285): the read's number, the line. -/
opaque freeMark : (draw : Nat) → (line : Nat) → Bool
/-- A pair tile's element that another package's part of the scan network delivers (R329, R331): the item's number, the
element. -/
opaque freePair : (draw : Nat) → (i : Nat) → Word × Word
/-- A decision that the spec leaves open: whether the other packages of a job have arrived at a phase (R120). -/
opaque freeBool : Nat → Bool
/-- A transcendental value whose rounding the model's interval arithmetic has not decided (R54): format and operand. -/
opaque freeSpecial : (fmt : Nat) → (fn : Nat) → (x : Nat) → Nat

end Sys2Proof.Config
end

