-- ==== Sys2Proof/Machine/Package.lean ====
section
/-! DEFINITION. The parts of the machine state outside the cores: memory's marks, launches and their walkers, queues and
packets, the scan network, collectives, links, trust, host interface and power (chapters 10 and 12 to 19 of the spec).
Everything here is plain data. -/

namespace Sys2Proof.Machine

/-- A table by number, numbers strictly rising, holding no entry equal to the default that an unlisted number reads as. -/
abbrev Table (α : Type) := List (Nat × α)

/-- The release record of a granule (R239): the releasing core, the release's scope, the releasing thread, and the rank of another package
that the release came from. -/
structure Release where
  core  : Nat
  scope : BitVec 3
  who   : Option ThreadRef
  rank  : Option Nat := none
  deriving DecidableEq, Repr

/-- The state of a race-table entry (R244). -/
inductive RaceState where
  | one | many | written
  deriving DecidableEq, Repr

/-- A race-table entry (R244): launch, first accessor, state, and the phase counts and domain membership at its access; `rank` where the
launch is one of another package. -/
structure RaceEntry where
  launch : Nat
  tid    : Nat
  core   : Nat
  st     : RaceState
  phc    : Word
  phd    : Word
  php    : Word
  phj    : Word
  rank   : Option Nat := none
  deriving DecidableEq, Repr

/-- A provisional store buffer entry (R319): one step's writes to one line on one die, in issue order. `seq` orders the
entries of a step. -/
structure PsbEntry where
  launch : Nat
  step   : Nat
  die    : Nat
  line   : Nat
  items  : List ProvItem
  deriving DecidableEq, Repr

/-- A page walk in progress (R283): its page, the core whose bundle waits for it and what that access needs of the page. -/
structure Walk where
  ctx  : Nat
  va   : DWord
  core : Nat
  need : Need := {}
  deriving DecidableEq, Repr

/-- A table entry in a die's walker cache (R283): the context, the level of the entry read, the page-number bits above that level, and
the physical address of the next table. -/
structure TableEntry where
  ctx  : Nat
  lvl  : Nat
  page : Nat
  next : Nat
  deriving DecidableEq, Repr

/-- An armed record of a trigger counter (R362): the collective record, its threshold, in arming order. -/
structure Armed where
  counter : Nat
  record  : Nat
  thr     : Nat
  deriving DecidableEq, Repr

/-- A trigger counter (R361). -/
structure Trigger where
  val : DWord := 0
  en  : Bool := false
  ctx : Byte := 0
  deriving DecidableEq, Repr

/-- One compute die (R270, R271, R285, R286, R290, R404). Log 5. -/
structure Die where
  fenced  : Bool := false
  upper   : Bool := true
  pool    : Nat := 64
  spill   : Nat := 128
  psb     : Nat := 64
  race    : Nat := 128
  ue      : Nat := 0
  ce      : Nat := 0
  poolOvf : Bool := false
  rasa    : BitVec 52 := 0
  temp    : BitVec 16 := 0
  ltlb    : List TlbEntry := []
  tables  : List TableEntry := []
  walks   : List Walk := []
  pinned  : Bits := []
  deriving DecidableEq, Repr

/-- A grant recorded in a launch's checkpoint (R288): a dispatcher's chunk, or the chunk a thread obtained by GRAB, with the
number of its steps that have exited. -/
structure Grant where
  die    : Nat
  first  : Nat
  count  : Nat
  grab   : Option Nat
  exited : Nat := 0
  deriving DecidableEq, Repr

/-- What a dispatcher still has to start of a chunk (R289). -/
structure Dispatch where
  die  : Nat
  next : Nat
  stop : Nat
  deriving DecidableEq, Repr

/-- A retractable allocation of a predicted launch (R314). -/
structure Alloc where
  tag  : Nat
  base : Nat
  size : Nat
  deriving DecidableEq, Repr

/-- The shape side of a predicted launch (R308 to R318). `pred` is the prediction, `deadline` the cycle of SHAPE_TIMEOUT,
`inner` the product of the inner bounds. -/
structure Shape where
  cell     : DWord
  firm     : Nat
  nmax     : Nat
  slot     : Nat
  learn    : Bool
  quota    : Nat
  deadline : Option Nat
  scans    : Nat
  spl      : Nat
  pred     : Option Nat
  inner    : Nat
  allocs   : List Alloc
  settled  : Bool := false
  deriving DecidableEq, Repr

/-- How far a provisional step has come (R322). -/
inductive StepState where
  | provisional | committing
  deriving DecidableEq, Repr

/-- A provisional step of a launch and whether its thread has exited (R322). -/
structure ProvStep where
  step   : Nat
  die    : Nat
  st     : StepState := .provisional
  exited : Bool := false
  deriving DecidableEq, Repr

/-- A pair tile as the network holds it (R216, R330, R335): its (x, y) elements in row order, none for the padding identity,
the flags of the combines it depends on, and its poisoned words, 2 i for x and 2 i + 1 for y of element i. -/
structure Summary where
  vals   : Option (List (Word × Word)) := none
  flags  : BitVec 5 := 0
  poison : Bits := []
  deriving DecidableEq, Repr

/-- A leaf's post (R223, R332), with the step that posted it (R264). -/
structure Post where
  leaf : Nat
  sum  : Summary
  who  : ThreadRef
  unit : Nat
  step : Nat := 0
  deriving DecidableEq, Repr

/-- A node value of the canonical order: up-sweep or down-sweep, level, leaf (R330). -/
structure Node where
  down : Bool
  d    : Nat
  leaf : Nat
  sum  : Summary
  deriving DecidableEq, Repr

/-- A scan id of a launch (R327 to R336): its record, the leaves marked absent (those at or above `absent`), and the round in
progress: its posts, the leaves that other packages have posted, the node values formed, and the leaves whose carry has landed. `next`
holds posts accepted for the next round, `carries` the carries of closed rounds that have not been delivered, each as a post with the carry for its summary. -/
structure Scan where
  opw     : Word
  leaves  : Nat
  dsh     : Nat
  psh     : Nat
  dies    : List Nat
  rbase   : Nat
  tag     : Nat
  absent  : Nat
  posts   : List Post := []
  far     : List (Nat × Summary) := []
  next    : List Post := []
  nodes   : List Node := []
  carries : List Post := []
  landed  : Bits := []
  aborted : Bool := false
  deriving DecidableEq, Repr

/-- The claim image of an evicted scratchpad claim (R297). -/
structure ClaimImage where
  core   : Nat
  bytes  : Mem
  full   : Bits
  poison : Bits
  deriving DecidableEq, Repr

/-- A word of a stream's ring with its full/empty bit, and where it is full its bytes and its poison mark (R14). -/
structure RingWord where
  word  : Nat
  full  : Bool
  bytes : List Byte
  bad   : Bool
  deriving DecidableEq, Repr

/-- A continuation (R28) with the state its spill frame holds (R302): the thread as saved, its results in flight with their
remaining cycles counted from cycle 0 (R300), its issue gap, its open chunk commands with their progress (R232), its claim
image, the state units with their marks, the parts of the frame that were written, as offset and length, the words of its streams' rings
(R14), and whether the fetch of its next bundle follows a branch (R306). Log 31, 107. -/
structure Cont where
  thr     : Thread
  core    : Nat
  reason  : Nat
  gap     : Nat := 0
  units   : Mem := []
  upoison : Bits := []
  idn     : Bits := []
  pending : Bits := []
  aborted : Bits := []
  ncmds   : List NCmd := []
  claim   : Option ClaimImage := none
  sects   : List (Nat × Nat) := []
  rings   : List RingWord := []
  viaBranch : Bool := false
  deriving DecidableEq, Repr

/-- A gang instance (R294): its number, its first step, its members' cores once placed, and whether it is swapped out. -/
structure Gang where
  inst    : Nat
  first   : Nat
  tids    : List Nat := []
  swapped : Bool := false
  dead    : Bool := false
  deriving DecidableEq, Repr

/-- A feeder or drainer that a migrated thread has left with its old core's claim (R298): its core and stream, and the thread. -/
structure LeftFeed where
  core : Nat
  q    : Nat
  b    : Stream
  who  : ThreadRef
  step : Nat
  deriving DecidableEq, Repr

/-- A reduction, or an access sent to another package, that has not been acknowledged (R122, R154, R284): the thread that issued it
and, in another package, its address and that package's rank; `no` orders it among the thread's copies and collectives, and `step` and `pc`
say where it was issued. -/
structure Ack where
  tid : Nat
  va  : Option DWord
  no  : Nat := 0
  rank : Nat := 0
  step : Nat := 0
  pc  : DWord := 0
  deriving DecidableEq, Repr

/-- Whose an access is that an agent has sent to another package: the queue whose work it is part of (R349); the copy that waits for it, by
its number, and the word it moved (R162); the SETSIG packet that waits for it (R345). -/
structure AwayBy where
  queue  : Option Nat := none
  copy   : Option (Nat × Nat) := none
  packet : Option Nat := none
  deriving DecidableEq, Repr

/-- An access of an agent to another package that has not been acknowledged (R284, R345, R349): its context, its address, that
package's rank, and whose it is. -/
structure AwayAck where
  ctx : Nat
  va  : DWord
  rank : Nat := 0
  whose : AwayBy := {}
  deriving DecidableEq, Repr

/-- A launch (R346) with its walker (R287), its checkpoint (R288), its error record's count (R264), its continuations and
spill frames (R302) and what its completion waits for (R122, R325). `dead`: its queue is being reset (R349); `frozen`: its
masters are frozen (R377, R395). -/
structure Launch where
  id      : Nat
  queue   : Nat
  ctx     : Nat
  segt    : DWord
  param   : DWord
  tmpl    : DWord
  pati    : DWord
  erec    : DWord
  frame   : DWord
  gang    : Nat
  idem    : Bool
  migr    : Bool
  lchk    : Bool
  gw      : Nat
  minc    : Nat
  bounds  : List Nat
  scr     : Nat
  stu     : Nat
  acc     : Nat
  dies    : BitVec 8
  hb      : DWord
  nfr     : Nat
  packet  : Nat
  unstarted : Bool := false
  n       : Nat
  f       : Nat
  next    : Nat := 0
  grants  : List Grant := []
  disp    : List Dispatch := []
  again   : List Grant := []
  stopped : List Nat := []
  shape   : Option Shape := none
  prov    : List ProvStep := []
  commit  : Nat := 0
  scans   : List Scan := []
  phases  : List (Nat × Nat × Word) := []
  gangs   : List Gang := []
  conts   : List (Nat × Cont) := []
  contNo  : Nat := 0
  frames  : Bits := []
  acks    : List Ack := []
  left    : List LeftFeed := []
  errs    : Nat := 0
  errSent : Bool := false
  status  : Nat := 0
  lost    : Bool := false
  dead    : Bool := false
  frozen  : Bool := false
  deriving DecidableEq, Repr

/-- A started packet (R341, R343): its queue and start index, its type, its completion fields and body, and its completion
code once it is known; `image` is a COPY's template as read at validation (R347). -/
structure Packet where
  queue : Nat
  index : Nat
  typ   : Nat
  cmode : Nat
  ivec  : Nat
  sig   : DWord
  amt   : DWord
  stat  : DWord
  succ  : List (Nat × Nat)
  body  : List Byte
  code  : Option Nat := none
  image : Option (List Byte) := none
  deriving DecidableEq, Repr

/-- A queue (R338, R339, R291). `wait` is the WAITSIG that blocks it, `seen` the held packet at its head as it was fetched, with its
length (R340, R344). -/
structure Queue where
  base  : DWord := 0
  en    : Bool := false
  priv  : Bool := false
  ctx   : Byte := 0
  weight : Byte := 1
  prio  : BitVec 2 := 3
  quant : BitVec 16 := 1200
  evec  : BitVec 11 := 0
  lsz   : BitVec 5 := 4
  ridx  : Word := 0
  nerr  : Bool := false
  pend  : Bool := false
  st    : Nat := 0
  widx  : Word := 0
  vtime : Rat := 0
  wait  : Option Nat := none
  seen  : Option (Packet × Nat) := none
  deriving DecidableEq, Repr

/-- A level of a collective's loop nest (R354). -/
structure Level where
  bound : Nat
  coef  : Int
  sstr  : Int
  dstr  : Int
  deriving DecidableEq, Repr

/-- What a collective record has sent to another package and what has not come back (R357, R363): a put, a get with its local destination, the
window elements of a put-reduce's transfer, or an element whose root is not settled. Log 53. -/
inductive Sent where
  | put
  | get (dst : DWord)
  | parts (elems : List DWord)
  | root (elem : DWord)
  deriving DecidableEq, Repr

/-- A collective record in the device (R354 to R364): its fields, where it came from, how far its walker has come, and the
least failure seen. `who`, `step` and `pc` name the CSUB, and `rel` says that it
waits for its thread's earlier accesses. `order` is its place in the walker's round, `iter` of `total` its
transfers emitted. `roots` lists the window elements of this package it contributed to whose roots are not settled, `sent` what other packages have not
acknowledged, and `inSwitch`
the switches of the in-switch paths it chose. -/
structure Record where
  launch : Nat
  ctx    : Nat
  user   : Bool
  packet : Option Nat
  addr   : DWord
  die    : Nat
  who    : Option ThreadRef := none
  step   : Nat := 0
  pc     : DWord := 0
  rel    : Bool := false
  loaded : Bool := false
  op     : Nat := 0
  ifmt   : Nat := 0
  ofmt   : Nat := 0
  afmt   : Nat := 0
  rop    : Nat := 0
  tlen   : Nat := 0
  src    : DWord := 0
  dst    : DWord := 0
  gsize  : Nat := 1
  pbase  : Nat := 0
  arm    : Bool := false
  irq    : Bool := false
  cinc   : Bool := false
  cqlsz  : Nat := 0
  rid    : Nat := 0
  ranks  : List Nat := []
  levels : List Level := []
  wbase  : DWord := 0
  wlines : Nat := 0
  chdl   : Nat := 0
  cq     : DWord := 0
  armh   : Nat := 0
  thr    : Nat := 0
  g0     : Nat := 0
  started : Bool := false
  order  : Nat := 0
  iter   : Nat := 0
  total  : Nat := 0
  status : Nat := 0
  count  : Nat := 0
  roots  : List DWord := []
  sent   : List Sent := []
  inSwitch : List Nat := []
  deriving DecidableEq, Repr

/-- A value waiting in a pairing buffer for its sibling (R359), or a mark that an element's root can no longer be written
(R357). -/
structure Partial where
  val   : Contribution
  dead  : Bool := false
  deriving DecidableEq, Repr

/-- A key slot of a channel end (R386, R388): the epoch and generation of its key. -/
structure KeySlot where
  epoch : Nat
  gen   : Nat
  deriving DecidableEq, Repr

/-- The two channels with a peer rank of a job slot (R386 to R388): this package's transmitting end towards it and its receiving end
from it. `cur` is the transmitter's slot, `seq` its next SEQ, `force` a threshold crossing that RKEY or an epoch has set, `next` an epoch's key
that waits for its slot; `expSlot` and `expSeq` are the receiver's expected pair, `marked` that nothing has been accepted since a marker,
`rxNext` a next key that waits for its slot, `alt` an epoch's key that the flits after the next marker, or after the one just accepted, may
use; `drops`, `dropAt` and `retryAt` the drops of the expected flit,
the cycle of the first and of the next retry request, `drain` the slot to be erased and when, `failed` that the channel from the peer has
failed; `ackDue` and `retryDue` the acknowledgement and the retry request that are to go out. Log 68. -/
structure Channel where
  job     : Nat
  peer    : Nat
  tx0     : Option KeySlot := none
  tx1     : Option KeySlot := none
  cur     : Bool := false
  seq     : Nat := 0
  margin  : Nat := 0
  ilim    : Nat := 0
  force   : Bool := false
  next    : Option KeySlot := none
  rilim   : Nat := 0
  rmargin : Nat := 0
  unacked : List Flit := []
  rx0     : Option KeySlot := none
  rx1     : Option KeySlot := none
  expSlot : Bool := false
  expSeq  : Nat := 0
  marked  : Bool := false
  rxNext  : Option KeySlot := none
  alt     : Option KeySlot := none
  drops   : Nat := 0
  dropAt  : Nat := 0
  retryAt : Nat := 0
  drain   : Option (Nat × Bool) := none
  failed  : Bool := false
  ackDue  : Option (Bool × DWord) := none
  retryDue : Bool := false
  deriving DecidableEq, Repr

/-- The reduction key with which this package seals the contributions it sends (R385, R388): its generation, the SEQ of the next flit
under it, and the ILIM and KEYMARGIN it keeps to. Log 69. -/
structure RedKey where
  gen    : Nat := 0
  seq    : Nat := 0
  ilim   : Nat := 0
  margin : Nat := 0
  deriving DecidableEq, Repr

/-- A switch that holds a job's reduction key (R391, R392): its id, its measurements, and when it was last challenged. -/
structure KeyedSwitch where
  sw   : Nat
  meas : List Byte
  at_  : Nat
  deriving DecidableEq, Repr

/-- A job slot of the enclave controller (R381, R382, R393): the policy's fields, the key ids drawn, the link parameters its channels
start with, the keys of each epoch, the reduction keys in use by the other sources (rank, or 65,536 + switch id), the verifier's key, the
keyed switches, an accepted revocation that waits for its keys, keys that wait for their revocation, and the ranks revoked. -/
structure Job where
  jobid  : BitVec 128
  rank   : Nat
  count  : Nat
  ctxs   : List Nat
  keys   : List Nat
  swd    : List (BitVec 384)
  paths  : List (Nat × List Nat)
  swid   : List Nat
  rechk  : Nat
  tdi    : Nat
  ilim   : Nat := 0
  margin : Nat := 0
  force  : Bool := false
  red    : RedKey := {}
  redRx  : List (Nat × KeySlot) := []
  epoch  : Nat := 0
  ekeys  : List (Nat × EpochKeys)
  verifier : List Byte
  switches : List KeyedSwitch := []
  revoke : Option (Nat × Nat) := none
  newKeys : Option EpochKeys := none
  gone   : List Nat := []
  deriving DecidableEq, Repr

/-- A memory key id (R274): whether a key is installed, its generation, and the key. -/
structure MemKey where
  installed : Bool := false
  gen       : Nat := 0
  key       : BitVec 256 := 0
  deriving DecidableEq, Repr

/-- A context entry (R278). -/
structure Context where
  keymask : DWord := 0
  root    : BitVec 38 := 0
  job     : Bool := false
  v       : Bool := false
  deriving DecidableEq, Repr

/-- A pool entry (R314) and the ranges of it that are allocated: first byte and length. -/
structure Pool where
  base  : BitVec 51 := 0
  tag   : BitVec 4 := 0
  v     : Bool := false
  ctx   : Byte := 0
  lines : BitVec 40 := 0
  taken : List (Nat × Nat) := []
  deriving DecidableEq, Repr

/-- A predictor slot (R310). -/
structure Predictor where
  h0   : Word := 0
  h1   : Word := 0
  h2   : Word := 0
  h3   : Word := 0
  miss : BitVec 16 := 0
  nh   : Nat := 0
  deriving DecidableEq, Repr

/-- A route entry (R369). -/
structure Route where
  v    : Bool := false
  att  : Bool := false
  port : BitVec 4 := 0
  deriving DecidableEq, Repr

/-- A fabric port (R367, R368, R389). `since`: how much had been sent out when a STOP mark stopped it; what leaves through it has stayed in the
sender's buffer from there on. Log 80, 128. -/
structure Port where
  wcmp    : Byte := 1
  wcpy    : Byte := 1
  wcol    : Byte := 2
  drops   : Word := 0
  retries : BitVec 16 := 0
  fail    : Bool := false
  stopped : Bool := false
  since   : Nat := 0
  deriving DecidableEq, Repr

/-- A freeze-log entry (R378). -/
structure FreezeEntry where
  kind   : Nat
  reason : Nat
  number : Nat
  addr   : DWord
  deriving DecidableEq, Repr

/-- A selective IDE stream (R383, R396): the TDI it was set up for and whether it is frozen. -/
structure IdeStream where
  tdi    : Option Nat := none
  frozen : Bool := false
  deriving DecidableEq, Repr

/-- The state of a TDI (R383, R396). -/
inductive TdiState where
  | configUnlocked | configLocked | run | error
  deriving DecidableEq, Repr

/-- An access window of the firmware cores (R374). -/
structure Window where
  v    : Bool := false
  w    : Bool := false
  rd   : Bool := false
  base : BitVec 40 := 0
  last : BitVec 40 := 0
  deriving DecidableEq, Repr

/-- A section of an accepted firmware image (R370). -/
structure FwSection where
  core : Nat
  data : Bool
  off  : Nat
  bytes : List Byte
  deriving DecidableEq, Repr

/-- An SPDM session of the enclave controller (R380, R381). -/
structure Session where
  mutualAuth : Bool
  verifier   : List Byte
  deriving DecidableEq, Repr

/-- What the device sends out: interrupts (R402, R353), answers to the host, SPDM responses (R380), the flits of channels
(R384, R386) and to switches (R391), accesses to other packages (R282), and transfers to other packages (R357). Log 10, 69. -/
inductive Out where
  | msix (vec : Nat)
  | reply (bytes : List Byte)
  | unsupported
  | spdm (bytes : List Byte)
  | spdmError (code : Byte)
  | flit (ch : Nat) (f : Flit)
  | remote (rank : Nat) (write : Bool) (va : DWord) (bytes : List Byte)
  | remoteMark (rank : Nat) (va : DWord) (n : Nat)
  | remoteAtom (rank : Nat) (op : AtomOp) (size : Nat) (va b d : DWord) (token : Option Nat)
  | remoteBar (rank : Nat) (va : DWord) (n : Option Nat)
  | remoteDone (rank : Nat) (va : DWord) (bytes : List Byte) (bad drop : Bool)
  | remoteFault (rank : Nat) (va : DWord) (cause detail : BitVec 8) (applied : Bool)
  | transfer (rank : Nat) (get : Bool) (va : DWord) (bytes : List Byte) (len : Nat)
  | contribution (c : Contribution) (f : Option Flit)
  | delivered (ch : Nat) (kind : Byte) (bytes : List Byte)
  | spdmToSwitch (sw : Nat) (flit : List Byte)
  | scanPost (tag leaf : Nat) (sum : Summary)
  | scanNode (tag : Nat) (n : Node)
  deriving DecidableEq, Repr

end Sys2Proof.Machine
end

