-- ==== Sys2Proof/Machine/State.lean ====
section
/-! DEFINITION. The machine's state: one AJ8 package (R1), and its state after reset. Plain data throughout. -/

namespace Sys2Proof.Machine

/-- Why an event stops the machine: the model's own faults. Every exception that the spec gives a program is taken as a next
state (R254, R255) and is not among these. Log 9. -/
inductive Fault where
  /-- Raised by an event of the device, named here, in a state in which the spec does not let it occur: a completion of a
  command that is not open, a service of a queue that is stopped, a part that the package does not have. Safe: the hardware has no
  such step. -/
  | notEnabled (event : String)
  /-- Raised by `step` when every clock of the module has stopped (R405) and no event is given: only a cold reset follows.
  Safe. -/
  | clocksStopped
  deriving DecidableEq, Repr

/-- Why an instruction has no meaning in the model. -/
inductive Refusal where
  /-- Raised by an arm of `exec` for an instruction that the model does not give a meaning yet. Safe. -/
  | notModelled (mnemonic : String)
  deriving DecidableEq, Repr

/-- The outcome of a step. -/
abbrev Ans (σ : Type) := Host.Outcome σ Fault Refusal

/-- The boot and trust side of die A (R370 to R383, R396 to R401). Log 5. -/
structure Trust where
  bootVer  : BitVec 16 := 0
  svn      : BitVec 16 := 0
  nextSvn  : Option (BitVec 16) := none
  bootCode : Nat := 0
  bootBusy : Bool := false
  staging  : Mem := []
  windows  : List Window := List.replicate 16 {}
  meas     : List (BitVec 512) := List.replicate 16 0
  nsvn     : BitVec 16 := 0
  rlen     : BitVec 16 := 0
  slen     : BitVec 16 := 0
  mbDone   : Bool := false
  mbBusy   : Bool := false
  mbReq    : Mem := []
  mbResp   : Mem := []
  session  : Option Session := none
  jobs     : Table (Option Job) := []
  keys     : Table MemKey := []
  channels : Table (Option Channel) := []
  freezes  : List FreezeEntry := []
  freezeOvf : Nat := 0
  streams  : Table IdeStream := []
  tdis     : Table TdiState := []
  deriving DecidableEq, Repr

/-- Reset, interrupt, power and host-interface state of die A (R272, R389, R397 to R405). Log 5. -/
structure HostIf where
  qen      : Bool := false
  trdone   : Bool := false
  trerr    : Bool := false
  training : Bool := false
  intst    : BitVec 6 := 0
  wg       : BitVec 7 := 0
  w4base   : BitVec 22 := 0
  cap      : BitVec 12 := 2600
  clk      : BitVec 16 := 600
  pwr      : BitVec 16 := 0
  plim     : Bool := false
  tlim     : Bool := false
  below    : Nat := 0
  stopped  : Bool := false
  lkDrain  : BitVec 16 := 100
  lkKms    : BitVec 6 := 24
  lkIlims  : BitVec 6 := 40
  pgrq     : List (DWord × Nat) := []
  pgWait   : List (DWord × Nat) := []
  deriving DecidableEq, Repr

/-- One AJ8 package. `cur` is the number of the focus core, whose bundle the next instruction is (tile cores 32 die + core,
firmware cores 256 to 259); `core` is that core and `parked` holds the others that are not as at reset. `now` counts core
cycles and `cyc0` is the count at which CYC was zeroed (R21). `inputs` holds the events that come next, chosen by the
outside or by an arbitration that the spec leaves open. `freeCtr` is what the free values of Config are applied to. -/
structure State where
  cur      : Nat := 0
  core     : Core := {}
  parked   : Table Core := []
  now      : Nat := 0
  cyc0     : Nat := 0
  inputs   : List Instr := []
  freeCtr  : Nat := 0
  outbox   : List Out := []
  mem      : Mem := []
  tags     : Table (Nat × Nat) := []
  poison   : Bits := []
  releases : Table (Option Release) := []
  seqWords : Bits := []
  races    : List (Nat × RaceEntry) := []
  psb      : List PsbEntry := []
  copies   : Table (Option Copy) := []
  dies     : Vector Die 8 := Vector.replicate 8 {}
  triggers : Table Trigger := []
  armed    : List Armed := []
  launches : Table (Option Launch) := []
  queues   : Table Queue := []
  packets  : Table (Option Packet) := []
  releasesQ : Table Nat := []
  records  : Table (Option Record) := []
  partials : List Partial := []
  away     : List AwayAck := []
  tokens   : Nat := 1
  contexts : Table Context := []
  pools    : Table Pool := []
  preds    : Table Predictor := []
  routes   : Table Route := []
  ports    : Table Port := []
  links    : Bits := []
  trust    : Trust := {}
  host     : HostIf := {}
  fwImem   : Table Mem := []
  fwSecs   : List FwSection := []
  deriving DecidableEq, Repr

/-- The machine right after a cold reset (R399, R400): nothing listed in memory, every register at the value the spec gives
for reset, and where it gives none at the value that notes/assumptions/5.md names. No thread is resident, no queue is
enabled, no firmware is accepted and memory is not trained. Log 5. -/
def State.reset : State := {}

end Sys2Proof.Machine
end

