-- ==== Sys2Proof/Machine/Table.lean ====
section
/-! DEFINITION. Tables by number in canonical form, the byte memories built on them, and sets of numbers. -/

namespace Sys2Proof.Machine

/-- The entry of a table at a number; the default where it is not listed. -/
def tget {α : Type} (d : α) : Table α → Nat → α
  | [], _ => d
  | (k, x) :: t, n => if n = k then x else tget d t n

/-- Write an entry, keeping the numbers rising and listing no default. -/
def tset {α : Type} [DecidableEq α] (d : α) : Table α → Nat → α → Table α
  | [], n, v => if v = d then [] else [(n, v)]
  | (k, x) :: t, n, v =>
    if n < k then (if v = d then (k, x) :: t else (n, v) :: (k, x) :: t)
    else if n = k then (if v = d then t else (n, v) :: t)
    else (k, x) :: tset d t n v

/-- Change an entry. -/
def tmod {α : Type} [DecidableEq α] (d : α) (t : Table α) (n : Nat) (f : α → α) : Table α := tset d t n (f (tget d t n))

/-- The canonical form: numbers strictly rising, no default listed. -/
def Table.wf {α : Type} [DecidableEq α] (d : α) : Table α → Bool
  | [] => true
  | [(_, x)] => x ≠ d
  | (k, x) :: (k', x') :: t => x ≠ d && k < k' && Table.wf d ((k', x') :: t)

/-- The byte at an address; an unlisted address reads as zero (R275, R400; notes/assumptions/6.md). Log 6. -/
def Mem.byte (m : Mem) (a : Nat) : Byte := tget 0 m a

/-- Write one byte. -/
def Mem.put (m : Mem) (a : Nat) (b : Byte) : Mem := tset 0 m a b

/-- The n bytes from an address up. -/
def Mem.read (m : Mem) (a : Nat) : Nat → List Byte
  | 0 => []
  | n + 1 => m.byte a :: m.read (a + 1) n

/-- Write consecutive bytes. -/
def Mem.write (m : Mem) (a : Nat) : List Byte → Mem
  | [] => m
  | b :: bs => (m.put a b).write (a + 1) bs

/-- The canonical form of a memory: addresses strictly rising, no byte equal to what an unlisted address reads as. -/
def Mem.wf (m : Mem) : Bool := Table.wf (0 : Byte) m

/-- Set or clear one number of a set. -/
def Bits.put : Bits → Nat → Bool → Bits
  | [], n, b => if b then [n] else []
  | k :: t, n, b =>
    if n < k then (if b then n :: k :: t else k :: t)
    else if n = k then (if b then k :: t else t)
    else k :: Bits.put t n b

/-- Whether a number is in a set. -/
def Bits.has (s : Bits) (n : Nat) : Bool := s.contains n

/-- Set or clear several numbers. -/
def Bits.putAll (s : Bits) (ns : List Nat) (b : Bool) : Bits := ns.foldl (fun s n => s.put n b) s

/-- Bytes as a little-endian number (R3). -/
def bytesNat : List Byte → Nat
  | [] => 0
  | b :: bs => b.toNat + 256 * bytesNat bs

/-- The n low bytes of a number, least significant first (R3). -/
def natBytes : Nat → Nat → List Byte
  | 0, _ => []
  | n + 1, x => BitVec.ofNat 8 x :: natBytes n (x / 256)

/-- The n-byte little-endian number at an address. -/
def Mem.le (m : Mem) (a n : Nat) : Nat := bytesNat (m.read a n)

/-- A number read as a two's-complement integer of w bits. -/
def toSigned (w n : Nat) : Int := (BitVec.ofNat w n).toInt

/-- The field of `n` from bit `lo`, `w` bits wide. -/
def bits (n lo w : Nat) : Nat := n / 2 ^ lo % 2 ^ w

/-- Insert an element into a list sorted by a number, after the elements of the same number. -/
def insertBy {α : Type} (f : α → Nat) (x : α) : List α → List α
  | [] => [x]
  | y :: ys => if f x < f y then x :: y :: ys else y :: insertBy f x ys

/-- Sort by a number, keeping the order of equal ones. -/
def sortBy {α : Type} (f : α → Nat) (l : List α) : List α := l.foldl (fun acc x => insertBy f x acc) []

/-- The first of a list of checks that fails. Log 88. -/
def firstSome {α : Type} (l : List (Option α)) : Option α := l.findSome? id

end Sys2Proof.Machine
end

