-- ==== Sys2Proof/Machine/Float.lean ====
section
/-! DEFINITION. Floating arithmetic (chapter 2 of the spec): values are exact dyadics, every operation is computed exactly and
rounded once (R41), and the special functions are bounded by integer intervals before their one rounding (R54). -/

namespace Sys2Proof.Machine

/-- The three floating formats (R33). -/
inductive FFmt where
  | fp32 | fp16 | bf16
  deriving DecidableEq, Repr

/-- Fraction bits (R33). -/
def FFmt.frac : FFmt → Nat
  | .fp32 => 23 | .fp16 => 10 | .bf16 => 7

/-- Exponent bits (R33). -/
def FFmt.exp : FFmt → Nat
  | .fp32 => 8 | .fp16 => 5 | .bf16 => 8

/-- Width in bits. -/
def FFmt.width (f : FFmt) : Nat := 1 + f.exp + f.frac

/-- The bias (R33). -/
def FFmt.bias (f : FFmt) : Int := 2 ^ (f.exp - 1) - 1

/-- The canonical quiet NaN (R36). -/
def FFmt.nan : FFmt → Nat
  | .fp32 => 0x7FC00000 | .fp16 => 0x7E00 | .bf16 => 0x7FC0

/-- A floating value (R34): a NaN, quiet or signalling; an infinity; or (−1)^neg · m · 2^e, zero where m is 0. -/
inductive Num where
  | nan (sig : Bool)
  | inf (neg : Bool)
  | fin (neg : Bool) (m : Nat) (e : Int)
  deriving DecidableEq, Repr

/-- A result's bits with the FPST flags it raises (R43): NV 1, DZ 2, OF 4, UF 8, NX 16. -/
structure Flt where
  val   : Nat
  flags : BitVec 5 := 0
  deriving DecidableEq, Repr

/-- The FPST flag bits (R22 map of FPST in R20). -/
def flagNV : BitVec 5 := 1
@[inherit_doc flagNV] def flagDZ : BitVec 5 := 2
@[inherit_doc flagNV] def flagOF : BitVec 5 := 4
@[inherit_doc flagNV] def flagUF : BitVec 5 := 8
@[inherit_doc flagNV] def flagNX : BitVec 5 := 16

/-- The class and value of an encoding (R34). -/
def FFmt.decode (f : FFmt) (x : Nat) : Num :=
  let fr := x % 2 ^ f.frac
  let ex := x / 2 ^ f.frac % 2 ^ f.exp
  let neg := (x / 2 ^ (f.frac + f.exp)) % 2 = 1
  if ex = 2 ^ f.exp - 1 then
    if fr = 0 then .inf neg else .nan (fr / 2 ^ (f.frac - 1) = 0)
  else if ex = 0 then .fin neg fr (1 - f.bias - f.frac)
  else .fin neg (2 ^ f.frac + fr) (ex - f.bias - f.frac)

/-- The sign bit placed. -/
def FFmt.sign (f : FFmt) (neg : Bool) : Nat := if neg then 2 ^ (f.frac + f.exp) else 0

/-- The infinity of a sign. -/
def FFmt.inf (f : FFmt) (neg : Bool) : Nat := f.sign neg + (2 ^ f.exp - 1) * 2 ^ f.frac

/-- The largest finite magnitude with a sign. -/
def FFmt.maxFin (f : FFmt) (neg : Bool) : Nat := f.inf neg - 1

/-- Rounding modes (R41). -/
inductive RMode where
  | rne | rtz | rup | rdn
  deriving DecidableEq, Repr

/-- The mode of a two-bit code (R20 RMODE, R214 MODE). -/
def RMode.ofBits (n : Nat) : RMode :=
  match n % 4 with
  | 0 => .rne | 1 => .rtz | 2 => .rup | _ => .rdn

/-- The mode of a three-bit rounding code, where 0 takes the given RMODE (R136, R193). -/
def RMode.ofCode (n : Nat) (rm : RMode) : RMode := if n = 0 then rm else .ofBits n

/-- Whether a magnitude n + r/d, 0 ≤ r < d, rounds up; `more` marks a value strictly above it that does not reach the next
unit in the last place of r (R41). -/
def RMode.up (mode : RMode) (neg odd : Bool) (r d : Nat) (more : Bool) : Bool :=
  match mode with
  | .rne => d < 2 * r || (2 * r = d && (more || odd))
  | .rtz => false
  | .rup => !neg && (r ≠ 0 || more)
  | .rdn => neg && (r ≠ 0 || more)

/-- m · 2^e rounded to a multiple of 2^q: the multiple, and whether anything was discarded. Log 12. -/
def roundAt (mode : RMode) (neg : Bool) (m : Nat) (e q : Int) (more : Bool) : Nat × Bool :=
  if q ≤ e then (m * 2 ^ (e - q).toNat, more)
  else
    let d := 2 ^ (q - e).toNat
    let n := m / d
    let r := m % d
    (n + (if mode.up neg (n % 2 = 1) r d more then 1 else 0), r ≠ 0 || more)

/-- Round a non-zero finite value once to a format (R41 to R43). `more` marks an exact value strictly between m · 2^e and
(m + 1) · 2^e. -/
def FFmt.round (f : FFmt) (mode : RMode) (neg : Bool) (m : Nat) (e : Int) (more : Bool := false) : Flt :=
  let top : Int := m.log2 + e
  let q := top - f.frac
  let qmin := 1 - f.bias - f.frac
  let (n, nx) := roundAt mode neg m e (max q qmin) more
  let (nu, _) := roundAt mode neg m e q more
  let q' := max q qmin
  if f.bias < n.log2 + q' ∧ n ≠ 0 then
    let toInf := match mode with | .rne => true | .rtz => false | .rup => !neg | .rdn => neg
    ⟨if toInf then f.inf neg else f.maxFin neg, flagOF ||| flagNX⟩
  else
    let tiny := nu.log2 + q < 1 - f.bias
    let flags := (if nx then flagNX else 0) ||| (if nx ∧ tiny then flagUF else 0)
    let mag :=
      if n < 2 ^ f.frac then n
      else if n = 2 ^ (f.frac + 1) then ((q' + 1 + f.frac + f.bias).toNat) * 2 ^ f.frac
      else (q' + f.frac + f.bias).toNat * 2 ^ f.frac + (n - 2 ^ f.frac)
    ⟨f.sign neg + mag, flags⟩

/-- A signalling NaN. -/
def Num.isSig : Num → Bool
  | .nan s => s
  | _ => false

/-- A NaN. -/
def Num.isNan : Num → Bool
  | .nan _ => true
  | _ => false

/-- Sign flipped (exact; R135, R178). -/
def Num.neg : Num → Num
  | .nan s => .nan s
  | .inf n => .inf (!n)
  | .fin n m e => .fin (!n) m e

/-- The exact product; a NaN factor gives a NaN, 0 · ∞ gives `none` (R38, R40). Log 13. -/
def Num.mul : Num → Num → Option Num
  | .inf a, .inf b => some (.inf (a ^^ b))
  | .inf a, .fin b m _ => if m = 0 then none else some (.inf (a ^^ b))
  | .fin b m _, .inf a => if m = 0 then none else some (.inf (a ^^ b))
  | .fin a m e, .fin b n f => some (.fin (a ^^ b) (m * n) (e + f))
  | .nan s, _ => some (.nan s)
  | _, .nan s => some (.nan s)

/-- The integer a finite addend contributes at exponent `lo`. -/
def Num.at (lo : Int) : Num → Int
  | .fin n m e => (if n then -1 else 1) * (m * 2 ^ (e - lo).toNat)
  | _ => 0

/-- The exact sum of addends rounded once, with infinities and NaNs resolved over the whole set (R40, R52); `nv` says that an
invalid product is among them. Log 11. -/
def FFmt.sum (f : FFmt) (mode : RMode) (nv : Bool) (xs : List Num) : Flt :=
  let nvf : BitVec 5 := if nv || xs.any Num.isSig then flagNV else 0
  if nv || xs.any Num.isNan then ⟨f.nan, nvf⟩
  else
    let pos := xs.any fun x => x = .inf false
    let ngt := xs.any fun x => x = .inf true
    if pos && ngt then ⟨f.nan, flagNV⟩
    else if pos then ⟨f.inf false, nvf⟩
    else if ngt then ⟨f.inf true, nvf⟩
    else
      let lo := xs.foldl (fun l x => match x with | .fin _ m e => if m = 0 then l else min l e | _ => l) 1000
      let t := xs.foldl (fun s x => s + x.at lo) 0
      if t = 0 then
        let z (n : Bool) : Bool := xs.all fun x => match x with | .fin n' m _ => m = 0 && n' = n | _ => false
        ⟨f.sign (if z true then true else if z false then false else mode = .rdn), nvf⟩
      else
        let r := f.round mode (t < 0) t.natAbs lo
        ⟨r.val, r.flags ||| nvf⟩

/-- acc + Σ aᵢ · bᵢ, exact and rounded once (R50, R52); with one pair, the fused multiply-add. A NaN input decides the result
and its own signalling flag; 0 · ∞ sets NV whatever else is there (R38, R52). Log 11. -/
def FFmt.dot (f : FFmt) (mode : RMode) (acc : Num) (ps : List (Num × Num)) : Flt :=
  let nv := ps.any fun p => (p.1.mul p.2).isNone
  let sig := acc.isSig || ps.any fun p => p.1.isSig || p.2.isSig
  let r := f.sum mode nv (acc :: ps.filterMap fun p => p.1.mul p.2)
  ⟨r.val, r.flags ||| if sig then flagNV else 0⟩

/-- a + b (R38, R40, R41). -/
def FFmt.add (f : FFmt) (mode : RMode) (a b : Num) : Flt := f.sum mode false [a, b]

/-- a · b (R38, R41). Log 13. -/
def FFmt.mul (f : FFmt) (mode : RMode) (a b : Num) : Flt :=
  let sig := a.isSig || b.isSig
  match a.mul b with
  | none => ⟨f.nan, flagNV⟩
  | some p =>
    let r := f.sum mode false [p]
    ⟨r.val, r.flags ||| if sig then flagNV else 0⟩

/-- a < b of two values that are no NaNs, with −0 below +0 where `zeros` is set (R39). -/
def Num.lt (zeros : Bool) (a b : Num) : Bool :=
  match a, b with
  | .inf n, .inf n' => n && !n'
  | .inf n, .fin _ _ _ => n
  | .fin _ _ _, .inf n => !n
  | .fin n m e, .fin n' m' e' =>
    let lo := min e e'
    let x := (Num.fin n m e).at lo
    let y := (Num.fin n' m' e').at lo
    x < y || (zeros && m = 0 && m' = 0 && n && !n')
  | _, _ => false

/-- Minimum (`hi` false) or maximum of two encodings (R39). -/
def FFmt.minmax (f : FFmt) (hi : Bool) (x y : Nat) : Flt :=
  let a := f.decode x
  let b := f.decode y
  if a.isNan || b.isNan then ⟨f.nan, if a.isSig || b.isSig then flagNV else 0⟩
  else if a.lt true b = hi then ⟨y, 0⟩ else ⟨x, 0⟩

/-- The value of a comparison: none where unordered, else whether a < b and whether a = b (R39). -/
def Num.cmp (a b : Num) : Option (Bool × Bool) :=
  if a.isNan || b.isNan then none
  else some (a.lt false b, !a.lt false b && !b.lt false a)

/-- A floating value converted to a format with one rounding (R44). -/
def FFmt.ofNum (f : FFmt) (mode : RMode) (a : Num) : Flt :=
  match a with
  | .nan s => ⟨f.nan, if s then flagNV else 0⟩
  | .inf n => ⟨f.inf n, 0⟩
  | .fin n m e => if m = 0 then ⟨f.sign n, 0⟩ else f.round mode n m e

/-- An integer converted to a format with one rounding (R44). -/
def FFmt.ofInt (f : FFmt) (mode : RMode) (x : Int) : Flt :=
  if x = 0 then ⟨0, 0⟩ else f.round mode (x < 0) x.natAbs 0

/-- A floating value converted to an integer of w bits, signed or unsigned (R44): the integer and its flags. -/
def Num.toInteger (mode : RMode) (w : Nat) (signed : Bool) (a : Num) : Int × BitVec 5 :=
  let lo : Int := if signed then -(2 ^ (w - 1)) else 0
  let hi : Int := if signed then 2 ^ (w - 1) - 1 else 2 ^ w - 1
  match a with
  | .nan _ => (0, flagNV)
  | .inf n => (if n then lo else hi, flagNV)
  | .fin n m e =>
    let r := roundAt mode n m e 0 false
    let x : Int := if n then -r.1 else r.1
    if x < lo then (lo, flagNV) else if hi < x then (hi, flagNV) else (x, if r.2 then flagNX else 0)

/-- The integer square root by Newton's steps, on fuel. -/
def isqrtGo : Nat → Nat → Nat → Nat
  | 0, _, x => x
  | k + 1, n, x => let y := (x + n / x) / 2; if y < x then isqrtGo k n y else x

/-- ⌊√n⌋. -/
def isqrt (n : Nat) : Nat := if n = 0 then 0 else isqrtGo 600 n (2 ^ (n.log2 / 2 + 1))

/-- 1 / x (R54, R55). -/
def FFmt.recip (f : FFmt) (mode : RMode) (x : Num) : Flt :=
  match x with
  | .nan s => ⟨f.nan, if s then flagNV else 0⟩
  | .inf n => ⟨f.sign n, 0⟩
  | .fin n m e =>
    if m = 0 then ⟨f.inf n, flagDZ⟩
    else
      let k := m.log2 + f.frac + 8
      f.round mode n (2 ^ k / m) (-(k : Int) - e) (2 ^ k % m ≠ 0)

/-- √x (R54, R55). -/
def FFmt.sqrt (f : FFmt) (mode : RMode) (x : Num) : Flt :=
  match x with
  | .nan s => ⟨f.nan, if s then flagNV else 0⟩
  | .inf n => if n then ⟨f.nan, flagNV⟩ else ⟨f.inf false, 0⟩
  | .fin n m e =>
    if m = 0 then ⟨f.sign n, 0⟩
    else if n then ⟨f.nan, flagNV⟩
    else
      let k := 2 * (f.frac + 8) + (e % 2).toNat
      let v := m * 2 ^ k
      let r := isqrt v
      f.round mode false r ((e - k) / 2) (r * r ≠ v)

/-- 1 / √x (R54, R55). -/
def FFmt.rsqrt (f : FFmt) (mode : RMode) (x : Num) : Flt :=
  match x with
  | .nan s => ⟨f.nan, if s then flagNV else 0⟩
  | .inf n => if n then ⟨f.nan, flagNV⟩ else ⟨0, 0⟩
  | .fin n m e =>
    if m = 0 then ⟨f.inf n, flagDZ⟩
    else if n then ⟨f.nan, flagNV⟩
    else
      -- 1/√(m 2^e) = √(2^k / m) · 2^(−(k + e) / 2), with k + e even
      let k0 := 2 * (f.frac + 8) + 2 * m.log2
      let k := k0 + ((k0 + e) % 2).toNat
      let r := isqrt (2 ^ k / m)
      f.round mode false r (-((k + e) / 2)) (r * r * m ≠ 2 ^ k)

/-- The fixed-point precision of the special functions. Log 12. -/
def prec : Nat := 320

/-- Σ_{i ≥ k} z^(2i+1)/(2i+1) in fixed point, downward, on fuel: `p` is z^(2k+1) and `z2` is z². -/
def atanhGo : Nat → Nat → Nat → Nat → Nat
  | 0, _, _, _ => 0
  | n + 1, k, p, z2 => p / (2 * k + 1) + atanhGo n (k + 1) (p * z2 / 2 ^ prec) z2

/-- 2 · atanh(a / b) in fixed point, below the exact value by fewer than 2^10 units. -/
def logRatio (a b : Nat) : Nat :=
  let z := a * 2 ^ prec / b
  2 * atanhGo 220 0 z (z * z / 2 ^ prec)

/-- ln 2 in fixed point, below the exact value by fewer than 2^10 units: 2 · atanh(1/3). -/
def ln2 : Nat := logRatio 1 3

/-- Σ y^i / i! from a running term, in fixed point, downward, on fuel. -/
def expGo : Nat → Nat → Nat → Nat → Nat
  | 0, _, _, _ => 0
  | n + 1, i, t, y => t + expGo n (i + 1) (t * y / 2 ^ prec / i) y

/-- Round a value known to lie strictly between lo · 2^−prec and (lo + w) · 2^−prec, times 2^e: decided where both ends round
alike, else the free value. -/
def FFmt.between (f : FFmt) (mode : RMode) (neg : Bool) (lo w : Nat) (e : Int) (free : Nat) : Flt :=
  let a := f.round mode neg lo (e - prec) true
  let b := f.round mode neg (lo + w) (e - prec) true
  if a = b then a else ⟨free % 2 ^ f.width, flagNX⟩

/-- 2^x (R54, R55). Log 12. -/
def FFmt.exp2 (f : FFmt) (mode : RMode) (x : Num) (raw : Nat) : Flt :=
  match x with
  | .nan s => ⟨f.nan, if s then flagNV else 0⟩
  | .inf n => if n then ⟨0, 0⟩ else ⟨f.inf false, 0⟩
  | .fin n m e =>
    if m = 0 then f.round mode false 1 0
    else if 0 ≤ e ∨ m % 2 ^ (-e).toNat = 0 then
      let kn : Nat := min (if 0 ≤ e then m * 2 ^ (min e 20).toNat else m / 2 ^ (-e).toNat) 100000
      let k : Int := kn
      f.round mode false 1 (if n then -k else k)
    else if (200 : Int) < m.log2 + e then
      f.round mode false 1 (if n then -100000 else 100000) true
    else
      -- x = i + y, 0 < y < 1
      let d : Nat := 2 ^ (-e).toNat
      let whole : Nat := m / d
      let fl : Int := if n then -(whole : Int) - 1 else (whole : Int)
      let fr : Nat := if n then d - m % d else m % d
      let yLo : Nat := fr * ln2 / d
      let s := expGo 120 1 (2 ^ prec) yLo
      f.between mode false s (2 ^ 24) fl (Config.freeSpecial f.width 0 raw)

/-- log2 x (R54, R55). Log 12. -/
def FFmt.log2 (f : FFmt) (mode : RMode) (x : Num) (raw : Nat) : Flt :=
  match x with
  | .nan s => ⟨f.nan, if s then flagNV else 0⟩
  | .inf n => if n then ⟨f.nan, flagNV⟩ else ⟨f.inf false, 0⟩
  | .fin n m e =>
    if m = 0 then ⟨f.inf true, flagDZ⟩
    else if n then ⟨f.nan, flagNV⟩
    else
      let top : Int := m.log2 + e
      if m = 2 ^ m.log2 then f.ofInt mode top
      else
        -- log2 x = top + 2 atanh((m − 2^l)/(m + 2^l)) / ln 2
        let p : Nat := 2 ^ m.log2
        let lg : Nat := logRatio (m - p) (m + p) * 2 ^ prec / (ln2 + 2 ^ 10)
        let v : Int := top * 2 ^ prec + lg
        let w := 2 ^ 24
        let free := Config.freeSpecial f.width 1 raw
        if 0 ≤ v then f.between mode false v.toNat w 0 free
        else f.between mode true (-(v + w)).toNat w 0 free

end Sys2Proof.Machine
end

