-- ==== Sys2Proof/Machine/Base.lean ====
section
/-! DEFINITION. The plain operations over the state: the focus core and its thread, other cores, registers, scratchpad and
state units, streams, and results that land (R73). -/

namespace Sys2Proof.Machine

/-- Replace the focus core. -/
def State.setCore (s : State) (c : Core) : State := { s with core := c }

/-- The thread on the focus core. -/
abbrev State.thr (s : State) : Thread := s.core.thr

/-- Change the thread on the focus core. -/
def State.modThr (s : State) (f : Thread → Thread) : State := { s with core := { s.core with thr := f s.core.thr } }

/-- The core of a number. -/
def State.coreAt (s : State) (n : Nat) : Core := if n = s.cur then s.core else tget {} s.parked n

/-- Change the core of a number. -/
def State.modCore (s : State) (n : Nat) (f : Core → Core) : State :=
  if n = s.cur then { s with core := f s.core } else { s with parked := tmod {} s.parked n f }

/-- Make another core the focus core. Log 2. -/
def State.focus (s : State) (n : Nat) : State :=
  if n = s.cur then s
  else { s with cur := n, core := tget {} s.parked n, parked := tset {} (tset {} s.parked s.cur s.core) n {} }

/-- Every core number of the package: 256 tile cores and four firmware cores (R1). -/
def coreNumbers : List Nat := List.range 260

/-- Whether a core number names a firmware core. -/
def isFw (n : Nat) : Bool := n ≥ 256

/-- Whether the focus core is a firmware core. -/
abbrev State.fw (s : State) : Bool := isFw s.cur

/-- The compute die of a tile core. -/
def dieOf (core : Nat) : Nat := core / 32

/-- An event that the spec does not let occur in this state. Log 9. -/
def off_ (event : String) : Ans State := .fault (.notEnabled event)

/-- The numbers of the cores that are not as at reset. -/
def State.busyCores (s : State) : List Nat := s.cur :: (s.parked.map Prod.fst).filter (fun n => n ≠ s.cur)

/-- The compute die of a number. -/
def State.die (s : State) (d : Nat) : Die := if h : d < 8 then s.dies[d] else {}

/-- Change a compute die. -/
def State.modDie (s : State) (d : Nat) (f : Die → Die) : State :=
  if h : d < 8 then { s with dies := s.dies.set d (f s.dies[d]) } else s

/-- The launch of a number. -/
def State.launch? (s : State) (l : Nat) : Option Launch := tget none s.launches l

/-- Change a launch. -/
def State.modLaunch (s : State) (l : Nat) (f : Launch → Launch) : State :=
  { s with launches := tmod none s.launches l (Option.map f) }

/-- The launch of the thread on the focus core. -/
def State.myLaunch (s : State) : Option Launch := s.launch? s.thr.launch

/-- Add something to what the device has sent out, oldest first. Log 10. -/
def State.send (s : State) (o : Out) : State := { s with outbox := s.outbox ++ [o] }

/-- Send an MSI-X message: of the 2,048 vectors, 0 to 7 belong to the device causes, and nothing else sends them (R396, R402). -/
def State.interrupt (s : State) (vec : Nat) : State := if vec < 8 || 2048 ≤ vec then s else s.send (.msix vec)

/-- Raise a device cause: set its INTST bit, and send its vector on the transition from 0 (R402). Log 79. -/
def State.cause (s : State) (b : Nat) : State :=
  if s.host.intst.getLsbD b then s
  else ({ s with host := { s.host with intst := s.host.intst ||| BitVec.ofNat 6 (2 ^ b) } }).send (.msix b)

/-- A fresh token for an outstanding command or request. -/
def State.takeToken (s : State) : State := { s with tokens := s.tokens + 1 }

/-- CYC, which every core and die A share (R21). -/
def State.cyc (s : State) : DWord := BitVec.ofNat 64 (s.now - s.cyc0)

/-- The next free value's index, and the state that has used it. Log 8. -/
def State.draw (s : State) : State := { s with freeCtr := s.freeCtr + 1 }

/-- Set an entry of a vector, where the number is in range. -/
def vset {α : Type} {n : Nat} (v : Vector α n) (i : Nat) (x : α) : Vector α n := v.setIfInBounds i x

/-- An entry of a vector, or a default out of range. -/
def vget {α : Type} {n : Nat} (d : α) (v : Vector α n) (i : Nat) : α := (v[i]?).getD d

/-! ### Registers -/

/-- Write a scalar register; s0 discards writes (R10). -/
def Thread.setS (t : Thread) (n : Nat) (x : DWord) : Thread := if n = 0 then t else { t with s := vset t.s n x }

/-- Read a scalar register; s0 reads as zero (R10). -/
def Thread.getS (t : Thread) (n : Nat) : DWord := if n = 0 then 0 else vget 0 t.s n

/-- Read a predicate; p0 reads as true (R10). -/
def Thread.getP (t : Thread) (n : Nat) : Bool := n = 0 || t.p.getLsbD n

/-- Write a predicate; p0 discards writes (R10). -/
def Thread.setP (t : Thread) (n : Nat) (b : Bool) : Thread :=
  if n = 0 then t
  else { t with p := if b then t.p ||| BitVec.ofNat 24 (2 ^ n) else t.p &&& ~~~(BitVec.ofNat 24 (2 ^ n)) }

/-- Read a lane mask; k0 reads as all ones (R10). -/
def Thread.getK (t : Thread) (n : Nat) : BitVec 128 := if n = 0 then BitVec.allOnes 128 else vget 0 t.k n

/-- Write the enabled bits of a lane mask; k0 discards writes (R10, R181). -/
def Thread.setK (t : Thread) (n : Nat) (x en : BitVec 128) : Thread :=
  if n = 0 then t else { t with k := vset t.k n ((vget 0 t.k n &&& ~~~en) ||| (x &&& en)) }

/-- Lanes of `x` where `en` is set, of `old` elsewhere (R175). -/
def Vec.merge (old x : Vec) (en : BitVec 128) : Vec :=
  if en = BitVec.allOnes 128 then x else Vector.ofFn fun i => if en.getLsbD i then x[i] else old[i]

/-- Read a vector register. -/
def Thread.getV (t : Thread) (n : Nat) : Vec := vget Vec.zero t.v n

/-- Write the enabled lanes of a vector register. -/
def Thread.setV (t : Thread) (n : Nat) (x : Vec) (en : BitVec 128) : Thread :=
  { t with v := vset t.v n ((t.getV n).merge x en) }

/-- A result reaches a latch (R12): a scalar result clears the vector part, a vector result the scalar part. -/
def Thread.setLatch (t : Thread) (k : Nat) : LatchVal → Thread
  | .scalar x => { t with lS := vset t.lS k x, lV := vset t.lV k Vec.zero }
  | .vector x => { t with lS := vset t.lS k 0, lV := vset t.lV k x }

/-- All eight latches cleared (R13). -/
def Thread.clearLatches (t : Thread) : Thread :=
  { t with lS := Vector.replicate 8 0, lV := Vector.replicate 8 Vec.zero,
           marks := t.marks.filter fun m => match m.reg with | .latch _ => false | _ => true }

/-- Whether a held value of a slot is full (R71): C, X, N, F hold scalars, V0 and V1 vectors. -/
def HeldSet.full (h : HeldSet) : Nat → Bool
  | 0 => h.c.isSome | 3 => h.v0.isSome | 4 => h.v1.isSome | 5 => h.x.isSome | 6 => h.n.isSome | 7 => h.f.isSome
  | _ => false

/-- The scalar held in a slot. -/
def HeldSet.scalar (h : HeldSet) : Nat → DWord
  | 0 => h.c.getD 0 | 5 => h.x.getD 0 | 6 => h.n.getD 0 | 7 => h.f.getD 0
  | _ => 0

/-- The vector held in a slot. -/
def HeldSet.vec (h : HeldSet) : Nat → Vec
  | 3 => h.v0.getD Vec.zero | 4 => h.v1.getD Vec.zero
  | _ => Vec.zero

/-- Hold a scalar in a slot, or mark the slot empty. -/
def HeldSet.putS (h : HeldSet) (k : Nat) (x : Option DWord) : HeldSet :=
  match k with
  | 0 => { h with c := x } | 5 => { h with x := x } | 6 => { h with n := x } | 7 => { h with f := x }
  | _ => h

/-- Hold a vector in a V slot, or mark it empty. -/
def HeldSet.putV (h : HeldSet) (k : Nat) (x : Option Vec) : HeldSet :=
  match k with
  | 3 => { h with v0 := x } | 4 => { h with v1 := x }
  | _ => h

/-- Mark a slot's held value empty. -/
def HeldSet.clear (h : HeldSet) (k : Nat) : HeldSet := (h.putS k none).putV k none

/-! ### State units, scratchpad words and their marks -/

/-- Bytes of one state unit (R19). -/
def unitBytes : Nat := 4096

/-- The byte address in the state register file of element (ρ, L) of the tile at physical unit u (R213). -/
def unitAddr (fp32 : Bool) (u row lane : Nat) : Nat :=
  u * unitBytes + if fp32 then 512 * row + 4 * lane else 256 * row + 2 * lane

/-- Units of one tile: two for FP32, one for BF16 (R213). -/
def tileUnits (fp32 : Bool) : Nat := if fp32 then 2 else 1

/-- One state element as lane bits (R213). -/
def Core.elem (c : Core) (fp32 : Bool) (u row lane : Nat) : Word :=
  BitVec.ofNat 32 (c.units.le (unitAddr fp32 u row lane) (if fp32 then 4 else 2))

/-- Lane bits as the bytes of a state element (R213). -/
def elemBytes (fp32 : Bool) (x : Word) : List Byte := natBytes (if fp32 then 4 else 2) x.toNat

/-- A vector built from a function of the lane. -/
def Vec.ofLanes (f : Nat → Word) : Vec := Vector.ofFn fun i => f i

/-- A row of a state tile as a full vector (R213). -/
def Core.row (c : Core) (fp32 : Bool) (u row : Nat) : Vec := Vec.ofLanes fun l => c.elem fp32 u row l

/-- The bytes of one row. -/
def rowBytes (fp32 : Bool) (x : Vec) : List Byte := x.toList.flatMap (elemBytes fp32)

/-- The key of a pair tile's identity mark and of its carry-pending mark: the physical unit of its x half, plus 256 for an FP32
pair (R213). Log 16. -/
def pairKey (fp32 : Bool) (u : Nat) : Nat := if fp32 then 256 + u else u

/-- The units of a pair tile (R213). Log 16. -/
def pairUnits (fp32 : Bool) (u : Nat) : List Nat := (List.range (2 * tileUnits fp32)).map fun i => u + i

/-- The units of the pair tile that a key names. -/
def keyUnits (k : Nat) : List Nat := pairUnits (decide (256 ≤ k)) (k % 256)

/-- Two lists share a number. -/
def overlap (a b : List Nat) : Bool := a.any b.contains

/-- Write bytes of state units: IDN of every pair tile with a unit written is cleared, and so are the marks of the words covered
(R213, R285). -/
def Core.putUnits (c : Core) (addr : Nat) (bs : List Byte) : Core :=
  let us := (List.range 256).filter fun u => u * unitBytes < addr + bs.length && addr < (u + 1) * unitBytes
  let ws := (List.range (bs.length / 8 + 1)).map fun i => addr / 8 + i
  { c with units := c.units.write addr bs, idn := c.idn.filter fun k => !overlap (keyUnits k) us,
           upoison := c.upoison.putAll (ws.filter fun w => addr ≤ 8 * w && 8 * w + 8 ≤ addr + bs.length) false }

/-- The 8-byte scratchpad words that n bytes at an offset touch. -/
def wordsOf (off n : Nat) : List Nat :=
  if n = 0 then [] else (List.range ((off + n - 1) / 8 - off / 8 + 1)).map fun i => off / 8 + i

/-- The 1 KiB blocks that n bytes at an offset touch (R203). Log 14. -/
def blocksOf (off n : Nat) : List Nat :=
  if n = 0 then [] else (List.range ((off + n - 1) / 1024 - off / 1024 + 1)).map fun i => off / 1024 + i

/-- The blocks that an open engine command of a core names, by reading or writing (R203, R222). -/
def Core.owned (c : Core) : List Nat :=
  c.xq.flatMap (fun x => x.reads ++ x.writes) ++ c.nq.flatMap (fun x => x.blocks ++ x.bwr)

/-- The blocks that an open engine command of a core writes: no agent observes its writes before they return (R247). -/
def Core.engineWrites (c : Core) : List Nat := c.xq.flatMap XCmd.writes ++ c.nq.flatMap NCmd.bwr

/-- Whether n bytes at an offset touch such a block. -/
def Core.ownedWr (c : Core) (off n : Nat) : Bool := (blocksOf off n).any fun b => c.engineWrites.contains b

/-- A block is engine-owned while an open command names it (R267). -/
def Core.ownedAt (c : Core) (off n : Nat) : Bool := (blocksOf off n).any fun b => c.owned.contains b

/-- Write scratchpad bytes: a word covered whole loses its poison mark, a word covered in part keeps it (R285). -/
def Core.putScratch (c : Core) (off : Nat) (bs : List Byte) : Core :=
  { c with scratch := c.scratch.write off bs,
           spoison := c.spoison.putAll ((wordsOf off bs.length).filter fun w => off ≤ 8 * w && 8 * w + 8 ≤ off + bs.length)
             false }

/-! ### The claims of launches on a core (R27, R141, R297) -/

/-- Whether a launch's claim is on a core. -/
def Core.hasClaim (c : Core) (launch : Nat) : Bool := c.owner = some launch || c.beside.any fun x => x.launch = launch

/-- A core as a launch's local addresses see it: with the launch's claim, where that stands beside the occupant's. -/
def Core.view (c : Core) (launch : Nat) : Core :=
  if c.owner = some launch then c
  else match c.beside.find? fun x => x.launch = launch with
    | some x => { c with scratch := x.bytes, full := x.full, spoison := x.poison, claim := x.size, xq := [], nq := [] }
    | none => c

/-- Change the scratchpad of a launch's claim on a core. -/
def Core.onClaim (c : Core) (launch : Nat) (f : Core → Core) : Core :=
  if c.owner = some launch || !c.beside.any (fun x => x.launch = launch) then f c
  else
    let v := f (c.view launch)
    { c with beside := c.beside.map fun x =>
        if x.launch = launch then { x with bytes := v.scratch, full := v.full, poison := v.spoison } else x }

/-- The occupant's claim, to be kept beside another. Log 38. -/
def Core.aside (c : Core) : List Claim :=
  match c.owner with
  | some o => [{ launch := o, size := c.claim, bytes := c.scratch, full := c.full, poison := c.spoison }]
  | none => []

/-- The bytes of the scratchpad that no claim takes (R267). -/
def Core.room (c : Core) : Nat := 2 ^ 22 - (c.claim + (c.beside.map Claim.size).sum)

/-- A core whose claim of the occupant is gone. -/
def Core.unclaimed (c : Core) : Core := { c with scratch := [], full := [], spoison := [], claim := 0, owner := none }

/-- Put a claim that stands beside in the occupant's place. -/
def Core.occupy (c : Core) (x : Claim) : Core :=
  { c with scratch := x.bytes, full := x.full, spoison := x.poison, claim := x.size, owner := some x.launch }

/-- Turn a core to a launch: the occupant's claim stays beside, and the launch's claim comes from beside where it is there. Log 38. -/
def Core.turn (c : Core) (launch : Nat) : Core :=
  let stay := c.aside ++ c.beside.filter fun x => x.launch ≠ launch
  match c.beside.find? fun x => x.launch = launch with
  | some x => { c.occupy x with beside := stay }
  | none => { c.unclaimed with beside := stay }

/-- Take a launch's claim from a core; a claim that stood beside takes the place of the occupant's. -/
def Core.dropClaim (c : Core) (launch : Nat) : Core :=
  if c.owner = some launch then
    match c.beside with
    | x :: xs => { c.occupy x with beside := xs }
    | [] => c.unclaimed
  else { c with beside := c.beside.filter fun x => x.launch ≠ launch }

/-- The core at a number, as the local addresses of the thread on the focus core see it. -/
def State.padOf (s : State) (n : Nat) : Core := (s.coreAt n).view s.thr.launch

/-! ### Poison marks of registers (R149) -/

/-- A register loses its marks when it is overwritten in the lanes given. -/
def Thread.unmark (t : Thread) (r : RegId) (en : BitVec 128) : Thread :=
  if t.marks = [] then t
  else { t with marks := t.marks.filter fun m => !(m.reg = r && (en.getLsbD m.lane || m.lane ≥ 128)) }

/-- The first mark among some registers. -/
def Thread.markOf (t : Thread) (rs : List RegId) : Option PMark :=
  rs.findSome? fun r => t.marks.find? fun m => m.reg = r

/-! ### Streams (R165 to R167) -/

/-- Bytes of one element of a stream. -/
def Stream.size (q : Stream) : Nat := if q.vector then 512 else 8

/-- Elements that a stream's ring holds. -/
def Stream.cap (q : Stream) : Nat := 128 * q.lines / q.size

/-- The scratchpad offset of the element i places after the ring position. -/
def Stream.slot (q : Stream) (i : Nat) : Nat := q.base + (q.pos + i * q.size) % (128 * q.lines)

/-- The words of the element i places after the ring position. -/
def Stream.words (q : Stream) (i : Nat) : List Nat := wordsOf (q.slot i) q.size

/-- Move a stream's ring position by one element. -/
def Stream.step (q : Stream) : Stream := { q with pos := (q.pos + q.size) % (128 * q.lines) }

/-- A stream element is about to land on bytes that open engine commands read: each keeps them as they stood at its commit (R203). -/
def Core.keepOld (c : Core) (off n : Nat) : Core :=
  let old : OldBytes := ⟨off, c.scratch.read off n, (wordsOf off n).filter fun w => c.spoison.has w⟩
  { c with xq := c.xq.map fun x => if overlap (blocksOf off n) x.reads then { x with was := x.was ++ [old] } else x
           nq := c.nq.map fun x => if overlap (blocksOf off n) x.blocks then { x with was := x.was ++ [old] } else x }

/-- A core's scratchpad as an engine command reads it: as it stood at the command's commit, with the writes of earlier engine commands
(R203, R247). -/
def Core.asOf (c : Core) (was : List OldBytes) : Core :=
  was.foldr (fun o c =>
    { c with scratch := c.scratch.write o.off o.bytes
             spoison := (c.spoison.putAll (wordsOf o.off o.bytes.length) false).putAll o.bad true }) c

/-- Write an element into an output stream's ring and set its words full (R167). An element whose stream has been unbound meanwhile is lost.
Log 119. -/
def Core.append (c : Core) (q : Nat) (bs : List Byte) : Core :=
  let b := vget {} c.thr.q q
  if !b.bound then c
  else
  let c := (c.keepOld (b.slot 0) bs.length).putScratch (b.slot 0) bs
  { c with full := c.full.putAll (b.words 0) true,
           thr := { c.thr with q := vset c.thr.q q { b.step with flying := b.flying - 1 } } }

/-! ### Landing results (R73, R12, R23) -/

/-- The bytes of a full vector (R11). -/
def Vec.bytes (x : Vec) : List Byte := x.toList.flatMap fun w => natBytes 4 w.toNat

/-- A full vector from 512 bytes (R11). -/
def Vec.ofBytes (f : Nat → Byte) : Vec :=
  Vec.ofLanes fun l => f (4 * l + 3) ++ f (4 * l + 2) ++ f (4 * l + 1) ++ f (4 * l)

/-- The rotation of the stage predicates: p23 to p17 take p22 to p16, and p16 the new value (R113). -/
def rotateStages (p : BitVec 24) (b : Bool) : BitVec 24 :=
  BitVec.ofNat 24 (p.toNat % 2 ^ 16 + (if b then 2 ^ 16 else 0) + p.toNat / 2 ^ 16 % 2 ^ 7 * 2 ^ 17)

/-- One register word takes its result. -/
def Core.write (c : Core) : Write → Core
  | .scalar n x => { c with thr := (c.thr.setS n x).unmark (.s n) (BitVec.allOnes 128) }
  | .pred n b => { c with thr := c.thr.setP n b }
  | .mask n x en => { c with thr := c.thr.setK n x en }
  | .vec n x en => { c with thr := (c.thr.setV n x en).unmark (.v n) en }
  | .scale n x =>
    { c with thr := ({ c.thr with e := vset c.thr.e n x } : Thread).unmark (.e n) (BitVec.allOnes 128) }
  | .pattern bank n x =>
    { c with thr := { c.thr with pat := vset c.thr.pat bank.toNat (vset (vget (Vector.replicate 64 0) c.thr.pat bank.toNat) n x) } }
  | .units _ _ addr bs => c.putUnits addr bs
  | .streamS q x => c.append q (natBytes 8 x.toNat)
  | .streamV q x => c.append q x.bytes
  | .rotate b => { c with thr := { c.thr with p := rotateStages c.thr.p b } }

/-- A result lands: its register words, its latch, its flags and its poison marks (R12, R23, R73, R149). -/
def Core.land (c : Core) (l : Landing) : Core :=
  let c := l.writes.foldl Core.write c
  let t := match l.latch with
    | some (k, v) => (c.thr.setLatch k v).unmark (.latch k) (BitVec.allOnes 128)
    | none => c.thr
  { c with thr := { t with ctl := { t.ctl with fpst := t.ctl.fpst ||| l.flags }, landed := t.landed ||| l.flags,
                           marks := t.marks ++ l.marks } }

/-- The results due by the present cycle, in issue order by landing cycle (R73). -/
def dueNow (now : Nat) (fl : List Landing) : List Landing :=
  sortBy Landing.due (fl.filter fun l => l.due ≤ now)

/-- Every result due by the present cycle lands, those of the replay buffer or the others: earlier cycles first, and within a
cycle the later bundle's result last (R73, R303). `landed` collects the flags that land in this very cycle, which an MTC of
FPST in this cycle keeps (R23). -/
def Core.landDue (c : Core) (now : Nat) (replay : Bool) : Core :=
  let mine := c.thr.flight.filter fun l => l.replay = replay && l.due ≤ now
  let keep := c.thr.landed
  let c := { c with thr := { c.thr with flight := c.thr.flight.filter fun l => l.replay ≠ replay || now < l.due } }
  let c := (dueNow now (mine.filter fun l => l.due < now)).foldl Core.land c
  let c := { c with thr := { c.thr with landed := keep } }
  (mine.filter fun l => l.due = now).foldl Core.land c

/-- Whether a result of the replay buffer, or another, is due. -/
def Thread.due (t : Thread) (now : Nat) (replay : Bool) : Bool := t.flight.any fun l => l.replay = replay && l.due ≤ now

/-! ### Launch error record (R264, R353) and threads by reference -/

/-- Apply a change to a thread wherever it is: on the core it occupies, or in its continuation. -/
def State.onThread (s : State) (r : ThreadRef) (f : Thread → Thread) : State :=
  match s.busyCores.find? fun n =>
      let c := s.coreAt n
      c.live && c.thr.launch = r.launch && c.thr.ctl.tid.toNat = r.tid with
  | some n => s.modCore n fun c => { c with thr := f c.thr }
  | none => s.modLaunch r.launch fun l =>
      { l with conts := l.conts.map fun x =>
          if x.2.thr.ctl.tid.toNat = r.tid then (x.1, { x.2 with thr := f x.2.thr }) else x }

end Sys2Proof.Machine
end

