-- ==== Sys2Proof/Machine/Memory.lean ====
section
/-! DEFINITION. Memory: physical bytes with their key tags and poison (R272 to R275, R285), page walks and the checks of a
leaf (R278 to R281), the micro-TLB (R283), the firmware windows (R375), agents' accesses, release records and acquires (R238,
R239), the race table (R244, R245), the provisional store buffer (R319) and local addresses (R84, R141). -/

namespace Sys2Proof.Machine

/-! ### Physical memory -/

/-- The generation of a key id (R274). -/
def State.gen (s : State) (key : Nat) : Nat := (tget {} s.trust.keys key).gen

/-- The tag of a line: key id and generation under which it was last written (R274). -/
def State.tagOf (s : State) (line : Nat) : Nat × Nat := tget (0, 0) s.tags line

/-- A byte of physical memory read under a key id: zero where the line's tag differs (R275). Log 6. -/
def State.readByte (s : State) (key pa : Nat) : Byte :=
  if s.tagOf (pa / 128) = (key, s.gen key) then s.mem.byte pa else 0

/-- The bytes of physical memory from an address on, read under a key id. -/
def State.readPA (s : State) (key pa n : Nat) : List Byte := (List.range n).map fun i => s.readByte key (pa + i)

/-- The lines, 8-byte words or granules that n bytes touch. -/
def unitsOf (size a n : Nat) : List Nat :=
  if n = 0 then [] else (List.range ((a + n - 1) / size - a / size + 1)).map fun i => a / size + i

/-- A line takes the current tag of a key id; its other bytes become zero where the tag changes (R275). -/
def State.retag (s : State) (key line : Nat) : State :=
  if s.tagOf line = (key, s.gen key) then s
  else { s with mem := s.mem.write (128 * line) (List.replicate 128 0), tags := tset (0, 0) s.tags line (key, s.gen key) }

/-- Write physical bytes under a key id (R275). A line written whole loses its poison mark (R285). -/
def State.writePA (s : State) (key pa : Nat) (bs : List Byte) : State :=
  let ls := unitsOf 128 pa bs.length
  let s := ls.foldl (fun s l => s.retag key l) s
  { s with mem := s.mem.write pa bs,
           poison := s.poison.putAll (ls.filter fun l => pa ≤ 128 * l && 128 * l + 128 ≤ pa + bs.length) false }

/-- Whether any line of some physical bytes is poisoned (R285). -/
def State.poisonedPA (s : State) (pa n : Nat) : Bool := (unitsOf 128 pa n).any fun l => s.poison.has l

/-- A plain write ends the release sequences of the words it touches (R238). -/
def State.endSeq (s : State) (loc n : Nat) : State := { s with seqWords := s.seqWords.putAll (unitsOf 8 loc n) false }

/-- 2^30. -/
def gib : Nat := 2 ^ 30
/-- The base of the die-local DRAM regions (R272). -/
def localBase : Nat := 2 ^ 50
/-- The base of the device registers and windows (R272). -/
def deviceBase : Nat := 2 ^ 51

/-- Whether DRAM backs a physical address (R272). -/
def State.backed (s : State) (pa : Nat) : Bool :=
  pa < 16 * s.host.wg.toNat * gib ||
    (localBase ≤ pa && pa < localBase + 8 * 2 ^ 40 && (pa - localBase) % 2 ^ 40 < 2 * (96 - s.host.wg.toNat) * gib)

/-- The number of die A, which has no compute cores, among the dies (R1, R356). -/
def dieA : Nat := 8

/-- The compute die that a backed byte is homed on (R272). -/
def homeDie (pa : Nat) : Nat := if pa < localBase then pa / 4096 % 16 / 2 else (pa - localBase) / 2 ^ 40

/-- The location number of a byte of a launch's claim on a core, or of firmware data memory, disjoint from physical addresses (R235). -/
def scratchLoc (launch core off : Nat) : Nat := 2 ^ 52 + (launch * 260 + core) * 2 ^ 22 + off

/-- The location number of a byte that a local address of the thread on the focus core names. -/
def State.padLoc (s : State) (core off : Nat) : Nat := scratchLoc s.thr.launch core off

/-! ### Page walks -/

/-- The context of a number (R278). -/
def State.context (s : State) (c : Nat) : Context := tget {} s.contexts c

/-- Canonical global addresses (R140). -/
def canonical (va : DWord) : Bool := va.toNat / 2 ^ 57 = 0 || va.toNat / 2 ^ 57 = 127

/-- What a walk or a leaf check finds: a leaf with its page-size bits, or an exception's cause and detail. -/
inductive Walked where
  | leaf (shift : Nat) (entry : Nat)
  | fault (cause detail : BitVec 8)
  deriving DecidableEq, Repr

/-- Where an access goes: physical memory under a key id, with the page's RCK bit and pool tag, or another package. -/
inductive Target where
  | phys (pa key : Nat) (rck : Bool) (pool : Nat)
  | away (rank : Nat)
  deriving DecidableEq, Repr

/-- XLATE and PROTECT (R254). -/
def causeXlate : BitVec 8 := 0x05
@[inherit_doc causeXlate] def causeProtect : BitVec 8 := 0x06

/-- A rank that a revocation has removed from the job of a context (R394). -/
def State.revoked (s : State) (ctx rank : Nat) : Bool :=
  s.trust.jobs.any fun x => match x.2 with | some j => j.ctxs.contains ctx && j.gone.contains rank | none => false

/-- A byte of memory is homed on a fenced die: every access to it raises XLATE with DETAIL 4 (R402). -/
def State.lostHome (s : State) (pa : Nat) : Bool := pa < deviceBase && (s.die (homeDie pa)).fenced

/-- The leaf conditions that do not depend on the kind of access (R280, R281): `count` is the number of packages of the job. -/
def State.leafErr (s : State) (ctx count shift e va : Nat) : Option (BitVec 8) :=
  let pa := bits e 14 38 * 2 ^ 14
  if e % 4 = 3 then
    if bits e 62 2 ≠ 0 ∨ bits e 10 4 ≠ 0 ∨ bits e 7 1 ≠ 0 ∨ bits e 56 6 ≠ 0 ∨ bits e 8 2 ≠ 0 ∨ bits e 52 4 ≠ 0 ∨
        bits e 6 1 ≠ 0 ∨ bits e 32 20 ≠ 0 ∨ bits e 14 2 ≠ 0 then some 3
    else if !(s.context ctx).job ∨ count ≤ bits e 16 16 ∨ s.revoked ctx (bits e 16 16) then some 6 else none
  else if bits e 62 2 ≠ 0 ∨ bits e 10 4 ≠ 0 ∨ bits e 7 1 ≠ 0 ∨ pa % 2 ^ shift ≠ 0 then some 3
  else if deviceBase ≤ pa then some 4
  else if 2 ≤ bits e 8 2 ∨ (bits e 8 2 = 1) ≠ (localBase ≤ pa) then some 3
  else
    let p := pa + va % 2 ^ shift
    if !s.backed p ∨ s.lostHome p then some 4 else none

/-- The walk of R281 from a level on, with the table's physical address. -/
def State.walkFrom (s : State) (ctx count : Nat) (va : DWord) (t : Nat) : Nat → Walked
  | 0 => .fault causeXlate 3
  | k + 1 =>
    let lvl := 3 - k
    let shift := 14 + 11 * k
    let at_ := t + 8 * bits va.toNat shift 11
    let e := bytesNat (s.readPA 0 at_ 8)
    if s.lostHome at_ then .fault causeXlate 4
    else if s.poisonedPA at_ 8 then .fault causeXlate 5
    else if e % 4 = 0 then .fault causeXlate 2
    else if e % 4 = 1 then
      if lvl = 3 ∨ bits e 52 12 ≠ 0 ∨ bits e 2 12 ≠ 0 then .fault causeXlate 3
      else s.walkFrom ctx count va (bits e 14 38 * 2 ^ 14) k
    else if lvl = 0 then .fault causeXlate 3
    else match s.leafErr ctx count shift e va.toNat with
      | some d => .fault causeXlate d
      | none => .leaf shift e

/-- The tables that the walk of R281 goes through from a level on: what a walker may cache (R283). -/
def State.tablesFrom (s : State) (ctx : Nat) (va : DWord) (t : Nat) : Nat → List TableEntry
  | 0 => []
  | k + 1 =>
    let shift := 14 + 11 * k
    let e := bytesNat (s.readPA 0 (t + 8 * bits va.toNat shift 11) 8)
    if e % 4 = 1 then
      ⟨ctx, 3 - k, va.toNat / 2 ^ shift, bits e 14 38 * 2 ^ 14⟩ :: s.tablesFrom ctx va (bits e 14 38 * 2 ^ 14) k
    else []

/-- Whether a walker's cached entry lies on the path of an address (R283). -/
def TableEntry.on (e : TableEntry) (ctx : Nat) (va : DWord) : Bool :=
  e.ctx = ctx && e.page = va.toNat / 2 ^ (14 + 11 * (3 - e.lvl))

/-- Where a walk of a die's walkers starts: the deepest table that the walker cache holds, and the levels from there (R283). Log 28. -/
def State.walkStart (s : State) (die ctx : Nat) (va : DWord) : Nat × Nat :=
  let hit (l : Nat) : Option TableEntry := (s.die die).tables.find? fun e => e.lvl = l && e.on ctx va
  match (hit 2).or ((hit 1).or (hit 0)) with
  | some e => (e.next, 3 - e.lvl)
  | none => ((s.context ctx).root.toNat * 2 ^ 14, 4)

/-- A walk of a die's walkers (R281, R283). Log 28. -/
def State.walkCached (s : State) (die ctx count : Nat) (va : DWord) : Walked :=
  if !canonical va then .fault causeXlate 1
  else if !(s.context ctx).v then .fault causeXlate 7
  else s.walkFrom ctx count va (s.walkStart die ctx va).1 (s.walkStart die ctx va).2

/-- A page walk (R281). -/
def State.walk (s : State) (ctx count : Nat) (va : DWord) : Walked :=
  if !canonical va then .fault causeXlate 1
  else if !(s.context ctx).v then .fault causeXlate 7
  else s.walkFrom ctx count va ((s.context ctx).root.toNat * 2 ^ 14) 4

/-- The permission checks of a leaf in ascending DETAIL, the key check after them (R275, R281). -/
def State.protect (s : State) (ctx e : Nat) (n : Need) : Option (BitVec 8) :=
  let key := bits e 56 6
  if n.rd && bits e 2 1 = 0 then some 1
  else if n.wr && bits e 3 1 = 0 then some 2
  else if n.x && bits e 4 1 = 0 then some 3
  else if n.user && bits e 5 1 = 1 then some 4
  else if e % 4 = 2 && (!(tget {} s.trust.keys key).installed || !(s.context ctx).keymask.getLsbD key) then some 5
  else none

/-- The target of an access through a leaf, or its exception. -/
def State.through (s : State) (ctx count shift e : Nat) (va : DWord) (n : Need) : Target ⊕ BitVec 8 × BitVec 8 :=
  match s.leafErr ctx count shift e va.toNat with
  | some d => .inr (causeXlate, d)
  | none => match s.protect ctx e n with
    | some d => .inr (causeProtect, d)
    | none =>
      if e % 4 = 3 then .inl (.away (bits e 16 16))
      else .inl (.phys (bits e 14 38 * 2 ^ 14 + va.toNat % 2 ^ shift) (bits e 56 6) (bits e 6 1 = 1) (bits e 52 4))

/-- An access of an agent that walks for itself (R281): no TLB holds anything for it. -/
def State.xlate (s : State) (ctx count : Nat) (va : DWord) (n : Need) : Target ⊕ BitVec 8 × BitVec 8 :=
  match s.walk ctx count va with
  | .fault c d => .inr (c, d)
  | .leaf sh e => s.through ctx count sh e va n

/-- The number of packages of the job that a context is bound to; 1 where it is bound to none (R30, R381). -/
def State.jobCount (s : State) (ctx : Nat) : Nat :=
  (s.trust.jobs.findSome? fun x => x.2.bind fun j => if j.ctxs.contains ctx then some j.count else none).getD 1

/-- The rank of this package in the job of a context; 0 where the context is bound to none (R30, R381). -/
def State.rankIn (s : State) (ctx : Nat) : Nat :=
  (s.trust.jobs.findSome? fun x => x.2.bind fun j => if j.ctxs.contains ctx then some j.rank else none).getD 0

/-- Split n bytes at an address at the boundaries of `size`-byte blocks: offset in the access, address and length of each
piece. On fuel. -/
def piecesGo (size : Nat) : Nat → Nat → Nat → Nat → List (Nat × Nat × Nat)
  | 0, _, _, _ => []
  | f + 1, o, a, n =>
    let k := min n (size - a % size)
    if n = 0 then [] else (o, a, k) :: piecesGo size f (o + k) ((a + k) % 2 ^ 64) (n - k)

/-- The pieces of an access, one for each 16 KiB page it touches. -/
def pagePieces (va : DWord) (n : Nat) : List (Nat × DWord × Nat) :=
  (piecesGo 16384 (n / 16384 + 2) 0 va.toNat n).map fun x => (x.1, BitVec.ofNat 64 x.2.1, x.2.2)

/-- Whether a window of the firmware cores grants an access of n bytes (R374, R375). -/
def State.windowOk (s : State) (rd wr : Bool) (pa n : Nat) : Bool :=
  s.trust.windows.any fun w =>
    w.v && (!rd || w.rd) && (!wr || w.w) && w.base.toNat * 4096 ≤ pa && pa + n ≤ (w.last.toNat + 1) * 4096

/-- A firmware access inside a window that grants it and touching no line of a job key id (R375). -/
def State.firmwareOk (s : State) (rd wr : Bool) (pa n : Nat) : Bool :=
  s.windowOk rd wr pa n && (unitsOf 128 pa n).all fun l => (s.tagOf l).1 = 0

/-- Why a firmware access is a violation (R378): 1 where no window grants it, 2 for a line of a job key id. -/
def State.strayReason (s : State) (rd wr : Bool) (pa n : Nat) : Nat := if s.windowOk rd wr pa n then 2 else 1

/-- The target of n bytes of an agent's access: through the tables of its context (R281); or, for a collective of firmware core `ctx`,
by physical address under key id 0 inside a window that grants it (R375). Log 109. -/
def State.agentTo (s : State) (ctx : Nat) (va : DWord) (n : Nat) (need : Need) : Target ⊕ BitVec 8 × BitVec 8 :=
  if ctx < 256 then s.xlate ctx (s.jobCount ctx) va need
  else if va.toNat + n ≤ deviceBase && s.firmwareOk need.rd need.wr va.toNat n then
    if s.lostHome va.toNat then .inr (causeXlate, 4) else .inl (.phys va.toNat 0 false 0)
  else .inr (causeProtect, 1)

/-- Whether a line of the data that another package returns from some addresses carries a poison mark (R285): a free value. Log 91. -/
def State.awayBad (s : State) (a n : Nat) : Bool := (unitsOf 128 a n).any (Config.freeMark s.freeCtr)

/-- An agent's read: the bytes, whether a poisoned line was read, or the first fault with its address. A read of another
package gives free bytes (R282). -/
def State.agentRead (s : State) (ctx : Nat) (user : Bool) (va : DWord) (n : Nat) (x : Bool := false) :
    (List Byte × Bool) ⊕ BitVec 8 × BitVec 8 × DWord :=
  (pagePieces va n).foldl (fun acc p =>
    match acc with
    | .inr f => .inr f
    | .inl (bs, bad) =>
      match s.agentTo ctx p.2.1 p.2.2 { rd := !x, x := x, user := user } with
      | .inr (c, d) => .inr (c, d, p.2.1)
      | .inl (.phys pa key _ _) => .inl (bs ++ s.readPA key pa p.2.2, bad || s.poisonedPA pa p.2.2)
      | .inl (.away _) =>
        .inl (bs ++ (List.range p.2.2).map fun i => Config.freeByte s.freeCtr (p.2.1.toNat + i), bad || s.awayBad p.2.1.toNat p.2.2))
    (.inl ([], false))

/-! ### Die links (R366, R367) -/

/-- The die links: of each, the two dies that it joins (R366): the ten between neighbours of the 2 × 4 mesh, and the four of die A. -/
def dieLinks : List (Nat × Nat) :=
  [(0, 1), (1, 2), (2, 3), (4, 5), (5, 6), (6, 7), (0, 4), (1, 5), (2, 6), (3, 7), (dieA, 1), (dieA, 2), (dieA, 5), (dieA, 6)]

/-- The directions of the die links, from one die to another. -/
def dieHops : List (Nat × Nat) := dieLinks ++ dieLinks.map Prod.swap

/-- The hops along a row, from a column to another; on fuel. -/
def rowHops (row : Nat) : Nat → Nat → Nat → List (Nat × Nat)
  | 0, _, _ => []
  | n + 1, a, b =>
    if a = b then []
    else
      let c := if a < b then a + 1 else a - 1
      (4 * row + a, 4 * row + c) :: rowHops row n c b

/-- The hops from a compute die to another: along the row first, and then across (R366). -/
def meshHops (a b : Nat) : List (Nat × Nat) :=
  let row := a / 4
  rowHops row 4 (a % 4) (b % 4) ++ if row = b / 4 then [] else [(4 * row + b % 4, b)]

/-- The compute die that joins die A to a compute die's part of the mesh. Log 128. -/
def gateway (d : Nat) : Nat := 4 * (d / 4) + if d % 4 ≤ 1 then 1 else 2

/-- The hops of bulk traffic from a die to another (R366): never through die A. Log 128. -/
def dieRoute (a b : Nat) : List (Nat × Nat) :=
  if a = b then []
  else if a = dieA then (dieA, gateway b) :: meshHops (gateway b) b
  else if b = dieA then meshHops a (gateway a) ++ [(gateway a, dieA)]
  else meshHops a b

/-- A STOP mark holds some sender on the way from a die to another (R367). -/
def State.pathHeld (s : State) (a b : Nat) : Bool :=
  s.links ≠ [] && (dieRoute a b).any fun h => s.links.has (dieHops.idxOf h)

/-- The egress port of a rank is held by a STOP mark (R367, R369). -/
def State.routeStopped (s : State) (rank : Nat) : Bool := (tget {} s.ports (tget {} s.routes rank).port.toNat).stopped

/-- A STOP mark holds bulk data on the way between an agent's die and the home of n bytes at a physical address (R367). -/
def State.dataHeld (s : State) (pa n die : Nat) (wr : Bool) : Bool :=
  s.links ≠ [] && (unitsOf 128 pa n).any fun k => if wr then s.pathHeld die (homeDie (128 * k)) else s.pathHeld (homeDie (128 * k)) die

/-- The same of n bytes at an address of a context, where they may lie in another package. -/
def State.busHeld (s : State) (ctx : Nat) (va : DWord) (n die : Nat) (wr : Bool) : Bool :=
  (pagePieces va n).any fun p => match s.agentTo ctx p.2.1 p.2.2 { user := false } with
    | .inl (.phys pa _ _ _) => s.dataHeld pa p.2.2 die wr
    | .inl (.away r) => s.routeStopped r
    | .inr _ => false

/-- The lines of a pool's pages that an access reaches are pinned in the L2 of their home dies; a line that finds its area full sets
POOLOVF (R271). Log 97. -/
def State.pin (s : State) (pa n : Nat) : State :=
  (unitsOf 128 pa n).foldl (fun s l => s.modDie (homeDie (128 * l)) fun d =>
    if d.pinned.has l then d
    else if d.pinned.length < d.pool * 2 ^ 13 then { d with pinned := d.pinned.put l true } else { d with poolOvf := true }) s

/-- The pool lines that an access reaches (R271). -/
def pinEffs (l : List (Nat × Nat × Target)) : List Eff :=
  l.filterMap fun x => match x.2.2 with | .phys pa _ _ pool => if pool = 0 then none else some (.pin pa x.2.1) | _ => none

/-- What an agent's read does beside giving its bytes: the pool lines that it reaches are pinned (R271), and what lies in another package is
asked for (R282). -/
def State.agentReach (s : State) (ctx : Nat) (va : DWord) (n : Nat) : State :=
  (pagePieces va n).foldl (fun t p =>
    match s.agentTo ctx p.2.1 p.2.2 { user := false } with
    | .inl (.phys pa _ _ pool) => if pool = 0 then t else t.pin pa p.2.2
    | .inl (.away r) => t.send (.remote r false p.2.1 [])
    | .inr _ => t) s

/-- What a launch's agents send to other packages is work of its queue (R349). -/
def State.byLaunch (s : State) (launch : Nat) : AwayBy := { queue := (s.launch? launch).map Launch.queue }

/-- What a packet's work, or else a launch's, sends to other packages is work of its queue (R349). -/
def State.byPacket (s : State) (packet : Option Nat) (launch : Nat) : AwayBy :=
  match packet with
  | some p => { queue := (tget none s.packets p).map Packet.queue }
  | none => s.byLaunch launch

/-- An agent's write; none where a page refuses it. A write to another package leaves as a message, and is to be acknowledged (R282,
R284). -/
def State.agentWrite (s : State) (ctx : Nat) (user : Bool) (va : DWord) (bs : List Byte) (whose : AwayBy := {}) : Option State :=
  (pagePieces va bs.length).foldl (fun acc p =>
    match acc with
    | none => none
    | some t =>
      match s.agentTo ctx p.2.1 p.2.2 { wr := true, user := user } with
      | .inr _ => none
      | .inl (.phys pa key _ pool) =>
        let t := if pool = 0 then t else t.pin pa p.2.2
        some ((t.writePA key pa ((bs.drop p.1).take p.2.2)).endSeq pa p.2.2)
      | .inl (.away r) =>
        some (({ t with away := t.away ++ [⟨ctx, p.2.1, r, whose⟩] } : State).send (.remote r true p.2.1 ((bs.drop p.1).take p.2.2))))
    (some s)

/-! ### Translation of a thread's accesses -/

/-- The context that the thread on the focus core translates in; 0 on a firmware core, which has none (R84). Log 113. -/
def State.ctxOf (s : State) : Nat := match s.myLaunch with | some l => l.ctx | none => 0

/-- Whether the thread on the focus core runs at user level (R24). -/
abbrev State.user (s : State) : Bool := !s.fw && !s.thr.ctl.hnd

/-- The entry that translates an address: the micro-TLB's, or one that a walk of the present bundle has found (R283). -/
def Core.tlbFind (c : Core) (ctx : Nat) (va : DWord) : Option TlbEntry :=
  (c.utlb ++ c.found).find? fun e => e.ctx = ctx && e.page = va.toNat / 2 ^ e.shift

/-- What translating one access of a thread gives: pieces with their targets; a hold for a walk; an exception; or a violation
of the access windows with its reason (R375, R378). -/
inductive Look where
  | ok (l : List (Nat × Nat × Target))
  | miss (va : DWord)
  | fault (cause detail : BitVec 8) (va : DWord)
  | violation (va : DWord) (reason : Nat)
  deriving DecidableEq, Repr

/-- Translate one access of the thread on the focus core (R140, R281, R283, R375). -/
def State.look (s : State) (va : DWord) (n : Nat) (need : Need) : Look :=
  if s.fw then
    if !s.firmwareOk need.rd need.wr va.toNat n then .violation va (s.strayReason need.rd need.wr va.toNat n)
    else if s.lostHome va.toNat then .fault causeXlate 4 va
    else .ok [(0, n, .phys va.toNat 0 false 0)]
  else
    let ctx := s.ctxOf
    let count := s.thr.ctl.count.toNat
    let need := { need with user := s.user }
    (pagePieces va n).foldl (fun acc p =>
      match acc with
      | .ok l =>
        if !canonical p.2.1 then .fault causeXlate 1 p.2.1
        else match s.core.tlbFind ctx p.2.1 with
          | some e => match s.through ctx count e.shift e.entry.toNat p.2.1 need with
            | .inl t => .ok (l ++ [(p.1, p.2.2, t)])
            | .inr (c, d) => .fault c d p.2.1
          | none =>
            match s.core.wfaults.find? fun f => f.ctx = ctx && f.va.toNat / 16384 = p.2.1.toNat / 16384 with
            | some f => .fault f.cause f.detail p.2.1
            | none => .miss p.2.1
      | x => x)
      (.ok [])

/-- Bytes with a newer value for some of them laid over (R319). -/
def overlay (base : Nat) (bs : List Byte) : List ProvItem → List Byte
  | [] => bs
  | .bytes pa _ new :: t =>
    overlay base (bs.mapIdx fun i b => if pa ≤ base + i && base + i < pa + new.length then new.getD (base + i - pa) b else b) t
  | _ :: t => overlay base bs t

/-- The same for bytes of another package, by their address there (R282, R319). -/
def overlayAway (rank base : Nat) (bs : List Byte) : List ProvItem → List Byte
  | [] => bs
  | .away r va new :: t =>
    overlayAway rank base (bs.mapIdx fun i b =>
      if r = rank && va.toNat ≤ base + i && base + i < va.toNat + new.length then new.getD (base + i - va.toNat) b else b) t
  | _ :: t => overlayAway rank base bs t

/-- The entries of the provisional store buffer that a step holds, oldest first (R319). -/
def State.psbOf (s : State) (launch step : Nat) : List PsbEntry :=
  s.psb.filter fun e => e.launch = launch && e.step = step

/-- What the step of the thread on the focus core has buffered, oldest first (R319). -/
def State.buffered (s : State) : List ProvItem :=
  if s.thr.ctl.prov then (s.psbOf s.thr.launch s.thr.step).flatMap PsbEntry.items else []

/-- The bytes that the thread's global load at an address reads at its target pieces, with whether a poisoned line was read: a
provisional step sees its own buffered bytes (R319). Bytes of another package are free, one for each address (R282), and so are their marks
(R285). -/
def State.loadAt (s : State) (va : DWord) (l : List (Nat × Nat × Target)) : List Byte × Bool :=
  l.foldl (fun acc x =>
    match x.2.2 with
    | .phys pa key _ _ => (acc.1 ++ overlay pa (s.readPA key pa x.2.1) s.buffered, acc.2 || s.poisonedPA pa x.2.1)
    | .away r =>
      let a := va.toNat + x.1
      (acc.1 ++ overlayAway r a ((List.range x.2.1).map fun i => Config.freeByte s.freeCtr (a + i)) s.buffered,
        acc.2 || s.awayBad a x.2.1))
    ([], false)

/-- Whether one of n bytes from offset o of an access at an address lies in a poisoned line (R149, R285). -/
def State.badAt (s : State) (va : DWord) (l : List (Nat × Nat × Target)) (o n : Nat) : Bool :=
  l.any fun x =>
    let lo := max o x.1
    let hi := min (o + n) (x.1 + x.2.1)
    lo < hi && match x.2.2 with
      | .phys pa _ _ _ => s.poisonedPA (pa + lo - x.1) (hi - lo)
      | .away _ => s.awayBad (va.toNat + lo) (hi - lo)

/-! ### Release records (R238, R239) -/

/-- The thread on the focus core, as records name it. -/
def State.me (s : State) : ThreadRef := ⟨s.thr.launch, s.thr.ctl.tid.toNat⟩

/-- Whether the agent of b lies in the scope instance of a around its agent (R236, R238). -/
def Release.covers (a b : Release) : Bool :=
  a.scope.toNat ≥ 4 || (a.rank = b.rank && match a.scope.toNat with
    | 0 => a.core = b.core && (isFw a.core || (a.who = b.who && a.who.isSome))
    | 1 => a.core = b.core
    | 2 => if isFw a.core || isFw b.core then isFw a.core && isFw b.core else dieOf a.core = dieOf b.core
    | _ => true)

/-- The thread on the focus core as an agent that releases or acquires at a scope. -/
def State.here (s : State) (scope : BitVec 3) : Release := ⟨s.cur, scope, some s.me, none⟩

/-- The DIE scope (R143). -/
def scopeDie : BitVec 3 := 2

/-- A release at a location: it replaces the record of its granule and heads a sequence on its words (R238, R239). -/
def State.release (s : State) (loc n : Nat) (r : Release) : State :=
  { s with releases := (unitsOf 64 loc n).foldl (fun t g => tset none t g (some r)) s.releases,
           seqWords := s.seqWords.putAll (unitsOf 8 loc n) true }

/-- The number that stands for the full/empty bit of a word among the words of `seqWords`: the value that a tagged operation waits for is
that bit (R238). -/
def tagWordOf (loc : Nat) : Nat := 2 ^ 200 + loc / 8

/-- The full/empty bits of words of a launch's claim have changed, by a release or not (R238, R248). -/
def State.tagSet (s : State) (launch core : Nat) (ws : List Nat) (rel : Bool) : State :=
  { s with seqWords := s.seqWords.putAll (ws.map fun w => tagWordOf (scratchLoc launch core (8 * w))) rel }

/-- The granule's record does not meet the second condition of R238 for an acquire of a location (R239). -/
def State.recordMiss (s : State) (loc : Nat) (a : Release) : Bool :=
  match tget none s.releases (loc / 64) with
  | none => false
  | some r => !(r.covers a && a.covers r)

/-- Whether an agent's acquire of a location drops its effect for a scope mismatch (R239): the word's value is a member of a release
sequence, and the granule's record does not meet the second condition of R238. -/
def State.scopeDrop (s : State) (loc : Nat) (a : Release) : Bool := s.seqWords.has (loc / 8) && s.recordMiss loc a

/-- The same for a tagged operation that waited for a word's bit, and for a stream read (R238, R248). -/
def State.tagDrop (s : State) (loc : Nat) (scope : BitVec 3) : Bool := s.seqWords.has (tagWordOf loc) && s.recordMiss loc (s.here scope)

/-! ### Race checks (R244, R245) -/

/-- Who makes an access that the race table checks (R30, R244, R245): the thread with its core-domain instance, the core on which it was
first placed, which DMBC names; its membership and its phase counts; and its package, where that is another one. -/
structure Accessor where
  launch : Nat
  tid    : Nat
  inst   : Nat
  dmbd   : BitVec 32
  dmbp   : BitVec 8
  phc    : Word
  phd    : Word
  php    : Word
  phj    : Word
  rank   : Option Nat := none
  deriving DecidableEq, Repr

/-- The thread on the focus core as an accessor. -/
def State.accessor (s : State) : Accessor :=
  let c := s.thr.ctl
  ⟨s.thr.launch, c.tid.toNat, s.thr.home, c.dmbd, c.dmbp, c.phc, c.phd, c.php, c.phj, none⟩

/-- The phase counts of the innermost common domain of the accessor and a recorded thread (R30, R245): the entry's `core` is
the recorded thread's core-domain instance. -/
def Accessor.commonCount (a : Accessor) (e : RaceEntry) : Word × Word :=
  if e.core = a.inst then (e.phc, a.phc)
  else if dieOf e.core = dieOf a.inst && a.dmbd.getLsbD (e.core % 32) then (e.phd, a.phd)
  else if a.dmbp.getLsbD (dieOf e.core) then (e.php, a.php)
  else (e.phj, a.phj)

/-- Whether an entry is stale for the accessor (R245). -/
def Accessor.stale (a : Accessor) (e : RaceEntry) : Bool :=
  e.rank ≠ a.rank || e.launch ≠ a.launch || (a.commonCount e).1 ≠ (a.commonCount e).2

/-- The race entry of a granule. -/
def State.raceAt (s : State) (g : Nat) : Option RaceEntry := (s.races.find? fun x => x.1 = g).map Prod.snd

/-- The entry a first access makes. -/
def Accessor.fresh (a : Accessor) (wr : Bool) : RaceEntry :=
  ⟨a.launch, a.tid, a.inst, if wr then .written else .one, a.phc, a.phd, a.php, a.phj, a.rank⟩

/-- The other entries in the set of a granule: 16 ways in the race table of its home die (R245, R271). -/
def State.raceSet (s : State) (g : Nat) : List (Nat × RaceEntry) :=
  let die := homeDie (64 * g)
  let sets := (s.die die).race * 2 ^ 11
  s.races.filter fun x => x.1 ≠ g && homeDie (64 * x.1) = die && x.1 % sets = g % sets

/-- One access against the race table (R244, R245): the new entry, or the DETAIL of RACE; 0 stands for RACE_TABLE. -/
def State.raceStep (s : State) (a : Accessor) (pa : Nat) (wr : Bool) : Option RaceEntry ⊕ Nat :=
  let g := pa / 64
  let full := (s.die (homeDie pa)).race = 0 || 16 ≤ ((s.raceSet g).filter fun x => !a.stale x.2).length
  match s.raceAt g with
  | some e =>
    if a.stale e then .inl (some (a.fresh wr))
    else
      let mine : Bool := e.tid = a.tid
      match e.st, wr, mine with
      | .one, false, true => .inl none
      | .one, true, true => .inl (some { e with st := .written })
      | .one, false, false => .inl (some { e with st := .many })
      | .one, true, false => .inr 2
      | .many, false, _ => .inl none
      | .many, true, _ => .inr 2
      | .written, _, true => .inl none
      | .written, false, false => .inr 3
      | .written, true, false => .inr 1
  | none => if full then .inr 0 else .inl (some (a.fresh wr))

/-- The stale entry that gives way to a new one in a full set: the oldest. Log 99. -/
def State.raceOut (s : State) (a : Accessor) (g : Nat) : Option Nat :=
  if (s.raceSet g).length < 16 then none else (((s.raceSet g).filter fun x => a.stale x.2).getLast?).map Prod.fst

/-- Record an access in the race table; a stale entry of a full set gives way (R245). -/
def State.raceNote (s : State) (a : Accessor) (pa : Nat) (wr : Bool) : State :=
  let g := pa / 64
  match s.raceStep a pa wr with
  | .inl (some e) => { s with races := (g, e) :: s.races.filter fun x => x.1 ≠ g && some x.1 ≠ s.raceOut a g }
  | _ => s

/-! ### Provisional stores (R319) -/

/-- The number of a line of another package, disjoint from the lines of this one. -/
def awayLine (rank : Nat) (va : DWord) : Nat := 2 ^ 64 * (rank + 1) + va.toNat / 128

/-- The line that a buffered item lies in. -/
def ProvItem.line : ProvItem → Nat
  | .bytes p _ _ | .red p _ _ _ _ => p / 128
  | .away r va _ | .awayRed r va _ _ _ => awayLine r va
  | .tree l _ _ => l

/-- Put an item into the entry of its line in the buffer of the step's die, or make an entry. -/
def State.buffer (s : State) (it : ProvItem) : State :=
  let mine (e : PsbEntry) : Bool :=
    e.launch = s.thr.launch && e.step = s.thr.step && e.die = dieOf s.cur && e.line = it.line
  if s.psb.any mine then { s with psb := s.psb.map fun e => if mine e then { e with items := e.items ++ [it] } else e }
  else { s with psb := s.psb ++ [⟨s.thr.launch, s.thr.step, dieOf s.cur, it.line, [it]⟩] }

/-- Whether the lines of a store find room in the buffer (R319). -/
def State.bufferRoom (s : State) (lines : List Nat) : Bool :=
  let mine (e : PsbEntry) : Bool := e.launch = s.thr.launch && e.step = s.thr.step && e.die = dieOf s.cur
  let new := (lines.eraseDups.filter fun l => !s.psb.any fun e => mine e && e.line = l).length
  let held := (s.psb.filter fun e => e.launch = s.thr.launch && e.die = dieOf s.cur).length
  let all := (s.psb.filter fun e => e.die = dieOf s.cur).length
  let quota := match s.myLaunch.bind Launch.shape with | some h => h.quota | none => 0
  new = 0 || (held + new ≤ quota && all + new ≤ (s.die (dieOf s.cur)).psb * 2 ^ 13)

/-! ### Local addresses (R84, R141) -/

/-- The bytes of a firmware core's data memory (R84). -/
def dataBytes : Nat := 2 ^ 19

/-- The claim of a launch on a core: the bytes it may address there, while its claim is resident (R141, R297). -/
def State.claimOf (s : State) (core : Nat) : Nat :=
  if (s.coreAt core).hasClaim s.thr.launch then (s.padOf core).claim else 0

/-- The launch's claim on a core when it is evicted from it (R297). -/
def State.evicted (s : State) (core : Nat) : Bool :=
  match s.myLaunch with
  | some l => l.conts.any fun x => match x.2.claim with | some i => i.core = core | none => false
  | none => false

/-- The claim that bounds local addresses on a core: the resident claim, or the launch's own size while it is evicted. -/
def State.boundOf (s : State) (core : Nat) : Nat :=
  if s.evicted core && !(s.coreAt core).hasClaim s.thr.launch then
    (match s.myLaunch with | some l => l.scr | none => 0)
  else s.claimOf core

/-- The checks of a local address: core number and offset, or the DETAIL of LOCAL_BOUND in the order 4, 1, 3, 2 (R84,
R141). -/
def State.localAt (s : State) (addr : DWord) (n : Nat) (own : Bool) : (Nat × Nat) ⊕ BitVec 8 :=
  let a := addr.toNat
  let k := bits a 22 5
  let off := a % 2 ^ 22
  if a / 2 ^ 27 ≠ 0 then .inr 4
  else if s.fw then
    if k ≠ 0 then .inr 1 else if dataBytes < off + n then .inr 2 else .inl (s.cur, off)
  else
    let core := 32 * dieOf s.cur + k
    if own && core ≠ s.cur then .inr 1
    else if !s.thr.ctl.dmbd.getLsbD k then .inr 3
    else if s.boundOf core < off + n then .inr 2
    else .inl (core, off)

end Sys2Proof.Machine
end

