-- ==== Sys2Proof/Machine/Frame.lean ====
section
/-! DEFINITION. The layout of the engine state in a spill frame (R302): the matrix configuration, the scale and pattern registers, tiles
and state units, as sections 7 to 9 of a frame and the lease extension, section 13, hold them; what LEASE writes and what UNLEASE and
RETH read back (R126, R127). -/

namespace Sys2Proof.Machine

/-! ### Records as bytes -/

/-- A bit as a number. -/
def bit (b : Bool) (k : Nat) : Nat := if b then 2 ^ k else 0

/-- A signed number as n bytes. -/
def intBytes (n : Nat) (x : Int) : List Byte := natBytes n (BitVec.ofInt (8 * n) x).toNat

/-- A matrix configuration record (R194). -/
def MConfig.bytes (c : MConfig) : List Byte :=
  natBytes 4 c.abase ++ natBytes 4 c.bbase ++ intBytes 4 c.asm_ ++ intBytes 4 c.ask ++ intBytes 4 c.bsn ++ intBytes 4 c.bsk ++
    natBytes 2 c.mt ++ natBytes 2 c.nt ++ natBytes 4 c.kt ++ [BitVec.ofNat 8 (c.bfmt.toNat + bit c.ctrb 3 + bit c.ctra 4),
    BitVec.ofNat 8 c.amap, BitVec.ofNat 8 (c.sea + 16 * c.sak), BitVec.ofNat 8 (c.seb + 16 * c.sbk),
    BitVec.ofNat 8 (c.sam + 16 * c.sbn)] ++ natBytes 3 0 ++ natBytes 4 c.aps ++ natBytes 4 c.bps ++ natBytes 16 0

/-- A window descriptor (R200). -/
def MWindow.bytes (d : MWindow) : List Byte :=
  natBytes 4 d.xbase ++ natBytes 4 d.xstr ++ natBytes 4 d.trows ++ intBytes 4 d.m0 ++ natBytes 2 d.ch ++ natBytes 1 d.wid ++
    natBytes 1 d.dil ++ natBytes 4 (d.halo.getD 0xFFFFFFFF) ++ natBytes 4 d.hrows ++ natBytes 4 0

/-- The bitmap of a set below n bits, as bytes. -/
def Bits.bytes (b : Bits) (n : Nat) : List Byte :=
  (List.range (n / 8)).map fun i => BitVec.ofNat 8 ((List.range 8).map fun k => bit (b.has (8 * i + k)) k).sum

/-- A scale register in its 256 bytes. -/
def Scale.bytes (x : Scale) : List Byte := x.toList.flatMap fun h => natBytes 2 h.toNat

/-- A field of a record: n bytes at an offset. -/
def recField (bs : List Byte) (o n : Nat) : Nat := bytesNat ((bs.drop o).take n)

/-- The address of a frame of a launch (R302). -/
def Launch.frameAt (l : Launch) (i : Nat) : DWord := l.frame + BitVec.ofNat 64 (0x800000 * i)

/-- n bytes at an offset of a frame of a launch, where its pages give them (R302). -/
def State.frameRead (s : State) (l : Launch) (i o n : Nat) : Option (List Byte) :=
  match s.agentRead l.ctx false (l.frameAt i + BitVec.ofNat 64 o) n with
  | .inl (bs, _) => some bs
  | .inr _ => none

/-- Write bytes at an offset of a frame. A write that a page refuses is dropped. Log 31. -/
def State.frameWrite (s : State) (l : Launch) (i o : Nat) (bs : List Byte) : State :=
  (s.agentWrite l.ctx false (l.frameAt i + BitVec.ofNat 64 o) bs { queue := some l.queue }).getD s

/-- Pieces of a frame with every marked word, given by its offset and length, written as zero (R302). -/
def zeroMarked (marks : List (Nat × Nat)) (m : Mem) : Mem := marks.foldl (fun (m : Mem) x => m.write x.1 (natBytes x.2 0)) m

/-- The mark map of n bytes: the bit of every 8-byte word from `base` on that holds a marked word (R302). -/
def markMap (base n : Nat) (marks : List (Nat × Nat)) : List Byte :=
  Bits.bytes (Bits.putAll [] (marks.flatMap fun x => unitsOf 8 (x.1 - base) x.2) true) (8 * n)

/-- Whether a mark map that is read back still has the bit of an offset; a map that a page refuses has them all. -/
def stillMarked (map : Option (List Byte)) (base o : Nat) : Bool :=
  match map with
  | none => true
  | some bs => (bs.getD ((o - base) / 64) 0).getLsbD ((o - base) / 8 % 8)

/-! ### Sections 7 to 9 (R302) -/

/-- Where the engine state lies in a frame: sections 7, 8 and 9, or their places in the lease extension. -/
structure EngineAt where
  marks : Nat
  acc   : Nat
  units : Nat
  deriving DecidableEq, Repr

/-- The engine state of a save, and of a lease, which lies at 0x610000 with the configuration first. -/
def frameSects : EngineAt := ⟨0x48000, 0x50000, 0xD0000⟩
@[inherit_doc frameSects] def leaseSects : EngineAt := ⟨0x611000, 0x619000, 0x699000⟩

/-- Unit numbers from SBASE on, of marks kept by unit and format. -/
def relUnits (sb : Nat) (b : Bits) : Bits := (b.filter fun k => sb ≤ k % 256).map fun k => k % 256 - sb

/-- The pieces of the engine state with `acc` tiles. -/
def LeaseImage.pieces (i : LeaseImage) (at_ : EngineAt) (acc : Nat) : List (Nat × List Byte) :=
  [(at_.marks, i.e.toList.flatMap Scale.bytes),
    (at_.marks + 0x1000, i.pat.toList.flatMap fun b => b.toList.flatMap fun x => natBytes 12 x.toNat),
    (at_.marks + 5632, natBytes 1 (bit i.bank 0)), (at_.marks + 5633, i.accPoison.bytes 8),
    (at_.marks + 5640, Bits.bytes (relUnits i.sb i.idn) 256), (at_.marks + 5672, Bits.bytes (relUnits i.sb i.pending) 256)] ++
  ((List.range acc).map fun k => (at_.acc + 65536 * k, (vget Tile.zero i.acc k).toList.flatMap Vec.bytes)) ++
  [(at_.units, i.units.read (unitBytes * i.sb) (unitBytes * (i.slim - i.sb)))]

/-- The configuration, window descriptor, counters and banks, in the order of header bytes 0x280 to 0x2EF. -/
def LeaseImage.config (i : LeaseImage) (segs : List Byte) (at_ : Nat) : List (Nat × List Byte) :=
  let (m, n, k) := i.mctr
  [(at_, match i.mcfg with | some c => c.bytes | none => natBytes 64 0),
    (at_ + 0x40, match i.mwin with | some w => w.bytes | none => natBytes 32 0),
    (at_ + 0x60, natBytes 8 (m + 2 ^ 8 * n + 2 ^ 16 * k + bit i.mcfg.isSome 48 + bit i.mwin.isSome 49)), (at_ + 0x68, segs)]

/-- The offset of a scale register's marked word. -/
def EngineAt.scaleMark (at_ : EngineAt) (m : PMark) : Option Nat :=
  match m.reg with | .e n => some (at_.marks + 256 * n + 2 * m.lane) | _ => none

/-- Whether a poisoned 8-byte word of the state register file lies in the units that the frame holds, and its offset there. -/
def LeaseImage.holdsWord (i : LeaseImage) (w : Nat) : Bool := unitBytes * i.sb ≤ 8 * w && 8 * w < unitBytes * i.slim
@[inherit_doc LeaseImage.holdsWord] def LeaseImage.wordAt (i : LeaseImage) (at_ : EngineAt) (w : Nat) : Nat :=
  at_.units + 8 * w - unitBytes * i.sb

/-- The words of the engine state that are poisoned, as offsets and lengths. -/
def LeaseImage.marked (i : LeaseImage) (at_ : EngineAt) : List (Nat × Nat) :=
  (i.marks.filterMap fun m => (at_.scaleMark m).map fun o => (o, 2)) ++
    (i.upoison.filter i.holdsWord).map fun w => (i.wordAt at_ w, 8)

/-- The marks of an engine state that the mark map of its frame still has. -/
def LeaseImage.reloadMarks (i : LeaseImage) (at_ : EngineAt) (map : Option (List Byte)) (base : Nat) : LeaseImage :=
  { i with
    marks := i.marks.filter fun m => match at_.scaleMark m with | some o => stillMarked map base o | none => true
    upoison := i.upoison.filter fun w => !i.holdsWord w || stillMarked map base (i.wordAt at_ w) }

/-- A configuration record, where every field keeps the range of R194. -/
def MConfig.ofBytes (bs : List Byte) : Option MConfig :=
  let f := recField bs
  let i (o : Nat) : Int := toSigned 32 (f o 4)
  let c : MConfig :=
    { abase := f 0 4, bbase := f 4 4, asm_ := i 8, ask := i 12, bsn := i 16, bsk := i 20, mt := f 24 2, nt := f 26 2
      kt := f 28 4, bfmt := BitVec.ofNat 3 (f 32 1), ctrb := (f 32 1).testBit 3, ctra := (f 32 1).testBit 4
      amap := f 33 1, sea := bits (f 34 1) 0 4, sak := bits (f 34 1) 4 4, seb := bits (f 35 1) 0 4
      sbk := bits (f 35 1) 4 4, sam := bits (f 36 1) 0 4, sbn := bits (f 36 1) 4 4, aps := f 40 4, bps := f 44 4 }
  if c.abase % 128 = 0 ∧ c.abase < 2 ^ 22 ∧ c.bbase % 128 = 0 ∧ c.bbase < 2 ^ 22 ∧ c.asm_ % 128 = 0 ∧ c.ask % 128 = 0 ∧
      c.bsn % 128 = 0 ∧ c.bsk % 128 = 0 ∧ 1 ≤ c.mt ∧ c.mt ≤ 8 ∧ 1 ≤ c.nt ∧ c.nt ≤ 8 ∧ 1 ≤ c.kt ∧ c.kt ≤ 65535 ∧
      f 32 1 < 32 ∧ f 32 1 % 8 ≤ 5 ∧ c.amap < 8 ∧ c.amap + c.mt * c.nt ≤ 8 ∧ f 37 3 = 0 ∧ c.aps % 16 = 0 ∧
      c.bps % 16 = 0 ∧ f 48 8 = 0 ∧ f 56 8 = 0 then some c
  else none

/-- A window descriptor, where every field keeps the range of R200. -/
def MWindow.ofBytes (bs : List Byte) : Option MWindow :=
  let f := recField bs
  let halo := f 20 4
  let d : MWindow :=
    { xbase := f 0 4, xstr := f 4 4, trows := f 8 4, m0 := toSigned 32 (f 12 4), ch := f 16 2, wid := f 18 1, dil := f 19 1
      halo := if halo = 0xFFFFFFFF then none else some halo, hrows := f 24 4 }
  if d.xbase % 2 = 0 ∧ d.xstr % 2 = 0 ∧ 2 * d.ch ≤ d.xstr ∧ 1 ≤ d.trows ∧ d.trows ≤ 2 ^ 22 ∧ 1 ≤ d.ch ∧ d.ch ≤ 4096 ∧
      1 ≤ d.wid ∧ d.wid ≤ 64 ∧ 1 ≤ d.dil ∧ (d.halo = none ∨ (halo % 2 = 0 ∧ 1 ≤ d.hrows ∧ d.hrows ≤ 65535)) ∧ f 28 4 = 0 then
    some d
  else none

/-- The configuration, window descriptor and counters as 0x70 bytes hold them (R302): a header's from 0x280 on, or a lease extension's. -/
def configOf (h : List Byte) : Option MConfig × Option MWindow × Nat × Nat × Nat :=
  (if (recField h 0x60 8).testBit 48 then MConfig.ofBytes (h.take 64) else none,
    if (recField h 0x60 8).testBit 49 then MWindow.ofBytes ((h.drop 0x40).take 32) else none,
    recField h 0x60 1, recField h 0x61 1, recField h 0x62 4)

/-- The engine state with the configuration, window descriptor and counters of 0x70 bytes. -/
def LeaseImage.reloadConfig (i : LeaseImage) (h : Option (List Byte)) : LeaseImage :=
  match h with
  | none => i
  | some h => let x := configOf h; { i with mcfg := x.1, mwin := x.2.1, mctr := x.2.2 }

/-- A scale register, a tile and a pattern bank from bytes of a frame. -/
def Scale.ofBytes (bs : List Byte) : Scale := Vector.ofFn fun j => BitVec.ofNat 16 (recField bs (2 * j) 2)
@[inherit_doc Scale.ofBytes] def Vec.ofFrame (bs : List Byte) : Vec := Vector.ofFn fun j => BitVec.ofNat 32 (recField bs (4 * j) 4)
@[inherit_doc Scale.ofBytes] def Tile.ofFrame (bs : List Byte) : Tile := Vector.ofFn fun r => Vec.ofFrame ((bs.drop (512 * r)).take 512)

/-- Members of a set whose bit, numbered by `f`, is still set in a bitmap. -/
def Bits.still (b : Bits) (f : Nat → Nat) (bs : List Byte) : Bits := b.filter fun k => (bs.getD (f k / 8) 0).getLsbD (f k % 8)

/-- The engine state as a frame holds it now; where its pages refuse the read, and for what the frame does not carry, as it was saved:
the units outside SBASE to SLIM − 1. Log 31. -/
def LeaseImage.reload (i : LeaseImage) (rd : Nat → Nat → Option (List Byte)) (at_ : EngineAt) (acc : Nat) : LeaseImage :=
  let i := match rd at_.marks 5704 with
    | none => i
    | some bs =>
      let unit (k : Nat) : Nat := k % 256 - i.sb
      { i with
        e := Vector.ofFn fun n => Scale.ofBytes ((bs.drop (256 * n)).take 256)
        pat := Vector.ofFn fun b => Vector.ofFn fun k => BitVec.ofNat 96 (recField bs (4096 + 768 * b + 12 * k) 12)
        bank := (recField bs 5632 1).testBit 0
        accPoison := (List.range 8).filter fun k => (recField bs 5633 1).testBit k
        idn := i.idn.still unit (bs.drop 5640), pending := i.pending.still unit (bs.drop 5672) }
  let i := { i with acc := Vector.ofFn fun k =>
    if acc ≤ k then i.acc[k] else match rd (at_.acc + 65536 * k) 65536 with | some bs => Tile.ofFrame bs | none => i.acc[k] }
  match rd at_.units (unitBytes * (i.slim - i.sb)) with
  | some bs => { i with units := i.units.write (unitBytes * i.sb) bs }
  | none => i

/-! ### LEASE, UNLEASE and RETH (R126, R127, R302) -/

/-- The engine state that LEASE saves and RETH and UNLEASE restore (R126, R127). -/
def Core.leaseImage (c : Core) : LeaseImage :=
  { sb := c.thr.ctl.sbase.toNat, slim := c.thr.ctl.slim.toNat, acc := c.thr.acc, accPoison := c.thr.accPoison, units := c.units, upoison := c.upoison, idn := c.idn,
    pending := c.pending, e := c.thr.e, pat := c.thr.pat, bank := c.thr.bank, mcfg := c.thr.mcfg, mwin := c.thr.mwin,
    mctr := c.thr.mctr, marks := c.thr.marks.filter fun m => match m.reg with | .e _ => true | _ => false }

/-- Put an engine state in place. -/
def Core.putImage (c : Core) (i : LeaseImage) : Core :=
  { c with
    units := i.units, upoison := i.upoison, idn := i.idn, pending := i.pending
    thr := { c.thr with
      acc := i.acc, accPoison := i.accPoison, e := i.e, pat := i.pat, bank := i.bank, mcfg := i.mcfg, mwin := i.mwin, mctr := i.mctr
      marks := (c.thr.marks.filter fun m => match m.reg with | .e _ => false | _ => true) ++ i.marks } }

/-- Restore the interrupted thread's engine state and clear FLAGS.LEASE (R126, R127). -/
def Core.unlease (c : Core) : Core :=
  let c := match c.thr.leaseSave with | some i => c.putImage i | none => c
  { c with thr := { c.thr with leaseSave := none, ctl := { c.thr.ctl with lease := false } } }

/-- Save the interrupted thread's engine state and set FLAGS.LEASE (R127); the carries that its units await are saved with them. Log 106. -/
def Core.lease (c : Core) : Core :=
  { c with pending := [], thr := { c.thr with leaseSave := some c.leaseImage, ctl := { c.thr.ctl with lease := true } } }

/-- The segments of the banks, as the header's SEGS holds them (R302). -/
def Core.segs (c : Core) : List Byte :=
  let seg (b : Bool) : Nat := match vget none c.banks b.toNat with | some g => g.index | none => 255
  natBytes 1 (seg c.active) ++ natBytes 1 (seg (!c.active))

/-- Write SECT of a frame with bits 12 and 17 as given, the others as they are in the frame (R302). -/
def State.leaseSect (s : State) (l : Launch) (i old : Nat) (on mark : Bool) : State :=
  let b := old % 2 ^ 12 + old / 2 ^ 13 % 2 ^ 4 * 2 ^ 13
  s.frameWrite l i 0xF8 (natBytes 4 (b + if on then bit true 12 + bit mark 17 else 0))

/-- SECT as a frame holds it. -/
def State.frameSect (s : State) (l : Launch) (i : Nat) : Nat := ((s.frameRead l i 0xF8 4).map bytesNat).getD 0

/-- LEASE (R127): the lease extension of the thread's frame is written, and SECT names it; `fresh` says that the frame has just been
taken. -/
def State.leaseEngine (s : State) (fresh : Bool) : State :=
  match s.myLaunch, s.thr.frame with
  | some l, some i =>
    let img := s.core.leaseImage
    let marks := img.marked leaseSects
    let all := img.config s.core.segs 0x610000 ++ img.pieces leaseSects s.core.acc
    let m := zeroMarked marks (all.foldl (fun (m : Mem) p => m.write p.1 p.2) [])
    let t := all.foldl (fun t p => t.frameWrite l i p.1 (m.read p.1 p.2.length)) s
    let t := if marks = [] then t
      else t.frameWrite l i (0x610000 + 0x189000)
        (markMap 0x610000 (0x189000 / 64) marks)
    (t.leaseSect l i (if fresh then 0 else s.frameSect l i) true (marks ≠ [])).setCore s.core.lease
  | _, _ => s.setCore s.core.lease

/-- The engine state of a lease as the lease extension of its frame holds it now (R302). Log 31. -/
def State.leaseNow (s : State) (l : Launch) (i : Nat) (x : LeaseImage) : LeaseImage :=
  let rd := s.frameRead l i
  let map := if (s.frameSect l i).testBit 17 then rd (0x610000 + 0x189000) (0x189000 / 64) else some []
  ((x.reload rd leaseSects s.core.acc).reloadConfig (rd 0x610000 0x70)).reloadMarks leaseSects map 0x610000

/-- UNLEASE, and the first step of RETH (R126, R127): the engine state is read back from the lease extension, and SECT no longer names
it. Log 31. -/
def State.unleaseEngine (s : State) : State :=
  match s.myLaunch, s.thr.frame with
  | some l, some i =>
    let t := s.leaseSect l i (s.frameSect l i) false false
    let img := s.thr.leaseSave.map fun x => s.leaseNow l i x
    t.setCore { s.core with thr := { s.thr with leaseSave := img } }.unlease
  | _, _ => s.setCore s.core.unlease

end Sys2Proof.Machine
end

