-- ==== Sys2Proof/Machine/Ops.lean ====
section
/-! DEFINITION. The named operations over the state: the launch error record (R264), freezing (R259, R377), taking an exception
(R255, R256, R259) and returning from one (R126), engine commands' counters and marks, the launch walker's grants (R287,
R288), phases (R120), and the end of a thread (R122). -/

namespace Sys2Proof.Machine

/-! ### Cause codes (R254) -/

/-- A cause code of R254. -/
def cIllegalBundle : BitVec 8 := 0x01
@[inherit_doc cIllegalBundle] def cIllegalOp : BitVec 8 := 0x02
@[inherit_doc cIllegalBundle] def cPrivilege : BitVec 8 := 0x03
@[inherit_doc cIllegalBundle] def cMisalign : BitVec 8 := 0x04
@[inherit_doc cIllegalBundle] def cOwner : BitVec 8 := 0x07
@[inherit_doc cIllegalBundle] def cRace : BitVec 8 := 0x08
@[inherit_doc cIllegalBundle] def cLocalBound : BitVec 8 := 0x09
@[inherit_doc cIllegalBundle] def cLost : BitVec 8 := 0x0A
@[inherit_doc cIllegalBundle] def cPoison : BitVec 8 := 0x0B
@[inherit_doc cIllegalBundle] def cWaitTimeout : BitVec 8 := 0x0C
@[inherit_doc cIllegalBundle] def cOverrun : BitVec 8 := 0x0D
@[inherit_doc cIllegalBundle] def cLatency : BitVec 8 := 0x0E
@[inherit_doc cIllegalBundle] def cEngine : BitVec 8 := 0x0F
@[inherit_doc cIllegalBundle] def cSoftTrap : BitVec 8 := 0x10
@[inherit_doc cIllegalBundle] def cBreak : BitVec 8 := 0x11
@[inherit_doc cIllegalBundle] def cRaceTable : BitVec 8 := 0x12
@[inherit_doc cIllegalBundle] def cStateBound : BitVec 8 := 0x13
@[inherit_doc cIllegalBundle] def cStream : BitVec 8 := 0x14
@[inherit_doc cIllegalBundle] def cSegment : BitVec 8 := 0x15
@[inherit_doc cIllegalBundle] def cCopyError : BitVec 8 := 0x16
@[inherit_doc cIllegalBundle] def cDouble : BitVec 8 := 0x17

/-! ### The launch error record (R264, R353) -/

/-- A launch error entry (R264). -/
structure ErrEntry where
  cause   : BitVec 8
  detail  : BitVec 8 := 0
  remote  : Bool := false
  wr      : Bool := false
  applied : Bool := false
  late    : Bool := false
  slot    : Nat := 0
  tid     : Nat := 0
  step    : Nat := 0
  pc      : DWord := 0
  addr    : DWord := 0
  deriving DecidableEq, Repr

/-- The 32 bytes of an entry (R264). -/
def ErrEntry.bytes (e : ErrEntry) : List Byte :=
  [e.cause, e.detail, BitVec.ofNat 8 (bit e.remote 0 + bit e.wr 1 + bit e.applied 2 + bit e.late 3), BitVec.ofNat 8 e.slot] ++
    natBytes 4 e.tid ++ natBytes 8 e.step ++ natBytes 8 e.pc.toNat ++ natBytes 8 e.addr.toNat

/-- Append an entry to a launch's error record: the count on die A rises, the header and the entry are written where they
translate, and the first entry sends EVEC of the queue, once per launch (R264, R353). Log 84. -/
def State.appendError (s : State) (launch : Nat) (e : ErrEntry) : State :=
  match s.launch? launch with
  | none => s
  | some l =>
    let n := min (l.errs + 1) 0xFFFFFFFF
    let send := !l.errSent
    let s := s.modLaunch launch fun l => { l with errs := n, errSent := true }
    let s := ((s.agentWrite l.ctx false l.erec (natBytes 4 n ++ List.replicate 28 0) { queue := some l.queue }).getD s)
    let s := if l.errs < 15 then
        ((s.agentWrite l.ctx false (l.erec + BitVec.ofNat 64 (32 + 32 * l.errs)) e.bytes { queue := some l.queue }).getD s) else s
    if send then s.interrupt (tget {} s.queues l.queue).evec.toNat else s

/-- The launch error entry of a report whose thread has exited (R262, R264). -/
def reportEntry (r : LateReport) : ErrEntry :=
  { cause := r.info.cause, detail := r.info.detail, remote := true, wr := r.info.wr, applied := r.info.applied, late := true,
    slot := r.info.slot.toNat, tid := r.tid % 2 ^ 32, step := r.step, pc := r.pc, addr := r.info.addr }

/-! ### Freezing (R259, R377, R378) -/

/-- The masters of a launch are frozen and complete nothing (R377, R395). -/
def State.halted (s : State) (launch : Nat) : Bool := match s.launch? launch with | some l => l.frozen | none => false

/-- Append to the freeze log: 64 entries and an overflow count, which saturates (R378). Log 132. -/
def State.freezeLog (s : State) (kind reason number : Nat) (addr : DWord) : State :=
  if s.trust.freezes.length < 64 then
    { s with trust := { s.trust with freezes := s.trust.freezes ++ [⟨kind, reason, number, addr⟩] } }
  else { s with trust := { s.trust with freezeOvf := min (s.trust.freezeOvf + 1) (2 ^ 64 - 1) } }

/-- A violation of the access windows freezes the firmware core and raises FWFAULT (R352, R375, R377). Log 90. -/
def State.violate (s : State) (core : Nat) (addr : DWord) (reason : Nat) : State :=
  ((s.modCore core fun c => { c with frozen := true }).freezeLog 1 reason (core - 256) addr).cause 0

/-- An exception in handler mode: the thread is frozen with its registers as they were, and the launch error record takes a
DOUBLE entry; a firmware core raises FWFAULT (R259, R352). -/
def State.doubleFault (s : State) (t : TrapInfo) (pc : DWord) : State :=
  let s := s.setCore { s.core with frozen := true, stage := none, waitInfo := none }
  if s.fw then s.cause 0
  else s.appendError s.thr.launch
    { cause := cDouble, detail := t.cause, remote := t.remote, wr := t.wr, applied := t.applied, slot := t.slot.toNat,
      tid := s.thr.ctl.tid.toNat % 2 ^ 32, step := s.thr.step, pc := pc, addr := t.addr }

/-! ### Taking an exception (R255) and returning (R126) -/

/-- EINFO of an exception (R20, R255). -/
def einfoOf (t : TrapInfo) : Einfo :=
  { xnum := t.xnum, xrow := t.xrow, xcl := t.xcl, detail := t.detail, remote := t.remote, wr := t.wr, slot := t.slot,
    applied := t.applied }

/-- The cycle at which every exposed result in flight has landed, at least `c`. -/
def lastDue (c : Nat) (fl : List Landing) : Nat := fl.foldl (fun m l => max m l.due) c

/-- The registers of a thread as trap entry leaves them (R255): EPC, ECAUSE, EADDR, EINFO, HND, the shadows, the latches and
the pc; RACE sets MMST.RACE_SEEN (R244). A fault that the bundle had deferred is raised again when the bundle issues (R266). -/
def Thread.enter (t : Thread) (x : TrapInfo) (epc : DWord) : Thread :=
  { t.clearLatches with
    ctl := { t.ctl with
      epc := epc, ecause := x.cause, eaddr := x.addr, einfo := einfoOf x, hnd := true,
      mmst := if x.cause = cRace then t.ctl.mmst ||| 4 else t.ctl.mmst }
    heldShadow := t.held, held := {}, loopShadow := t.loops, loops := [], waited := 0, wlimF := none, deferred := none
    pc := t.ctl.hbase + BitVec.ofNat 64 (64 * x.cause.toNat) }

/-- TAKING AN EXCEPTION (R255, R256, R259): at user level the handler is entered; in handler mode, and where HBASE is 0, the
thread freezes; `at_` is the bundle that its error entry names. The handler's first bundle issues no earlier than three cycles on and after every exposed result in flight
has landed (R75); a freeze that falls due before waits for it (R258). A handler address, or a RETH target, that no segment holds
counts as a branch target (R306). Log 127. -/
def State.takeTrap (s : State) (x : TrapInfo) (epc : DWord) (at_ : DWord := epc) : State :=
  if s.thr.ctl.hnd || s.thr.ctl.hbase = 0 then s.doubleFault x at_
  else s.setCore { s.core with
    thr := s.thr.enter x epc, stage := none, waitInfo := none, wfaults := [], found := [], viaBranch := true
    nextIssue := lastDue (s.now + 3) s.thr.flight
    freezeReq := s.core.freezeReq.map fun x => (max x.1 (lastDue (s.now + 3) s.thr.flight), x.2) }

/-- RETURNING FROM HANDLER MODE (R126): the leased engine state, the held values and the loop stack are restored, HND is
cleared, the latches are cleared, break_skip is set and the pc is EPC. -/
def State.returnTrap (s : State) : State :=
  let s := if s.thr.ctl.lease then s.unleaseEngine else s
  let t := s.thr.clearLatches
  s.setCore { s.core with
    viaBranch := true
    thr := { t with held := t.heldShadow, heldShadow := {}, loops := t.loopShadow, loopShadow := [], breakSkip := true,
                    pc := t.ctl.epc, ctl := { t.ctl with hnd := false } } }

/-! ### Spill frames (R302) -/

/-- The lowest-numbered free frame of a launch. -/
def Launch.freeFrame (l : Launch) : Option Nat := (List.range l.nfr).find? fun i => !l.frames.has i

/-- The thread on the focus core takes the lowest-numbered free frame, unless it has one. -/
def State.takeFrame (s : State) : State :=
  if s.thr.frame.isSome then s
  else match s.myLaunch.bind Launch.freeFrame with
    | none => s
    | some i =>
      (s.modLaunch s.thr.launch fun l => { l with frames := l.frames.put i true }).modThr fun t => { t with frame := some i }

/-! ### The launch walker (R287, R288, R313) -/

/-- Whether a step is provisional: the launch's shape is not settled and the step lies at or above F (R313). -/
def Launch.isProv (l : Launch) (step : Nat) : Bool :=
  (match l.shape with | some h => !h.settled | none => false) && l.f ≤ step

/-- The size of the next grant (R287, R313): P cores hold the launch's claim. -/
def Launch.grantSize (l : Launch) (p : Nat) : Nat :=
  let rem := l.n - l.next
  if rem = 0 then 0
  else if l.f ≤ l.next then 1
  else min (min (max l.minc ((rem + 2 * max p 1 - 1) / (2 * max p 1))) (l.f - l.next)) rem

/-- The cores that hold a launch's claim. -/
def State.claimants (s : State) (launch : Nat) : List Nat := s.busyCores.filter fun n => (s.coreAt n).hasClaim launch

/-- Serve one request (R287, R288, R290): chunks of a fenced die are granted again first; the grant is checkpointed. Log 92. -/
def State.grant (s : State) (launch die : Nat) (grab : Option Nat) : State × Option (Nat × Nat) :=
  match s.launch? launch with
  | none => (s, none)
  | some l =>
    if l.lost ∨ l.dead then (s, none)
    else match l.again with
      | g :: gs =>
        (s.modLaunch launch fun l =>
          { l with
            again := gs
            grants := l.grants ++ [{ g with die := die, grab := grab, exited := 0 }]
            prov := if l.isProv g.first then l.prov ++ [{ step := g.first, die := die }] else l.prov },
          some (g.first, g.count))
      | [] =>
        let n := l.grantSize (s.claimants launch).length
        if n = 0 then (s, none)
        else
          (s.modLaunch launch fun l =>
            { l with
              next := l.next + n
              grants := l.grants ++ [⟨die, l.next, n, grab, 0⟩]
              prov := if l.isProv l.next then l.prov ++ [{ step := l.next, die := die }] else l.prov },
            some (l.next, n))

/-- Retire the chunk that a thread obtained by GRAB: its steps have been done (R288). -/
def Launch.retireGrab (l : Launch) (tid : Nat) : Launch :=
  let mine := l.grants.filter fun g => g.grab = some tid
  { l with
    grants := l.grants.filter fun g => g.grab ≠ some tid
    prov := l.prov.map fun p => if mine.any fun g => g.first = p.step then { p with exited := true } else p }

/-- A step of a dispatcher's chunk has a thread that has exited (R288, R322). -/
def Launch.stepDone (l : Launch) (step : Nat) : Launch :=
  { l with
    prov := l.prov.map fun p => if p.step = step then { p with exited := true } else p
    grants := (l.grants.map fun g =>
      if g.grab = none ∧ g.first ≤ step ∧ step < g.first + g.count then { g with exited := g.exited + 1 } else g).filter
        fun g => g.grab ≠ none || g.exited < g.count }

/-! ### Phases (R31, R120) -/

/-- The gang instance a thread belongs to. -/
def Launch.gangOf (l : Launch) (tid : Nat) : Option Nat := (l.gangs.find? fun g => g.tids.contains tid).map Gang.inst

/-- The phase count of a level: core, die, package, job. -/
def Ctl.phase (c : Ctl) : Nat → Word
  | 0 => c.phc | 1 => c.phd | 2 => c.php | _ => c.phj

/-- Set the phase count of a level. -/
def Ctl.setPhase (c : Ctl) (n : Word) : Nat → Ctl
  | 0 => { c with phc := n } | 1 => { c with phd := n } | 2 => { c with php := n } | _ => { c with phj := n }

/-- The number of the instance of a domain level to which the thread of a TID first placed on a core belongs (R30, R32): its core; its
die, the package and the job, each within its gang instance. -/
def Launch.instAt (l : Launch) (tid home : Nat) : Nat → Nat
  | 0 => home
  | k + 1 =>
    let g := match l.gangOf tid with | some i => i + 1 | none => 0
    if k = 0 then 8 * g + dieOf home else g

/-- The instance of a domain level that a thread belongs to: it stays as the thread was first placed (R30). -/
def Launch.instOf (l : Launch) (t : Thread) (level : Nat) : Nat := l.instAt t.ctl.tid.toNat t.home level

/-- The phase count of an instance of a level (R31). -/
def Launch.phaseAt (l : Launch) (level k : Nat) : Word :=
  ((l.phases.find? fun x => x.1 = level && x.2.1 = k).map fun x => x.2.2).getD 0

/-- The threads of a launch, resident and suspended. -/
def State.threadsOf (s : State) (launch : Nat) : List Thread :=
  (s.busyCores.filterMap fun n =>
    let c := s.coreAt n
    if c.live && c.thr.launch = launch then some c.thr else none) ++
    (match s.launch? launch with | some l => l.conts.map fun x => x.2.thr | none => [])

/-- A thread takes part in the phase of a level with another: at core level only the thread itself does (R120). -/
def Launch.joins (l : Launch) (level : Nat) (a b : Thread) : Bool :=
  if level = 0 then a.ctl.tid = b.ctl.tid else l.instOf a level = l.instOf b level

/-- The thread on the focus core has a frame, or one is free for it (R302). -/
def State.canFrame (s : State) : Bool := s.thr.frame.isSome || (s.myLaunch.bind Launch.freeFrame).isSome

/-- Whether the thread on the focus core has a frame or can take one; a member of a gang instance can be suspended only when
every member without a frame can take one (R302). -/
def State.frameFree (s : State) : Bool :=
  match s.myLaunch with
  | none => false
  | some l =>
    let g := l.gangOf s.thr.ctl.tid.toNat
    let need := (s.threadsOf s.thr.launch).filter fun t =>
      t.frame.isNone && (t.ctl.tid = s.thr.ctl.tid || (g.isSome && l.gangOf t.ctl.tid.toNat = g))
    need.length ≤ ((List.range l.nfr).filter fun i => !l.frames.has i).length

/-- Change every thread of a launch, resident or suspended. -/
def State.modThreads (s : State) (launch : Nat) (f : Thread → Thread) : State :=
  let s := s.busyCores.foldl (fun s n => s.modCore n fun c =>
    if c.live && c.thr.launch = launch then { c with thr := f c.thr } else c) s
  s.modLaunch launch fun l => { l with conts := l.conts.map fun x => (x.1, { x.2 with thr := f x.2.thr }) }

/-- Complete the phase of a level for the instance of one of its threads, where every thread that takes part has arrived: the instance's
count increments for the threads that take part, and the race table drops the entries of the instance (R31, R120, R245). At core level the
other threads that were first placed there are suspended, and their PHC stays as saved (R29). At job level with other packages in the job,
their arrival is a free value, drawn at each look. Log 114. -/
def State.tryPhase (s : State) (t : Thread) (level : Nat) : State :=
  match s.launch? t.launch with
  | none => s
  | some l =>
    let k := l.instOf t level
    let away := level = 3 && t.ctl.count.toNat > 1
    let met := ((s.threadsOf t.launch).filter (l.joins level t)).all (fun u => u.arrived = some level) &&
      (!away || Config.freeBool s.freeCtr)
    let s := if away then s.draw else s
    if met then
      let n := l.phaseAt level k + 1
      let s := s.modThreads t.launch fun u =>
        { u with arrived := if l.joins level t u then some (level + 8) else u.arrived
                 ctl := if l.joins level t u then u.ctl.setPhase n level else u.ctl }
      let s := s.modLaunch t.launch fun l =>
        { l with phases := (level, k, n) :: l.phases.filter fun x => x.1 ≠ level || x.2.1 ≠ k }
      { s with races := s.races.filter fun x => !(x.2.launch = t.launch && l.instAt x.2.tid x.2.core level = k) }
    else s

/-! ### The end of a thread (R122, R321) -/

/-- Release a core's thread: registers, tiles and state units are discarded and the core is idle; its scratchpad and the claim
stay (R27, R122). -/
def Core.release (c : Core) : Core :=
  { c with live := false, frozen := false, exiting := false, discard := false, thr := {}, units := [], upoison := [], idn := [], pending := [],
           aborted := [], xq := [], nq := [], drained := [], freezeReq := none, waitInfo := none, wfaults := [], found := [], bun := {}, stage := none,
           banks := Vector.replicate 2 none, active := false, copying := none, segFails := [] }

/-- A queue's virtual time rises by c / weight for each c cycles that its thread has been resident on the focus core (R291). -/
def State.charge (s : State) : State :=
  match s.myLaunch with
  | some l =>
    { s with queues := tmod {} s.queues l.queue fun q =>
        { q with vtime := q.vtime + mkRat (s.now - s.core.placed) q.weight.toNat } }
  | none => s

/-- The thread's step and chunk are done: chunks retire, copy failures nobody waited for and reports it has not taken become launch error
entries (R262, R263), carries that have not landed are discarded (R224, R333), the frame is free (R302), and the thread no longer keeps a phase open (R120). -/
def State.endThread (s : State) : State :=
  let s := s.charge
  let t := s.thr
  let tid := t.ctl.tid.toNat
  let s := t.fails.foldl (fun s f => s.appendError t.launch
    { cause := cCopyError, detail := f.detail, wr := f.wr, late := true, slot := f.ctr, tid := tid % 2 ^ 32, step := f.step,
      pc := f.pc, addr := f.offset }) s
  let s := t.late.foldl (fun s r => s.appendError t.launch (reportEntry r)) s
  let s := s.modLaunch t.launch fun l =>
    { (l.retireGrab tid).stepDone tid with
      scans := l.scans.map fun c => { c with carries := c.carries.filter fun p => p.who.tid ≠ tid }
      frames := match t.frame with | some i => l.frames.put i false | none => l.frames }
  let s := s.setCore s.core.release
  (s.threadsOf t.launch).foldl (fun s u => match u.arrived with
    | some k => if k < 4 then s.tryPhase u k else s
    | none => s) s

/-- No pre-emption has frozen the focus core yet; a BARV whose request has left delays the freeze (R299, R409). -/
def State.unfrozen (s : State) : Bool := match s.core.freezeReq with | some (z, _) => s.now < z || s.thr.barv.isSome | none => true

/-- A new core in place of the focus core, whose rings' words have become full or empty: appended elements are plain writes, which end
release sequences, and no release set the bits (R167, R238, R248). -/
def State.ringsMoved (s : State) (c : Core) : State :=
  (List.range 8).foldl (fun t k =>
    let b := vget {} s.thr.q k
    let ws := (wordsOf b.base (128 * b.lines)).filter fun w => s.core.full.has w ≠ c.full.has w
    let t := if b.out then ws.foldl (fun t w => t.endSeq (s.padLoc s.cur (8 * w)) 8) t else t
    t.tagSet s.thr.launch s.cur ws false) (s.setCore c)

/-- An access of the focus core's thread that is to be acknowledged: a reduction, or one sent to another package (R122, R154, R284). -/
def State.owe (s : State) (va : Option DWord) (rank : Nat) : State :=
  s.modLaunch s.thr.launch fun l =>
    { l with acks := l.acks ++
        [{ tid := s.thr.ctl.tid.toNat, va := va, no := s.tokens, rank := rank, step := s.thr.step, pc := s.core.bun.addr }] }

/-- An access that the thread sent to another package has not been acknowledged (R160, R284). -/
def State.unacked (s : State) : Bool :=
  match s.myLaunch with
  | some l => l.acks.any fun a => a.tid = s.thr.ctl.tid.toNat && a.va.isSome
  | none => false

/-- An earlier access of the thread is not performed at every scope yet: one sent to another package that has not been acknowledged or has
not returned its value (R120). Accesses within the package are performed when their bundle commits. Log 101. -/
def State.unperformed (s : State) : Bool :=
  s.unacked || s.thr.ilocks.any fun x => x.mem && match x.home with | some h => h.die.isNone | none => false

/-- Whether a core has open matrix or scan commands. -/
def Core.enginesIdle (c : Core) : Bool := c.xq.isEmpty && c.nq.isEmpty

/-- After EXIT the core is released once every open matrix and scan command has completed (R122). -/
def State.tryExit (s : State) : State :=
  if s.core.exiting && s.core.enginesIdle then s.endThread else s

/-! ### The matrix engine's queue and its nominal timing (R202, R203) -/

/-- The accumulator tile that a matrix command names. -/
def XOp.tile : XOp → Nat
  | .mstep t .. | .mzero t | .amvr t .. | .amvw t .. | .mdrn t .. => t

/-- A matrix step. -/
def XOp.isStep : XOp → Bool
  | .mstep .. => true
  | _ => false

/-- The cycles a command occupies the array or the tile port, and the cycles from there to its completion (R202). Log 96. -/
def XOp.timing : XOp → Nat × Nat
  | .mstep .. => (16, 8)
  | .mzero _ => (2, 0)
  | .amvr _ _ n _ _ => (n, 6)
  | .amvw _ _ _ rows => (rows.length, 6)
  | .mdrn _ fmt .. => (if fmt = 0 then 16 else 8, 6)

/-- Whether an earlier open command of either engine writes a block of the list (R203). -/
def Core.writtenBefore (c : Core) (before : List XCmd) (token : Nat) (blocks : List Nat) : Bool :=
  before.any (fun y => overlap y.writes blocks) || c.nq.any fun n => n.token < token && overlap n.bwr blocks

/-- Whether a command can start behind the open commands before it (R202, R203). -/
def Core.canStart (c : Core) (before : List XCmd) (x : XCmd) : Bool :=
  if x.op.isStep then
    before.all (fun y => !y.op.isStep || y.due.isSome) && !c.writtenBefore before x.token x.reads
  else before.all fun y => y.op.tile ≠ x.op.tile

/-- Start every command that can start, in queue order. -/
def startGo (c : Core) (now : Nat) : List XCmd → List XCmd → Nat → Nat → List XCmd × Nat × Nat
  | before, [], a, p => (before, a, p)
  | before, x :: xs, a, p =>
    if x.due.isNone && c.canStart before x then
      let start := if x.op.isStep then max (max now (x.commit + 2)) a else max now p
      let free := start + x.op.timing.1
      let x := { x with due := some (free + x.op.timing.2) }
      startGo c now (before ++ [x]) xs (if x.op.isStep then free else a) (if x.op.isStep then p else free)
    else startGo c now (before ++ [x]) xs a p

/-- Start the matrix commands that can start now (R202). Log 96. -/
def Core.startX (c : Core) (now : Nat) : Core :=
  let (q, a, p) := startGo c now [] c.xq c.xArray c.xPort
  { c with xq := q, xArray := a, xPort := p }

/-- Whether command i of the matrix queue may complete now: after every earlier command on its tile (R53, R202), a step after
the earlier writers of its operand blocks, and a drain after the earlier steps that read its blocks, whose bytes it must not
change (R203). Log 22. -/
def Core.canComplete (c : Core) (i : Nat) (x : XCmd) : Bool :=
  let before := c.xq.take i
  before.all (fun y => y.op.tile ≠ x.op.tile) && !c.writtenBefore before x.token x.reads &&
    !(before.any fun y => overlap y.reads x.writes)

/-! ### The scan engine's queue and its nominal timing (R222, R228, R231) -/

/-- The stream of a chunk port. -/
def ChunkPort.stream? : ChunkPort → Option Nat
  | .stream q => some q
  | _ => none

/-- The streams that a chunk descriptor names (R222). -/
def Chunk.streams (d : Chunk) : List Nat := [d.as_, d.bs, d.hd, d.xd].filterMap ChunkPort.stream?

/-- The unit of the engine that a command occupies (R231): none, the scan engine, the row port, the state-spill engine. -/
def NOp.port : NOp → Nat
  | .schk .. | .sfix .. => 1
  | .srd .. | .swr .. => 2
  | .sspl .. | .sfil .. => 3
  | _ => 0

/-- The cycles a command occupies its unit, and the cycles from there to its completion (R231). Log 96. -/
def NOp.timing : NOp → Nat × Nat
  | .sid _ fp32 _ => (2 * tileUnits fp32, 2)
  | .schk _ fp32 _ d | .sfix _ fp32 _ d => ((if fp32 then 4 else 2) * d.len + 8, 0)
  | .sxch .. => (4, 0)
  | .srd _ _ n .. => (n, 4)
  | .swr _ _ _ rows => (rows.length, 4)
  | .sspl _ n .. | .sfil _ n .. => (16 * n, 0)

/-- A command has read the unit tiles that it only reads: SCHK its IUNIT, SFIX its pair tile (R220, R221). -/
def NCmd.captured (x : NCmd) : Bool := x.accs ≠ []

/-- Whether a result of an earlier SSTEP to one of the units has not landed (R228). A later SSTEP issues only once the command has read its
units, and then no longer concerns it. -/
def Core.sstepDue (c : Core) (x : NCmd) : Bool :=
  !x.captured && c.thr.flight.any fun l => l.writes.any fun w =>
    match w with | .units u .. => x.units.contains u | _ => false

/-- A command waits for an earlier one that names one of its units, writes a block that it touches, or still reads bytes that it would
overwrite (R203, R222, R231). Log 22. -/
def NCmd.behind (x y : NCmd) : Bool :=
  overlap y.units x.units || overlap y.bwr x.blocks || overlap y.bwr x.bwr || overlap y.blocks x.bwr

/-- Whether a command can take its turn behind the open commands before it (R222, R228, R231): it waits for none of them, none of its units
is carry-pending or awaits an SSTEP result, and no earlier command of the matrix engine touches its blocks. Log 22. -/
def Core.turnN (c : Core) (before : List NCmd) (x : NCmd) : Bool :=
  before.all (fun y => !x.behind y) &&
    !(c.pending.any fun k => overlap (keyUnits k) x.units) && !c.sstepDue x &&
    !(c.xq.any fun y => y.token < x.token &&
      (overlap y.writes x.blocks || overlap y.writes x.bwr || overlap y.reads x.bwr))

/-- An open chunk scan or fix-up (R232). -/
def NOp.isChunk : NOp → Bool
  | .schk .. | .sfix .. => true
  | _ => false

/-- Whether a command that a freeze lets complete waits, directly or through chunk commands, for the end of a chunk command, among the
commands after it (R232, R301): then the chunk command runs on to its end. Log 117. -/
def Core.mustEnd (c : Core) (x : NCmd) : List NCmd → Bool
  | [] => c.xq.any fun y => x.token < y.token && overlap y.reads x.bwr
  | y :: ys => (y.behind x && (!y.op.isChunk || c.mustEnd y ys)) || c.mustEnd x ys

/-- An element pair (x, y). -/
abbrev Pair := Word × Word

/-- The marks of n pairs. -/
def markList (n : Nat) (f : Nat → Bool × Bool) : Bits :=
  (List.range n).flatMap fun i => (if (f i).1 then [2 * i] else []) ++ if (f i).2 then [2 * i + 1] else []

/-- Element i of a tile, in row order. -/
def Core.elemNo (c : Core) (fp32 : Bool) (u i : Nat) : Word := c.elem fp32 u (i / 128) (i % 128)

/-- The number of elements of a tile. -/
def tileElems : Nat := 2048

/-- The pairs of the pair tile at a unit, in row order. -/
def Core.pairs (c : Core) (fp32 : Bool) (u : Nat) : List Pair :=
  (List.range tileElems).map fun i => (c.elemNo fp32 u i, c.elemNo fp32 (u + tileUnits fp32) i)

/-- Whether a pair tile carries IDN (R213). Log 16. -/
def Core.isIdn (c : Core) (fp32 : Bool) (u : Nat) : Bool := c.idn.has (pairKey fp32 u)

/-- The marks of a pair tile's elements: a word of each half is poisoned where the 8 bytes that hold it are (R335). Log 18. -/
def Core.pairBad (c : Core) (fp32 : Bool) (u : Nat) : Bits :=
  if c.upoison = [] then []
  else markList tileElems fun i =>
    (c.upoison.has (unitAddr fp32 u (i / 128) (i % 128) / 8),
      c.upoison.has (unitAddr fp32 (u + tileUnits fp32) (i / 128) (i % 128) / 8))

/-- The element accumulators before the first step: those of IUNIT or padding for SCHK, C for SFIX (R220, R221). -/
def Core.chunkInit (c : Core) (fp32 : Bool) (init : Option Nat) (x : NCmd) : NCmd :=
  if x.accs ≠ [] then x
  else match init with
    | some u =>
      if c.isIdn fp32 u then { x with accs := List.replicate tileElems none }
      else { x with accs := (c.pairs fp32 u).map some, bad := c.pairBad fp32 u }
    | none => { x with accs := List.replicate tileElems none }

/-- A command that reads a pair tile only at its start reads it now (R220, R221, R228). -/
def Core.capture (c : Core) (x : NCmd) : NCmd :=
  match x.op with
  | .schk _ fp32 _ d => c.chunkInit fp32 d.init x
  | .sfix u fp32 _ _ => c.chunkInit fp32 (some u) x
  | _ => x

/-- One of three numbers, and its replacement. -/
def freeAt (f : Nat × Nat × Nat) : Nat → Nat
  | 1 => f.1 | 2 => f.2.1 | 3 => f.2.2 | _ => 0
@[inherit_doc freeAt] def setFree (f : Nat × Nat × Nat) (k v : Nat) : Nat × Nat × Nat :=
  match k with
  | 1 => (v, f.2) | 2 => (f.1, v, f.2.2) | 3 => (f.1, f.2.1, v) | _ => f

/-- Start every scan command that can take its turn, in queue order; a chunk command reads its pair tile as it starts. -/
def startNGo (c : Core) (now : Nat) : List NCmd → List NCmd → Nat × Nat × Nat → List NCmd × (Nat × Nat × Nat)
  | before, [], f => (before, f)
  | before, x :: xs, f =>
    if x.due.isNone && c.turnN before x then
      let free := max now (freeAt f x.op.port) + x.op.timing.1
      startNGo c now (before ++ [{ c.capture x with due := some (free + x.op.timing.2) }]) xs (setFree f x.op.port free)
    else startNGo c now (before ++ [x]) xs f

/-- Start the scan commands that can start now (R231). Log 96. -/
def Core.startN (c : Core) (now : Nat) : Core :=
  let r := startNGo c now [] c.nq c.nFree
  { c with nq := r.1, nFree := r.2 }

/-! ### Counters, commands and flags -/

/-- Add to a wait counter (R15). -/
def Thread.counterAdd (t : Thread) (w : Nat) (d : BitVec 16) : Thread := { t with w := vset t.w w (vget 0 t.w w + d) }

/-- OR flags into FPST (R23). -/
def Thread.orFlags (t : Thread) (f : BitVec 5) : Thread := { t with ctl := { t.ctl with fpst := t.ctl.fpst ||| f } }

end Sys2Proof.Machine
end

