-- ==== Sys2Proof/Machine/Operands.lean ====
section
/-! DEFINITION. Operand forms (R63 to R71): operand values, the registers an instruction reads and writes, interlocks (R74),
stream operands (R167), the latency check (R76), poison (R149), held values, and the results an instruction delivers. -/

namespace Sys2Proof.Machine

/-! ### Operand values (R63, R64) -/

/-- The bytes of the element at a stream's ring position. -/
def State.streamElem (s : State) (q : Nat) : List Byte :=
  let b := vget {} s.thr.q q
  s.core.scratch.read (b.slot 0) b.size

/-- A scalar operand (R63, R64): register, latch, stream element, long immediate or held value. -/
def State.opS (s : State) (k : Nat) (c : BitVec 6) : DWord :=
  let n := c.toNat
  if n < 32 then s.thr.getS n
  else if n < 40 then vget 0 s.thr.lS (n - 32)
  else if n < 48 then BitVec.ofNat 64 (bytesNat (s.streamElem (n - 40)))
  else if n = 62 then (s.core.bun.limm.getD 0).signExtend 64
  else s.thr.held.scalar k

/-- A vector operand (R63, R64). -/
def State.opV (s : State) (k : Nat) (c : BitVec 6) : Vec :=
  let n := c.toNat
  if n < 32 then s.thr.getV n
  else if n < 40 then vget Vec.zero s.thr.lV (n - 32)
  else if n < 48 then
    let bs := s.streamElem (n - 40)
    Vec.ofBytes fun i => bs.getD i 0
  else if n = 62 then Vector.replicate 128 (s.core.bun.limm.getD 0)
  else s.thr.held.vec k

/-! ### What an instruction reads and writes (R74, R76, R149) -/

/-- A register word that a slot reads or writes, with its place in the order of R76 (0 A, 1 B, 2 D read, 3 D written, 4
PRED, 5 MOD, 6 and up the words no field names) and what EINFO reports of it. -/
structure Use where
  reg   : RegId
  wr    : Bool := false
  order : Nat
  code  : Nat := 0
  xcl   : Nat := 0
  xnum  : Nat := 0
  xrow  : Nat := 0
  deriving DecidableEq, Repr

/-- Whether an operand field of an instruction is in the vector file (R63). Field 0 is A, 1 is B, 2 is D. -/
def vecField (i : Instr) (field : Nat) : Bool :=
  match i with
  | .vldg _ | .vldl _ | .vstg _ | .vstl _ => field = 2
  | .vgtg _ | .vgtl _ | .vscg _ | .vscl _ => field ≠ 0
  | .vext _ _ => field = 0
  | .kpop _ _ => false
  | i => match row i with
    | some (_, r) => r.slot = .v0 || r.slot = .v1
    | none => false

/-- The register that an operand code names; none for a stream, the long immediate and the held value. -/
def regOf (vec : Bool) (c : Nat) : Option RegId :=
  if c < 32 then some (if vec then .v c else .s c) else if c < 40 then some (.latch (c - 32)) else none

/-- The uses of one field. -/
def fieldUse (i : Instr) (field : Nat) (f : Field) (wb : Bool) (x : BitVec 6) : List Use :=
  let c := x.toNat
  let vec := vecField i field
  let mk (wr : Bool) (r : Option RegId) : List Use :=
    match r with
    | some r => [{ reg := r, wr := wr, order := if wr then 3 else field, code := c }]
    | none => []
  let vreg : Bool := match row i with
    | some (_, r) => (r.slot = .v0 || r.slot = .v1 || r.slot = .n) && !(match i with | .kpop .. | .vext .. => true | _ => false)
    | none => false
  match f with
  | .src => mk false (regOf vec c)
  | .dst => if wb && c < 32 then mk true (regOf vec c) else []
  | .srcDst => mk false (regOf vec c) ++ if wb && c < 32 then mk true (regOf vec c) else []
  | .pred dest => if dest then (if wb then mk true (some (.p c)) else []) else mk (match i with | .grab _ => true | _ => false) (some (.p c))
  | .mask dest => if dest then (if wb then mk true (some (.k c)) else []) else mk false (some (.k c))
  | .reg dest =>
    let r : RegId := if vreg then .v c else .s c
    if dest then (if wb then mk true (some r) else []) else mk (match i with | .grab _ => true | _ => false) (some r)
  | _ => []

/-- Class 6 of R76: the vector registers after the first of a range. -/
def rangeUse (wr : Bool) (first n : Nat) : List Use :=
  (List.range (n - 1)).map fun j => { reg := .v (first + 1 + j), wr := wr, order := 9, xcl := 6, xnum := first + 1 + j }

/-- The rows of a state tile at a relative unit, as class 4 of R76. A row is named by the 256-byte pieces of the state register
file that it takes: one of a BF16 tile, two of an FP32 tile (R213). -/
def rowUses (s : State) (fp32 : Bool) (rel : Nat) (rows : List Nat) : List Use :=
  let u := s.thr.ctl.sbase.toNat + rel
  rows.flatMap fun r =>
    (if fp32 then [2 * r, 2 * r + 1] else [r]).map fun g =>
      { reg := .row (u + g / 16) (g % 16), order := 7, xcl := 4, xnum := rel, xrow := r }

/-- A scale register as class 3 of R76. -/
def scaleUse (n : Nat) : Use := { reg := .e n, order := 6, xcl := 3, xnum := n }

/-- The vector registers named by a plain D field (AMVR, AMVW). -/
def plainV (wr : Bool) (d n : Nat) : List Use :=
  { reg := .v d, wr := wr, order := if wr then 3 else 2, code := d } :: rangeUse wr d n

/-- The scale registers of a plane-integer step (R196). -/
def MConfig.scaleA (c : MConfig) (x : Nat × Nat × Nat) : Nat := (c.sea + c.sam * x.1 + c.sak * x.2.2) % 16
@[inherit_doc MConfig.scaleA] def MConfig.scaleB (c : MConfig) (x : Nat × Nat × Nat) : Nat :=
  (c.seb + c.sbn * x.2.1 + c.sbk * x.2.2) % 16

/-- The words that an instruction reads or writes and no operand field of its row names (R76). -/
def extraUses (s : State) : Instr → List Use
  | .loopr _ => (List.range 8).map fun k => { reg := .p (16 + k), wr := true, order := 6, xcl := 1, xnum := 16 + k }
  | .call _ => [{ reg := .s 31, wr := true, order := 8, xcl := 5, xnum := 31 }]
  | .ret _ => [{ reg := .s 31, order := 8, xcl := 5, xnum := 31 }]
  | .grab w => [{ reg := .s (w.d.toNat + 1), wr := true, order := 8, xcl := 5, xnum := w.d.toNat + 1 }]
  | .cpy _ => [{ reg := .s 7, order := 8, xcl := 5, xnum := 7 }]
  | .csel w => [{ reg := .p w.pred.toNat, order := 4, xcl := 1, xnum := w.pred.toNat }]
  | .vcmp _ w => if w.wb then [{ reg := .k (w.d.toNat % 8), wr := true, order := 3, code := w.d.toNat }] else []
  | .vmovn _ w => rangeUse false w.a.toNat (w.b.toNat + 1) ++ if w.wb then rangeUse true w.d.toNat (w.b.toNat + 1) else []
  | .vpack _ w => rangeUse false w.a.toNat (kel w.fmt.toNat)
  | .vunpk _ w => if w.wb then rangeUse true w.d.toNat (kel w.fmt.toNat) else []
  | .amvr w => plainV true w.d.toNat (w.b.toNat % 8 + 1)
  | .amvw w => plainV false w.d.toNat (w.b.toNat % 8 + 1)
  | .swr w => rangeUse false w.d.toNat (2 ^ (w.mod.toNat % 4))
  | .srd w => if w.wb then rangeUse true w.d.toNat (2 ^ (w.mod.toNat % 4)) else []
  | .scmb w => rangeUse false w.a.toNat 2 ++ rangeUse false w.b.toNat 2 ++ if w.wb then rangeUse true w.d.toNat 2 else []
  | .scld w => [{ reg := .e w.d.toNat, wr := true, order := 3, code := w.d.toNat }]
  | .scmv w => [{ reg := .e w.a.toNat, order := 0, code := w.a.toNat },
      { reg := .e w.d.toNat, wr := true, order := 3, code := w.d.toNat }]
  | .sstepAff w =>
    let sel := (s.opS 6 w.b).toNat
    rowUses s (w.fmt = 1) (bits sel 0 8) [bits sel 8 4] ++ rangeUse false w.a.toNat 2
  | .sstepSsm w =>
    let sel := (s.opS 6 w.b).toNat
    scaleUse (bits sel 8 4) :: rowUses s (w.fmt = 1) (bits sel 0 8) (List.range 16) ++
      rowUses s (w.fmt = 1) (bits sel 0 8 + tileUnits (w.fmt = 1)) (List.range 16) ++ rangeUse false w.a.toNat 2
  | .mstep w => match s.thr.mcfg with
    | some m => if 2 ≤ w.fmt.toNat then sortBy Use.xnum [scaleUse (m.scaleA s.thr.mctr), scaleUse (m.scaleB s.thr.mctr)] else []
    | none => []
  | _ => []

/-- Whether the mask MOD[2:0] of a V slot is read (R68, R175, R182). -/
def readsMask : Instr → Bool
  | .vext .. | .kand .. | .kor .. | .kxor .. | .knot .. | .kpop .. => false
  | i => match row i with
    | some (_, r) => r.slot = .v0 || r.slot = .v1
    | none => false

/-- A word's place in the order of R76: the words that no field names in ascending number and row within their class. -/
def Use.rank (u : Use) : Nat := u.order * 2 ^ 16 + if 6 ≤ u.order then u.xnum * 2 ^ 6 + u.xrow else 0

/-- Everything that a slot which is not guarded off reads or writes, in the order of R76. -/
def uses (s : State) (i : Instr) : List Use :=
  match row i with
  | none => []
  | some (w, r) =>
    let l := fieldUse i 0 r.a w.wb w.a ++ fieldUse i 1 r.b w.wb w.b ++ fieldUse i 2 r.d w.wb w.d ++
      (if w.pred = 0 then [] else [{ reg := .p w.pred.toNat, order := 4, xcl := 1, xnum := w.pred.toNat }]) ++
      (if readsMask i then [{ reg := .k (w.mod.toNat % 8), order := 5, xcl := 2, xnum := w.mod.toNat % 8 }] else []) ++
      extraUses s i
    sortBy Use.rank l

/-- Registers that discard writes hold no result (R10). -/
def RegId.hard : RegId → Bool
  | .s 0 | .p 0 | .k 0 => true
  | _ => false

/-- Whether a register has an outstanding interlocked result (R74). -/
def Thread.locked (t : Thread) (r : RegId) : Bool := !r.hard && t.ilocks.any fun l => l.regs.contains r

/-- The register word that a write of a result reaches. -/
def Write.reg : Write → Option RegId
  | .scalar n _ => some (.s n)
  | .pred n _ => some (.p n)
  | .mask n _ _ => some (.k n)
  | .vec n _ _ => some (.v n)
  | .scale n _ => some (.e n)
  | .pattern b n _ => some (.pat b n)
  | .units u r _ _ => some (.row u r)
  | _ => none

/-- The landing cycles of the exposed results pending for a register word (R76). -/
def Thread.pending (t : Thread) (now : Nat) (r : RegId) : List Nat :=
  if r.hard then []
  else (t.flight.filter fun l => now < l.due && l.writes.any fun w => w.reg = some r).map Landing.due

/-- The report of the latency check for one use (R76). -/
def Use.report (u : Use) (slot : Nat) : TrapInfo :=
  { cause := cLatency, slot := BitVec.ofNat 3 slot
    detail := if u.xcl = 0 then BitVec.ofNat 8 (64 * u.order + u.code) else if u.wr then 0xC0 else 0x80
    xcl := BitVec.ofNat 4 u.xcl, xnum := BitVec.ofNat 8 (if u.xcl = 0 then 0 else u.xnum)
    xrow := BitVec.ofNat 4 u.xrow }

/-- The latency check of a slot (R76): the first word that is read before it has landed, or that an exposed result would
reach no later than a pending one. -/
def State.latencyErr (s : State) (slot : Nat) (i : Instr) : Option TrapInfo :=
  if !s.thr.ctl.lchk then none
  else (uses s i).findSome? fun u =>
    let p := s.thr.pending s.now u.reg
    let bad := if u.wr then
        match latency i with
        | some n => p.any fun d => s.now + n ≤ d
        | none => false
      else !p.isEmpty
    if bad then some (u.report slot) else none

/-! ### Holds of a slot before its own checks (R74, R77) -/

/-- An "off" address: base plus an operand or a scaled immediate (R67, R139). -/
def State.offAddr (s : State) (w : SlotWord) (size : Nat) : DWord :=
  s.opS 2 w.a + if 4 ≤ w.fmt.toNat then w.b.signExtend 64 * BitVec.ofNat 64 size else s.opS 2 w.b

/-- The access size in bytes of FMT[1:0] (R67). -/
def sizeOf_ (w : SlotWord) : Nat := 2 ^ (w.fmt.toNat % 4)

/-- The active lanes of a gather or scatter with their addresses, in ascending lane (R148). -/
def State.laneAddrs (s : State) (w : SlotWord) : List (Nat × DWord) :=
  let base := s.opS 2 w.a
  let idx := s.opV 2 w.b
  (List.range 128).filterMap fun l =>
    let i := (vget 0 idx l).toNat
    if i = 0xFFFFFFFF then none
    else some (l, base + BitVec.ofNat 64 (if 4 ≤ w.fmt.toNat then 4 * i else i))

/-- The words that an aligned read of the own scratchpad names lie in an engine-owned block (R72, R146). -/
def State.ownedRead (s : State) (va : DWord) (n align : Nat) : Bool :=
  va.toNat % align = 0 && match s.localAt va n true with
    | .inl (_, off) => s.core.ownedAt off n
    | .inr _ => false

/-- The holds of R74 that an instruction has of its own, which come before its checks at issue (R77): no room in its engine's queue (R202,
R231), a wait counter at its limit (R15), scratchpad words that an engine owns; and that of SSTEP.SSM once a pre-emption has been requested,
unless a BARV of its bundle is in flight (R299, R409). -/
def State.roomHold (s : State) (i : Instr) : Bool :=
  let x : Bool := 16 ≤ s.core.xq.length
  let n : Bool := 16 ≤ s.core.nq.length
  let full (c : Nat) : Bool := vget 0 s.thr.w c = 0xFFFF
  match i with
  | .mstep _ | .mzero _ => x
  | .amvr w | .amvw w => x || full (w.mod.toNat % 4)
  | .mdrn w => x || full (w.mod.toNat / 4)
  | .sid _ | .sxch _ | .srd _ | .swr _ => n
  | .schk w | .sfix w => n || s.ownedRead (s.opS 6 w.a) 64 64
  | .sspl w | .sfil w => n || full (w.mod.toNat % 4)
  | .sstepSsm _ => s.core.freezeReq.isSome && s.thr.barv.isNone
  | .cpy w => full (w.fmt.toNat % 4)
  | .ldl w => s.ownedRead (s.offAddr w (sizeOf_ w)) (sizeOf_ w) (sizeOf_ w)
  | .vldl w => s.ownedRead (s.offAddr w 512) 512 64
  | .vgtl w => (s.laneAddrs w).any fun x => s.ownedRead x.2 4 4
  | .qbind w => s.ownedRead (s.opS 2 w.a) 32 32
  | .mcfg w => s.ownedRead (s.opS 5 w.a) 64 64
  | .mwin w => s.ownedRead (s.opS 5 w.a) 32 32
  | .scld w => s.ownedRead (s.opS 7 w.a) 256 256
  | .patld w => s.ownedRead (s.opS 7 w.a) 16 16
  | _ => false

/-! ### Stream operands (R167) -/

/-- The stream operands of an instruction: stream, whether it is read, whether the element is a vector. -/
def streamUses (i : Instr) : List (Nat × Bool × Bool) :=
  match row i with
  | none => []
  | some (w, r) =>
    let one (field : Nat) (f : Field) (x : BitVec 6) : List (Nat × Bool × Bool) :=
      let c := x.toNat
      if 40 ≤ c ∧ c ≤ 47 then
        match f with
        | .src => [(c - 40, true, vecField i field)]
        | .dst => if w.wb then [(c - 40, false, vecField i field)] else []
        | .srcDst => (c - 40, true, vecField i field) :: if w.wb then [(c - 40, false, vecField i field)] else []
        | _ => []
      else []
    one 0 r.a w.a ++ one 1 r.b w.b ++ one 2 r.d w.d

/-- The misuse of a stream operand, if any (R167): DETAIL 1, 2 or 6. -/
def State.streamBad (s : State) (x : Nat × Bool × Bool) : Option Nat :=
  let b := vget {} s.thr.q x.1
  if !b.bound || b.out = x.2.1 then some (if x.2.1 then 1 else 2)
  else if b.vector ≠ x.2.2 then some 6 else none

/-- The elements that the bundle's slots before this one write to a stream. -/
def State.bundleOwes (s : State) (q : Nat) : Nat :=
  ((s.core.stage.getD []).map fun r => match r.2 with | .ok es => es.count (.streamOwe q) | _ => 0).sum

/-- Whether a stream operand is ready: an element is available, or the ring has room for one more, beyond those in flight and those of the
bundle's earlier slots (R146, R167). -/
def State.streamReady (s : State) (x : Nat × Bool × Bool) : Bool :=
  let b := vget {} s.thr.q x.1
  let i := if x.2.1 then 0 else b.flying + s.bundleOwes x.1
  let ws := b.words i
  b.engine = none && (x.2.1 || i < b.cap) && !s.core.ownedAt (b.slot i) b.size &&
    ws.all fun w => s.core.full.has w = x.2.1

/-- STREAM of a slot's operands. -/
def State.streamErr (s : State) (slot : Nat) (i : Instr) : Option TrapInfo :=
  (streamUses i).findSome? fun x => (s.streamBad x).map fun d =>
    { cause := cStream, detail := BitVec.ofNat 8 d, slot := BitVec.ofNat 3 slot }

/-- POISON of a slot's operands (R149): a poisoned register, latch or held-value word, or a poisoned stream element. -/
def State.poisonErr (s : State) (slot : Nat) (i : Instr) : Option TrapInfo :=
  let mark : Option DWord :=
    ((uses s i).filter fun u => !u.wr && (match u.reg with | .e _ | .row _ _ => false | _ => true)).findSome? fun u =>
      (s.thr.markOf [u.reg]).map PMark.addr
  let held : Option DWord :=
    if (operandCodes i).any (fun x => x.2 && x.1 = 63) then (s.thr.markOf [.held slot]).map PMark.addr else none
  let elem : Option DWord := ((streamUses i).filter fun x => x.2.1).findSome? fun x =>
    let b := vget {} s.thr.q x.1
    if (b.words 0).any fun w => s.core.spoison.has w then
      some (b.fault.getD (BitVec.ofNat 64 ((s.cur % 32) * 2 ^ 22 + b.slot 0)))
    else none
  (mark.or (held.or elem)).map fun a => { cause := cPoison, addr := a, slot := BitVec.ofNat 3 slot }

/-- STREAM, then POISON, before a slot's own exceptions (R80). -/
def State.operandErr (s : State) (slot : Nat) (i : Instr) : Option TrapInfo :=
  (s.streamErr slot i).or (s.poisonErr slot i)

/-! ### Held values (R71) -/

/-- A code 63 that reads an empty held value. -/
def State.heldErr (s : State) (slot : Nat) (i : Instr) : Option TrapInfo :=
  if (operandCodes i).any (fun x => x.2 && x.1 = 63) && !s.thr.held.full slot then
    some { cause := cIllegalOp, detail := 5, slot := BitVec.ofNat 3 slot }
  else none

/-- What HOLD does with the slot's held value at commit. -/
def State.holdEffs (s : State) (slot : Nat) (i : Instr) : List Eff :=
  match row i with
  | none => []
  | some (w, r) =>
    match r.b54 with
    | .hold =>
      let cap (field : Nat) (x : BitVec 6) : List Eff :=
        if x = 63 then [] else if vecField i field then [.holdV slot (s.opV slot x)] else [.holdS slot (s.opS slot x)]
      match w.hold.toNat with
      | 1 => cap 0 w.a
      | 2 => cap 1 w.b
      | 3 => [.unhold slot]
      | _ => []
    | _ => []

/-- The stream elements a slot consumes and the ring room it takes at commit (R167). -/
def streamEffs (i : Instr) : List Eff :=
  (streamUses i).map fun x => if x.2.1 then .streamTake x.1 else .streamOwe x.1

/-! ### Results (R65, R72) -/

/-- Poison marks of a loaded value: every lane given, with the load's address (R149). -/
def marksOf (w : SlotWord) (vec : Bool) (slot : Nat) (lanes : List Nat) (addr : DWord) : List PMark :=
  lanes.flatMap fun l =>
    (if w.wb && w.d.toNat < 32 && (vec || w.d ≠ 0) then [⟨if vec then .v w.d.toNat else .s w.d.toNat, l, addr⟩] else []) ++
      [⟨.latch slot, l, addr⟩]

/-- The registers that an interlocked scalar or vector result of D holds (R74); the slot's latch is not among them. Log 112. -/
def destRegs (vec : Bool) (w : SlotWord) : List RegId :=
  if w.wb && w.d.toNat < 32 then [if vec then .v w.d.toNat else .s w.d.toNat] else []

/-- A scalar result for D and the slot's latch, landing at a cycle (R12, R65). -/
def scalarLanding (slot : Nat) (w : SlotWord) (due : Nat) (x : DWord) (flags : BitVec 5 := 0) (marks : List PMark := []) :
    Landing :=
  { due := due, latch := some (slot, .scalar x), flags := flags, marks := marks
    writes := if !w.wb then [] else if w.d.toNat < 32 then [.scalar w.d.toNat x] else [.streamS (w.d.toNat - 40) x] }

/-- A vector result for the lanes `en` of D; the latch takes all of `lx` (R12, R65, R175). -/
def vectorLanding (slot : Nat) (w : SlotWord) (due : Nat) (x : Vec) (en : BitVec 128) (lx : Vec) (flags : BitVec 5 := 0)
    (marks : List PMark := []) : Landing :=
  { due := due, latch := some (slot, .vector lx), flags := flags, marks := marks
    writes := if !w.wb then [] else if w.d.toNat < 32 then [.vec w.d.toNat x en] else [.streamV (w.d.toNat - 40) x] }

/-- An exposed scalar result of a slot. -/
def State.giveS (s : State) (slot : Nat) (w : SlotWord) (lat : Nat) (x : DWord) (flags : BitVec 5 := 0) : Eff :=
  .land (scalarLanding slot w (s.now + lat) x flags)

/-- A predicate result for p[D] and the slot's latch (R115, R133, R135). -/
def State.giveP (s : State) (slot : Nat) (w : SlotWord) (lat : Nat) (b : Bool) (flags : BitVec 5 := 0) : Eff :=
  .land { due := s.now + lat, latch := some (slot, .scalar (if b then 1 else 0)), flags := flags
          writes := if w.wb then [.pred w.d.toNat b] else [] }

/-- A trap of a slot. -/
def trapAt (slot : Nat) (cause : BitVec 8) (detail : Nat := 0) (addr : DWord := 0) (wr : Bool := false) : TrapInfo :=
  { cause := cause, detail := BitVec.ofNat 8 detail, addr := addr, slot := BitVec.ofNat 3 slot, wr := wr }

/-- A slot's exception. -/
def raise (slot : Nat) (cause : BitVec 8) (detail : Nat := 0) (addr : DWord := 0) (wr : Bool := false) : Res :=
  .trap (trapAt slot cause detail addr wr) []

end Sys2Proof.Machine
end

