-- ==== Sys2Proof/Machine/Flags.lean ====
section
/-! DEFINITION. The sticky flags: FPST (R23, R43) and MMST (R22, R143, R239), and the control registers as MFC reads and MTC
writes them (R20 to R22). -/

namespace Sys2Proof.Machine

/-- The flags of several results. -/
def orAll (l : List (BitVec 5)) : BitVec 5 := l.foldl (· ||| ·) 0

/-- MMST.SCOPE_DROP. -/
def mmDrop : BitVec 3 := 1
/-- MMST.SCOPE_CLAMP. -/
def mmClamp : BitVec 3 := 2

/-- The scope at which an access is performed and the MMST bit it sets: a scratchpad-space access wider than DIE is clamped to
DIE, on a firmware core to CORE (R143). Log 24. -/
def clampScope (fw local_ : Bool) (scope : BitVec 3) : BitVec 3 × BitVec 3 :=
  if local_ && 3 ≤ scope.toNat then (if fw then 1 else 2, mmClamp) else (scope, 0)

/-- EINFO as a word (R20). -/
def Einfo.word (e : Einfo) : Nat :=
  e.xnum.toNat * 2 ^ 24 + e.xrow.toNat * 2 ^ 20 + e.xcl.toNat * 2 ^ 16 + e.detail.toNat * 2 ^ 8 +
    (if e.remote then 32 else 0) + (if e.wr then 16 else 0) + e.slot.toNat * 2 + (if e.applied then 1 else 0)

/-- The fields of EINFO in a written word; other bits are discarded (R22). -/
def Einfo.ofWord (x : Nat) : Einfo :=
  { xnum := BitVec.ofNat 8 (bits x 24 8), xrow := BitVec.ofNat 4 (bits x 20 4), xcl := BitVec.ofNat 4 (bits x 16 4)
    detail := BitVec.ofNat 8 (bits x 8 8), remote := x.testBit 5, wr := x.testBit 4, slot := BitVec.ofNat 3 (bits x 1 3)
    applied := x.testBit 0 }

/-- FLAGS as a word (R20). -/
def Ctl.flags (c : Ctl) : Nat := bit c.prov 0 + bit c.hnd 1 + bit c.lease 2 + bit c.lchk 3

/-- MFC: the control register of a number (R20). -/
def State.mfc (s : State) (num : Nat) : DWord :=
  let c := s.thr.ctl
  match num with
  | 0x00 => c.tid.setWidth 64
  | 0x01 => c.core.setWidth 64
  | 0x02 => c.die.setWidth 64
  | 0x03 => c.pkg.setWidth 64
  | 0x04 => c.launch.setWidth 64
  | 0x05 => BitVec.ofNat 64 c.flags
  | 0x06 => c.rmode.setWidth 64
  | 0x07 => c.fpst.setWidth 64
  | 0x08 => c.mmst.setWidth 64
  | 0x09 => c.epc
  | 0x0A => c.ecause.setWidth 64
  | 0x0B => c.eaddr
  | 0x0C => BitVec.ofNat 64 c.einfo.word
  | 0x0D => c.hbase
  | 0x0E => c.sbase.setWidth 64
  | 0x0F => c.slim.setWidth 64
  | 0x10 => c.segt
  | 0x11 => c.dmbc.setWidth 64
  | 0x12 => c.dmbd.setWidth 64
  | 0x13 => c.dmbp.setWidth 64
  | 0x14 => (c.count ++ c.rank).setWidth 64
  | 0x15 => c.phc.setWidth 64
  | 0x16 => c.phd.setWidth 64
  | 0x17 => c.php.setWidth 64
  | 0x18 => c.phj.setWidth 64
  | 0x19 => s.cyc
  | 0x1A => c.wlim.setWidth 64
  | _ => 0

/-- The registers whose MTC is privileged (R20). -/
def privReg (num : Nat) : Bool := 0x09 ≤ num && num ≤ 0x10

/-- MTC: write the control register of a number (R20 to R22). Registers marked "ignored" discard the write. -/
def Ctl.mtc (c : Ctl) (num : Nat) (x : DWord) : Ctl :=
  match num with
  | 0x05 => { c with lchk := x.getLsbD 3 }
  | 0x06 => { c with rmode := x.setWidth 2 }
  | 0x07 => { c with fpst := x.setWidth 5 }
  | 0x08 => { c with mmst := c.mmst &&& ~~~(x.setWidth 3) }
  | 0x09 => { c with epc := x }
  | 0x0A => { c with ecause := x.setWidth 8 }
  | 0x0B => { c with eaddr := x }
  | 0x0C => { c with einfo := Einfo.ofWord x.toNat }
  | 0x0D => { c with hbase := x >>> 6 <<< 6 }
  | 0x0E => { c with sbase := x.setWidth 8 }
  | 0x0F => { c with slim := if 256 < x.toNat % 512 then 256 else x.setWidth 9 }
  | 0x10 => { c with segt := x >>> 7 <<< 7 }
  | 0x1A => { c with wlim := if x.toNat % 2 ^ 32 < 256 then 256 else x.setWidth 32 }
  | _ => c

/-- MTC at commit: FPST first takes the written value and then the flags that land in the same cycle (R23); an MTC of SEGT
empties the idle bank's record (R306). -/
def Core.mtc (c : Core) (num : Nat) (x : DWord) : Core :=
  let ctl := c.thr.ctl.mtc num x
  let ctl := if num = 0x07 then { ctl with fpst := ctl.fpst ||| c.thr.landed } else ctl
  let banks := if num = 0x10 then vset c.banks (if c.active then 0 else 1) none else c.banks
  { c with thr := { c.thr with ctl := ctl }, banks := banks }

end Sys2Proof.Machine
end

