-- ==== Sys2Proof/Machine/Fetch.lean ====
section
/-! DEFINITION. Fetch: the segment table and the instruction banks (R305 to R307, R422), line pad (R60), and the bundle at the
program counter. -/

namespace Sys2Proof.Machine

/-- A read of the segment table at SEGT through the launch's context with the read permission (R422): the bytes, or the fault
with the address of the bytes that could not be read. -/
def State.tableRead (s : State) (off n : Nat) : List Byte ⊕ TrapInfo :=
  let a := s.thr.ctl.segt + BitVec.ofNat 64 off
  match s.agentRead s.ctxOf s.user a n with
  | .inr (c, d, va) => .inr { cause := c, detail := d, addr := va }
  | .inl (_, true) => .inr { cause := cPoison, detail := 4, addr := a >>> 7 <<< 7 }
  | .inl (bs, false) => .inl bs

/-- COUNT of the segment table (R305). -/
def State.segCount (s : State) : Nat ⊕ TrapInfo :=
  match s.tableRead 0 4 with
  | .inl bs => .inl (bytesNat bs)
  | .inr t => .inr t

/-- The bytes that an instruction bank holds (R2, R305). -/
def bankBytes : Nat := 131072

/-- Entry i of the segment table: START, LEN, IMG (R305). Of a LEN above the bytes of a bank, for which the spec gives no behaviour, a bank's
bytes count (R2). Log 104. -/
def State.segEntry (s : State) (i : Nat) : (Nat × Nat × DWord) ⊕ TrapInfo :=
  match s.tableRead (16 * (i + 1)) 16 with
  | .inl bs => .inl (bytesNat (bs.take 4), min bankBytes (bytesNat ((bs.drop 4).take 4)), BitVec.ofNat 64 (bytesNat (bs.drop 8)))
  | .inr t => .inr t

/-- The segment that contains a code address (R306): its index and entry, or none; on fuel, from index i. -/
def State.findSegGo (s : State) (x : Nat) : Nat → Nat → Option (Nat × Nat × Nat × DWord) ⊕ TrapInfo
  | 0, _ => .inl none
  | f + 1, i =>
    match s.segEntry i with
    | .inr t => .inr t
    | .inl (st, len, img) =>
      if st ≤ x ∧ x < st + len then .inl (some (i, st, len, img)) else s.findSegGo x f (i + 1)

/-- The segment that contains a code address. -/
def State.findSeg (s : State) (x : Nat) : Option (Nat × Nat × Nat × DWord) ⊕ TrapInfo :=
  match s.segCount with
  | .inr t => .inr t
  | .inl n => s.findSegGo x (min n 255) 0

/-- The bank that holds the segment containing a code address (R306). -/
def Core.bankOf (c : Core) (x : Nat) : Option (Bool × Segment) :=
  let holds (b : Bool) : Option (Bool × Segment) :=
    (vget none c.banks b.toNat).bind fun g => if g.start ≤ x && x < g.start + g.len then some (b, g) else none
  (holds c.active).or (holds (!c.active))

/-- The byte at a code address, from the bank that holds it or a firmware core's instruction memory. -/
def State.codeByte (s : State) (x : Nat) : Option Byte :=
  if s.fw then if x < 2 ^ 19 then some (Mem.byte (tget [] s.fwImem s.cur) x) else none
  else (s.core.bankOf x).map fun g => g.2.bytes.byte (x - g.2.start)

/-- Skip line pad from a code address (R60, R113): a zero header moves to byte 0 of the next line; on fuel. -/
def State.skipPadGo (s : State) : Nat → Nat → Nat
  | 0, x => x
  | f + 1, x =>
    match s.codeByte x, s.codeByte (x + 1) with
    | some a, some b => if a = 0 ∧ b = 0 then s.skipPadGo f ((x / 64 + 1) * 64) else x
    | _, _ => x

/-- The address of the first bundle that sequential fetch reaches from a code address (R60, R111). -/
def State.skipPad (s : State) (x : DWord) : DWord := BitVec.ofNat 64 (s.skipPadGo 2048 x.toNat)

/-- Whether a segment is resident and its copy has not failed (R307). -/
def Core.resident (c : Core) (i : Nat) : Bool :=
  (List.range 2).any fun b => match vget none c.banks b with | some g => g.index = i && !g.failed | none => false

/-- A copy of a segment starts, with its table entry as it now stands; the segment is no longer marked failed (R307, R422). -/
def Core.startCopy (c : Core) (g : SegCopy) : Core :=
  { c with copying := some g, segFails := c.segFails.filter fun x => x.1 ≠ g.index }

/-- What reading COUNT and entries i to j of the segment table does beside giving them (R271, R282, R422). -/
def State.tableReach (s : State) (i j : Nat) : State :=
  if s.fw then s
  else
    let at_ (o : Nat) : DWord := s.thr.ctl.segt + BitVec.ofNat 64 o
    (s.agentReach s.ctxOf (at_ 0) 4).agentReach s.ctxOf (at_ (16 * (i + 1))) (16 * (j + 1 - i))

/-- The table entries that fetching at the program counter reads, up to the one that it finds (R306). -/
def State.tableFetched (s : State) : State :=
  match s.core.bankOf s.thr.pc.toNat, s.findSeg s.thr.pc.toNat with
  | none, .inl (some (i, _)) => s.tableReach 0 i
  | none, _ => match s.segCount with | .inl n => s.tableReach 0 (min n 255 - 1) | .inr _ => s
  | some _, _ => s

/-- A request for a background copy of a segment (R307, R422): it has no effect while any copy is under way, where the segment
is resident, or where the table cannot be read. -/
def State.requestSegment (s : State) (i : Nat) : State :=
  if s.fw || s.core.copying.isSome || s.core.resident i then s
  else match s.segCount, s.segEntry i with
    | .inl n, .inl (st, len, img) => if i < n then (s.tableReach i i).setCore (s.core.startCopy ⟨i, st, len, img⟩) else s
    | _, _ => s

/-- What fetching at the program counter finds. -/
inductive Fetch where
  | trap (t : TrapInfo)
  | stall (seg : SegCopy)
  | bytes (active : Bool) (l : List Byte)
  deriving DecidableEq, Repr

/-- The bytes from a code address to the end of its 64-byte line, as far as the reader knows them. -/
def State.lineBytes (s : State) (x : Nat) : List Byte :=
  (List.range (64 - x % 64)).map fun i => (s.codeByte (x + i)).getD 0

/-- Fetch at the program counter (R305 to R307, R422). -/
def State.fetch (s : State) : Fetch :=
  let x := s.thr.pc.toNat
  if s.fw then .bytes false (s.lineBytes x)
  else match s.core.bankOf x with
    | some (b, _) => .bytes b (s.lineBytes x)
    | none =>
      match s.findSeg x with
      | .inr t => .trap t
      | .inl none =>
        .trap { cause := cSegment, detail := if s.core.viaBranch then 1 else 3
                addr := BitVec.ofNat 64 (match s.segCount with | .inl n => n | .inr _ => 0) }
      | .inl (some (i, st, len, img)) =>
        match s.core.segFails.find? fun x => x.1 = i with
        | some (_, t) => .trap t
        | none => .stall ⟨i, st, len, img⟩

/-- The failed segment that a fetch at the program counter needs: its fault is raised now, and the next fetch of it starts a new copy
(R307). Log 102. -/
def State.failRaised (s : State) : List (Nat × TrapInfo) :=
  match s.fetch, s.findSeg s.thr.pc.toNat with
  | .trap _, .inl (some (i, _)) => s.core.segFails.filter fun x => x.1 ≠ i
  | _, _ => s.core.segFails

/-- The image line of the first poisoned word among n bytes at the program counter (POISON DETAIL 1, R254). Log 25. -/
def State.fetchPoison (s : State) (n : Nat) : Option DWord :=
  let x := s.thr.pc.toNat
  if s.fw then none
  else (s.core.bankOf x).bind fun y =>
    ((unitsOf 8 (x - y.2.start) n).find? fun w => y.2.poison.has w).map fun w =>
      y.2.img + BitVec.ofNat 64 (8 * w / 128 * 128)

end Sys2Proof.Machine
end

