-- ==== Sys2Proof/Machine/HostRegs.lean ====
section
/-! DEFINITION. Device registers as software reads them (R5, R6, R270 to R272, R278, R286, R310, R314, R338, R361, R368, R369, R372,
R374, R378, R379, R389, R398 to R404), and the page-request FIFO (R403). -/

namespace Sys2Proof.Machine

/-- A bit at a place. -/
def flag (b : Bool) (k : Nat) : Nat := if b then 2 ^ k else 0

/-- Installed L2 in MiB (R270): the upper SRAM die holds half. -/
def Die.l2m (d : Die) : Nat := if d.upper then 1024 else 512

/-- L2CV as a word (R271). -/
def Die.l2cv (d : Die) : Nat := d.race + d.psb * 2 ^ 12 + d.spill * 2 ^ 24 + d.pool * 2 ^ 36

/-- The registers of a die, by their offset in its block (R270, R271, R286, R404). -/
def Die.reg (d : Die) : Nat → Nat
  | 0 => d.l2m + 1024 * 2 ^ 16 + 96 * 2 ^ 32 + flag d.upper 40
  | 8 => d.l2cv + (d.l2m - (d.race + d.psb + d.spill + d.pool)) * 2 ^ 48
  | 16 => d.l2cv
  | 24 => d.ce + d.ue * 2 ^ 32 + flag d.poolOvf 49
  | 32 => d.rasa.toNat
  | 40 => d.temp.toNat
  | _ => 0

/-- PGRQ's head as a read returns it (R403). -/
def HostIf.pageHead (h : HostIf) : Nat :=
  match h.pgrq with
  | (va, q) :: _ => 2 ^ 63 + bits va.toNat 12 46 * 2 ^ 12 + q
  | [] => 0

/-- The registers of the first page (R372, R379, R389, R399, R401 to R404). -/
def State.bootReg (s : State) : Nat → Nat
  | 0x08 => s.trust.bootVer.toNat * 2 ^ 32 + s.trust.svn.toNat * 2 ^ 16 + s.trust.bootCode * 2 ^ 8 + flag s.trust.bootBusy 0
  | 0x10 => flag s.host.qen 3 + flag s.host.trdone 2 + flag s.host.trerr 0
  | 0x18 => s.host.intst.toNat
  | 0x20 => s.host.cap.toNat
  | 0x28 => s.host.clk.toNat + s.host.pwr.toNat * 2 ^ 16 + flag s.host.plim 32 + flag s.host.tlim 33
  | 0x30 => s.host.wg.toNat
  | 0x40 => s.host.lkDrain.toNat * 2 ^ 32 + s.host.lkKms.toNat * 2 ^ 8 + s.host.lkIlims.toNat
  | 0x48 => s.trust.rlen.toNat * 2 ^ 32 + s.trust.slen.toNat * 2 ^ 16 + flag s.trust.mbDone 0
  | 0x50 => s.trust.nsvn.toNat
  | 0x58 => s.host.pageHead
  | 0x68 => s.host.w4base.toNat * 2 ^ 30
  | _ => 0

/-- LKERR and FARB of a port (R389, R368). -/
def Port.lkerr (p : Port) : Nat := p.drops.toNat + p.retries.toNat * 2 ^ 32 + flag p.fail 63
@[inherit_doc Port.lkerr] def Port.farb (p : Port) : Nat := p.wcol.toNat + p.wcpy.toNat * 2 ^ 8 + p.wcmp.toNat * 2 ^ 16

/-- A word of the freeze log (R378), or its overflow count. -/
def State.freezeReg (s : State) (o : Nat) : Nat :=
  if o = 0x400 then s.trust.freezeOvf
  else match s.trust.freezes[o / 16]? with
    | some e => if o % 16 = 8 then e.addr.toNat else e.kind + e.reason * 2 ^ 8 + e.number % 2 ^ 16 * 2 ^ 16
    | none => 0

/-- A context entry's words (R278): bits 63 to 0 at offset 0, KEYMASK at 8. -/
def Context.reg (c : Context) : Nat → Nat
  | 0 => flag c.v 0 + flag c.job 1 + c.root.toNat * 2 ^ 14
  | _ => c.keymask.toNat

/-- A pool entry's words (R314). -/
def Pool.reg (p : Pool) : Nat → Nat
  | 0 => p.tag.toNat + p.base.toNat * 2 ^ 7
  | _ => p.lines.toNat + p.ctx.toNat * 2 ^ 40 + flag p.v 63

/-- A predictor slot's words (R310). -/
def Predictor.reg (p : Predictor) : Nat → Nat
  | 0 => p.h0.toNat + p.h1.toNat * 2 ^ 32
  | 8 => p.h2.toNat + p.h3.toNat * 2 ^ 32
  | 16 => p.nh + p.miss.toNat * 2 ^ 16
  | _ => 0

/-- QBASE, QCFG and QSTAT of a queue (R338). -/
def Queue.reg (q : Queue) : Nat → Nat
  | 0 => q.base.toNat
  | 8 => q.lsz.toNat + q.evec.toNat * 2 ^ 5 + q.quant.toNat * 2 ^ 16 + q.prio.toNat * 2 ^ 38 + q.weight.toNat * 2 ^ 40 +
      q.ctx.toNat * 2 ^ 48 + flag q.priv 62 + flag q.en 63
  | 16 => q.ridx.toNat * 2 ^ 32 + flag q.nerr 9 + flag q.pend 8 + q.st
  | _ => 0

/-- TRGC and TRGA of a trigger counter (R361). -/
def Trigger.reg (t : Trigger) : Nat → Nat
  | 0 => t.val.toNat
  | _ => flag t.en 63 + t.ctx.toNat * 2 ^ 8

/-- A route entry (R369). -/
def Route.word (r : Route) : Nat := flag r.v 15 + flag r.att 14 + r.port.toNat

/-- The 8-byte register at an aligned BAR0 offset (R398); offsets not listed read zero (R6). -/
def State.deviceReg (s : State) (o : Nat) : Nat :=
  if o < 0x1000 then s.bootReg o
  else if o < 0x1200 then (s.die ((o - 0x1000) / 64)).reg (o % 64)
  else if o < 0x2000 then 0
  else if o < 0x2080 then (tget {} s.ports (o % 0x80 / 8)).lkerr
  else if o < 0x2100 then (tget {} s.ports (o % 0x80 / 8)).farb
  else if o < 0x3000 then 0
  else if o < 0x3408 then s.freezeReg (o - 0x3000)
  else if o < 0x10000 then 0
  else if o < 0x11000 then (s.context ((o - 0x10000) / 16)).reg (o % 16)
  else if o < 0x11400 then (tget {} s.pools ((o - 0x11000) / 16)).reg (o % 16)
  else if o < 0x12000 then 0
  else if o < 0x14000 then (tget {} s.preds ((o - 0x12000) / 32)).reg (o % 32)
  else if o < 0x20000 then 0
  else if o < 0x28000 then (tget {} s.queues ((o - 0x20000) / 32)).reg (o % 32)
  else if o < 0x40000 then 0
  else if o < 0x48000 then (tget {} s.triggers ((o - 0x40000) / 4096 * 256 + o % 4096 / 16)).reg (o % 16)
  else 0

/-- A byte of BAR0 (R398): of the route table, the mailbox buffers, the staging memory, or a register. -/
def State.deviceByte (s : State) (o : Nat) : Byte :=
  if 0x100000 ≤ o && o < 0x120000 then
    BitVec.ofNat 8 ((tget {} s.routes ((o - 0x100000) / 2)).word / 2 ^ (8 * (o % 2)))
  else if 0x200000 ≤ o && o < 0x210000 then s.trust.mbReq.byte (o - 0x200000)
  else if 0x210000 ≤ o && o < 0x220000 then s.trust.mbResp.byte (o - 0x210000)
  else if 0x400000 ≤ o && o < 0x800000 then s.trust.staging.byte (o - 0x400000)
  else if 0x4000000 ≤ o then 0xFF
  else BitVec.ofNat 8 (s.deviceReg (o / 8 * 8) / 2 ^ (8 * (o % 8)))

/-- The n bytes of BAR0 at an offset, as a number (R398). -/
def State.deviceRead (s : State) (off n : Nat) : Nat := bytesNat ((List.range n).map fun i => s.deviceByte (off + i))

/-- The n bytes of BAR2 at an offset (R339, R397): WIDX of a queue, its last accepted value; the rest of a notify page reads zero, and what
is beyond BAR2 all ones. -/
def State.notifyRead (s : State) (off n : Nat) : List Byte :=
  (List.range n).map fun i =>
    let o := off + i
    if 0x400000 ≤ o then 0xFF
    else if o % 4096 < 4 then BitVec.ofNat 8 ((tget {} s.queues (o / 4096)).widx.toNat / 2 ^ (8 * (o % 4096))) else 0

/-- A read of PGRQ removes its oldest entry; a request that waited takes the place (R403). -/
def State.popPage (s : State) : State :=
  let q := s.host.pgrq.drop 1 ++ s.host.pgWait.take 1
  { s with host := { s.host with pgrq := q, pgWait := s.host.pgWait.drop 1 } }

end Sys2Proof.Machine
end

