-- ==== Sys2Proof/Machine/Commit.lean ====
section
/-! DEFINITION. Issue, hold and commit of a bundle (R74 to R81, R113, R117): looking at a slot, applying the effects of a bundle
in slot order, sequential advance with the loop check, taken branches, waits that end by timeout or suspension, and void
bundles. -/

namespace Sys2Proof.Machine

/-! ### Looking at a slot (R70, R74, R77, R79, R80) -/

/-- The guard of a slot (R70). -/
def Thread.guard (t : Thread) (w : SlotWord) : Bool := t.getP w.pred.toNat != w.pn

/-- What a slot contributes: the encoding checks; the guard; the holds of R74, its own among them; ILLEGAL_OP and PRIVILEGE at issue (`ill`);
LATENCY_CHECK; and the instruction's own look (`issue`), with what the operand forms add. `enc` is the instruction's
encoding check that needs the bundle's address (R112). -/
def State.lookSlot (s : State) (i : Instr) (w : SlotWord) (k : Nat) (enc ill : Option TrapInfo) (issue : State → Res) : Res :=
  match encErr s.fw i with
  | some d => .enc (trapAt k cIllegalOp d)
  | none =>
    match enc with
    | some t => .enc t
    | none =>
      let sel := match i with | .csel _ => true | _ => false
      if s.thr.locked (.p w.pred.toNat) then .hold {} []
      else if !sel && !s.thr.guard w then .off
      else if (uses s i).any fun u => s.thr.locked u.reg then .hold {} []
      else if (streamUses i).any fun x => (s.streamBad x).isNone && !s.streamReady x then .hold { wlim := true } []
      else if s.roomHold i then .hold {} []
      else match (s.heldErr k i).or (ill.or (s.latencyErr k i)) with
        | some t => .trap t []
        | none => match issue s with
          | .ok es => .ok (es ++ streamEffs i ++ s.holdEffs k i)
          | r => r

/-! ### Effects (R77) -/

/-- The job slot that binds a context, or a number of its own for a context without a job (R382). Log 55. -/
def State.jobKey (s : State) (ctx : Nat) : Nat :=
  (s.trust.jobs.findSome? fun x => x.2.bind fun j => if j.ctxs.contains ctx then some x.1 else none).getD (8 + ctx)

/-- The group indices that a record's loop nest reaches (R357). -/
def Record.reached (r : Record) : List Nat :=
  r.levels.foldl (fun (gs : List Nat) (l : Level) =>
    (gs.flatMap fun (g : Nat) => (List.range (min l.bound r.gsize)).map fun (i : Nat) => (((g : Int) + l.coef * (i : Int)) % (r.gsize : Int)).toNat).eraseDups)
    [r.pbase % r.gsize]

/-- The switches on the path to a rank (R382). -/
def Job.path (j : Job) (rank : Nat) : List Nat := ((j.paths.find? fun p => p.1 = rank).map Prod.snd).getD []

/-- The switches on the routes of a put-reduce's destination ranks that take the in-switch path when it starts (R360, R369). -/
def State.switchesOf (s : State) (r : Record) : List Nat :=
  match tget none s.trust.jobs (s.jobKey r.ctx) with
  | none => []
  | some j =>
    let att := r.ranks.filter fun k => k ≠ j.rank && (tget {} s.routes k).att
    if r.op ≠ 2 || att = [] then []
    else (att.filter (r.reached.map fun g => r.ranks.getD g 0).contains).flatMap j.path

/-- A collective record starts (R357, R360): it takes its place in the walker's order and chooses its reduction paths. -/
def State.startRecord (s : State) (i : Nat) : State :=
  { s.takeToken with records := tmod none s.records i (Option.map fun r =>
      { r with started := true, order := s.tokens, inSwitch := s.switchesOf r }) }

/-- A trigger increment (R361, R362): the counter saturates, and every armed record with v < THR ≤ v′ starts, in ascending THR,
ties in arming order. Log 72. -/
def State.trigAdd (s : State) (counter amount : Nat) : State :=
  let t := tget {} s.triggers counter
  let v := t.val.toNat
  let v' := min (v + amount) (2 ^ 64 - 1)
  let fire := sortBy Armed.thr (s.armed.filter fun a => a.counter = counter && v < a.thr && a.thr ≤ v')
  let s := { s with
    triggers := tset {} s.triggers counter { t with val := BitVec.ofNat 64 v' }
    armed := s.armed.filter fun a => !(a.counter = counter && v < a.thr && a.thr ≤ v') }
  fire.foldl (fun s a => s.startRecord a.record) s

/-- The context in which a trigger handle is judged: a firmware core has none, and counts as context 0. Log 113. -/
def trigCtx (ctx : Nat) : Nat := if ctx < 256 then ctx else 0

/-- The counter that a trigger handle names for a context (R169, R361); none where it names no enabled counter. -/
def State.trigCounter (s : State) (handle : DWord) (ctx : Nat) : Option Nat :=
  let h := handle.toNat
  if 2 ^ 11 ≤ h then none
  else
    let t := tget {} s.triggers h
    if t.en && t.ctx.toNat = ctx then some h else none

/-- Put a walk for an address on the die's list, unless the core already waits for one of that page (R283). -/
def State.askWalk (s : State) (va : DWord) (need : Need) : State :=
  let w : Walk := ⟨s.ctxOf, va, s.cur, need⟩
  s.modDie (dieOf s.cur) fun d =>
    if d.walks.any fun x => x.core = w.core && x.ctx = w.ctx && x.va.toNat / 16384 = va.toNat / 16384 then d
    else { d with walks := d.walks ++ [w] }

/-- GRAB at commit (R124, R287, R288): the thread's earlier GRAB chunk retires, the walker answers, and the answer is an
interlocked result. The latch takes the predicate, the last of its three results. -/
def State.grabAsk (s : State) (d p : Nat) : State :=
  let tid := s.thr.ctl.tid.toNat
  let s := s.modLaunch s.thr.launch fun l => l.retireGrab tid
  let (s, g) := s.grant s.thr.launch (dieOf s.cur) (some tid)
  let prov := match g, s.myLaunch with | some (f, _), some l => l.isProv f | _, _ => false
  let (f, n) := g.getD (0, 0)
  let l : Landing :=
    { due := s.now, latch := some (0, .scalar (if g.isSome then 1 else 0))
      writes := [.scalar d (BitVec.ofNat 64 f), .scalar (d + 1) (BitVec.ofNat 64 n), .pred p g.isSome] }
  s.modThr fun t =>
    { t with
      ilocks := t.ilocks ++ [⟨[.s d, .s (d + 1), .p p], some l, 0, false, none⟩]
      step := if g.isSome then f else t.step
      ctl := if g.isSome then { t.ctl with prov := prov } else t.ctl }

/-- Hand a matrix command to the engine (R202): its token and its commit cycle, and for AMVR the interlock of its destination
registers (R204). -/
def State.pushX (s : State) (op : XOp) (r w : List Nat) : State :=
  let c : Core := { s.core with xq := s.core.xq ++ [{ op := op, token := s.tokens, commit := s.now, reads := r, writes := w }] }
  let c : Core := match op with
    | .amvr _ _ n vd _ => { c with thr := { c.thr with ilocks := c.thr.ilocks ++ [⟨vregs vd n, none, s.tokens, false, none⟩] } }
    | _ => c
  { s with core := c.startX s.now, tokens := s.tokens + 1 }

/-- Hand a command to the scan engine (R231): its token and its commit cycle; an open SCHK or SFIX holds its streams (R222), and the
destination registers of SRD are interlocked (R229). -/
def State.pushN (s : State) (op : NOp) (u uw b bw : List Nat) : State :=
  let x : NCmd := { op := op, token := s.tokens, commit := s.now, units := u, uwr := uw, blocks := b, bwr := bw }
  let t := match op with
    | .srd _ _ n vd wb _ =>
      { s.thr with ilocks := s.thr.ilocks ++ [⟨if wb then vregs vd n else [], none, s.tokens, false, none⟩] }
    | .schk _ _ _ d | .sfix _ _ _ d => { s.thr with q := d.streams.foldl (fun v q => vset v q { vget {} v q with engine := some s.tokens }) s.thr.q }
    | _ => s.thr
  { s with core := ({ s.core with nq := s.core.nq ++ [x], thr := t } : Core).startN s.now, tokens := s.tokens + 1 }

/-- The bytes of a bit vector, least significant first. -/
def bvBytes {w : Nat} (x : BitVec w) : List Byte := natBytes (w / 8) x.toNat

/-- ILIM and KEYMARGIN that LKCFG holds now (R389). -/
def State.linkLimits (s : State) : Nat × Nat := (2 ^ s.host.lkIlims.toNat, 2 ^ s.host.lkKms.toNat)

/-- The AES key and the IV of a flit under a derived key (R385). -/
def flitKey (k : BitVec 288) (seq : Nat) : BitVec 256 × BitVec 96 :=
  (k.setWidth 256, BitVec.ofNat 96 (k.toNat / 2 ^ 256 + seq * 2 ^ 32))

/-- The first 16 bytes of a flit, its associated data (R384). -/
def flitHeader (seq : DWord) (kind kf : Byte) (src dst : Half) : List Byte :=
  bvBytes seq ++ [kind, kf] ++ bvBytes src ++ bvBytes dst ++ [0, 0]

/-- The reduction key of this package in a job, and the next flit under it (R385, R388): at ILIM − KEYMARGIN/2 the next generation is used,
with the present LKCFG values. Log 69. -/
def RedKey.next (k : RedKey) (lim : Nat × Nat) : RedKey :=
  if k.seq + 1 < k.ilim - k.margin / 2 then { k with seq := k.seq + 1 } else ⟨k.gen + 1, 0, lim.1, lim.2⟩

/-- The fields of a contribution that its flit carries. -/
def partFields (c : Contribution) : List Nat :=
  [c.rid, c.addr.toNat, c.level, c.index, c.value.toNat, c.group, c.ifmt, c.afmt, c.ofmt, c.rop, flag c.failed 0]

/-- Derive of R385 for the reduction key and salt of a source: a rank under "AJ8-RED", or a switch under "AJ8-REDSW". -/
def Job.redKeyOf (j : Job) (switch : Bool) (k : KeySlot) (src : Nat) : BitVec 288 :=
  let kr := ((j.ekeys.find? fun e => e.1 = k.epoch).map fun e => bvBytes e.2.kr).getD []
  let label : List Byte := [0x41, 0x4A, 0x38, 0x2D, 0x52, 0x45, 0x44] ++ if switch then [0x53, 0x57] else []
  Config.shake288 (kr ++ label ++ natBytes 4 k.epoch ++ natBytes 2 src ++ [0xFF, 0xFF] ++ natBytes 4 k.gen)

/-- The flit in which this package sends a contribution (R384, R385): under Derive(KR[e], "AJ8-RED", e, rank, 0xFFFF, g), with KF.RED = 1
and the key slot that its generation's parity names. Log 69. -/
def Job.redFlit (j : Job) (c : Contribution) : Flit :=
  let ki := flitKey (j.redKeyOf false ⟨j.epoch, j.red.gen⟩ j.rank) j.red.seq
  let seq : DWord := BitVec.ofNat 64 j.red.seq
  let kf : Byte := BitVec.ofNat 8 (2 + j.red.gen % 2)
  let x := Config.gcmSeal ki.1 ki.2 (flitHeader seq 1 kf (BitVec.ofNat 16 j.rank) (BitVec.ofNat 16 c.home)) (Config.partBody (partFields c))
  { seq := seq, kind := 1, kf := kf, src := BitVec.ofNat 16 j.rank, dst := BitVec.ofNat 16 c.home, ct := x.1, tag := x.2 }

/-- A contribution leaves for its home in another package, under its job's reduction key (R357, R359, R385); without a locked job there is no
key to seal it with. Log 69. -/
def State.sendPart (s : State) (c : Contribution) : State :=
  match tget none s.trust.jobs c.job with
  | none => s.send (.contribution c none)
  | some j =>
    ({ s with trust := { s.trust with jobs := tset none s.trust.jobs c.job (some { j with red := j.red.next s.linkLimits }) } } : State).send
      (.contribution c (some (j.redFlit c)))

/-- One effect of a bundle at its commit (R77). The control effects (jump, suspension, exit, SYSC, RETH) act in `finish`. Log 3. -/
def applyEff (s : State) : Eff → State
  | .land l => s.modThr fun t => { t with flight := t.flight ++ [l] }
  | .ilock i =>
    let s := s.modThr fun t => { t with ilocks := t.ilocks ++ [i] }
    if i.token = 0 then s else s.takeToken
  | .scratch core off bs =>
    (s.modCore core fun c => c.onClaim s.thr.launch fun c => c.putScratch off bs).endSeq (s.padLoc core off) bs.length
  | .full core word b rel =>
    (s.modCore core fun c => c.onClaim s.thr.launch fun c => { c with full := c.full.put word b }).tagSet s.thr.launch core [word] rel
  | .pin pa n => s.pin pa n
  | .mem pa key bs => (s.writePA key pa bs).endSeq pa bs.length
  | .prov i => s.buffer i
  | .release loc n scope => s.release loc n (s.here scope)
  | .race pa wr => s.raceNote s.accessor pa wr
  | .sent va r => s.owe va r
  | .contribute c own => if own then { s with inputs := .reduceArrival c :: s.inputs } else s.sendPart c
  | .mmst b => s.modThr fun t => { t with ctl := { t.ctl with mmst := t.ctl.mmst ||| b } }
  | .loopPush e => s.modThr fun t => { t with loops := e :: t.loops }
  | .loopPop => s.modThr fun t => { t with loops := t.loops.drop 1 }
  | .mtc n x => s.setCore (s.core.mtc n.toNat x)
  | .failClear w => s.modThr fun t => { t with fails := t.fails.filter fun f => f.ctr ≠ w }
  | .phase _ => s.modThr fun t => { t with arrived := none }
  | .lease => s.takeFrame.leaseEngine s.thr.frame.isNone
  | .unlease => s.unleaseEngine
  | .segCopy i => s.requestSegment i
  | .grabAsk d p => s.grabAsk d p
  | .streamTake q =>
    let b := vget {} s.thr.q q
    let drop := (b.words 0).any fun k => s.tagDrop (s.padLoc s.cur (8 * k)) scopeDie
    let s := (s.setCore { s.core with full := s.core.full.putAll (b.words 0) false }).tagSet s.thr.launch s.cur (b.words 0) false
    s.modThr fun t =>
      { t with q := vset t.q q b.step, ctl := { t.ctl with mmst := if drop then t.ctl.mmst ||| mmDrop else t.ctl.mmst } }
  | .streamOwe q => s.modThr fun t => { t with q := vset t.q q { vget {} t.q q with flying := (vget {} t.q q).flying + 1 } }
  | .holdS k x => s.modThr fun t => { t with held := t.held.putS k (some x) }
  | .holdV k x => s.modThr fun t => { t with held := t.held.putV k (some x) }
  | .unhold k => s.modThr fun t => { t with held := t.held.clear k }
  | .bind q b => s.modThr fun t => { t with q := vset t.q q b }
  | .unbind q => s.modThr fun t => { t with q := vset t.q q {} }
  | .counter w => s.modThr fun t => t.counterAdd w 1
  | .copy c => { s with copies := tset none s.copies s.tokens (some { c with no := s.tokens }), tokens := s.tokens + 1 }
  | .coll a _ rel =>
    let (ctx, die) := if s.fw then (s.cur, dieA) else (s.ctxOf, dieOf s.cur)
    let r : Record := { launch := s.thr.launch, ctx := ctx, user := s.user, packet := none, addr := a, die := die
                        who := some s.me, step := s.thr.step, pc := s.core.bun.addr, rel := rel }
    { s with records := tset none s.records s.tokens (some r), tokens := s.tokens + 1 }
  | .trig h a => match s.trigCounter h s.ctxOf with
    | some c => s.trigAdd c a.toNat
    | none => s
  | .xcmd op r w => s.pushX op r w
  | .ncmd op u uw b bw => s.pushN op u uw b bw
  | .mcfg c => s.modThr fun t => { t with mcfg := some c, mwin := none, mctr := (0, 0, 0) }
  | .mwin w => s.modThr fun t => { t with mwin := some w }
  | .mctr c => s.modThr fun t => { t with mctr := c }
  | .patsw => s.modThr fun t => { t with bank := !t.bank }
  | .sopd n x => s.modThr fun t => { t with o := vset t.o n x }
  | .walk va n => s.askWalk va n
  | .arrive level =>
    let s := s.modThr fun t => { t with arrived := some level }
    s.tryPhase s.thr level
  | .device off bs => { s with inputs := .registerWrite off bs :: s.inputs }
  | .popPage => s.popPage
  | .remote r w va bs => s.send (.remote r w va bs)
  | .atom pa key bs => s.writePA key pa bs
  | .padAtom core off bs => s.modCore core fun c => c.onClaim s.thr.launch fun c => c.putScratch off bs
  | .remoteAtom r op n va b d tok => s.send (.remoteAtom r op n va b d tok)
  | .remoteBar r va n => s.send (.remoteBar r va n)
  | .barvSent a => s.modThr fun t => { t with barv := some a }
  | .draw => s.draw
  | .abortSeen u => s.setCore { s.core with aborted := s.core.aborted.put u false }
  | .violation a r => s.violate s.cur a r
  | .jump _ | .suspend | .exit | .sysc _ | .reth => s

/-- Apply effects in order. -/
def applyAll (s : State) (es : List Eff) : State := es.foldl applyEff s

/-! ### Advance (R75, R113) -/

/-- The loop check of R113 on the next fetch address: the loop stack, the next address, and the rotation's new p16 where the
stage predicates rotate. -/
def loopCheck : List LoopEntry → DWord → List LoopEntry × DWord × Option Bool
  | [], a => ([], a, none)
  | e :: es, a =>
    if a = e.stop then
      if e.remaining > 1 then
        ({ e with remaining := e.remaining - 1, started := if e.rot then e.started + 1 else e.started } :: es, e.start,
          if e.rot then some (decide (e.started < e.drainN)) else none)
      else loopCheck es a
    else (e :: es, a, none)

/-- Sequential advance after the bundle (R75, R113). -/
def State.advance (s : State) : State :=
  let b := s.core.bun
  let (ls, next, rot) := loopCheck s.thr.loops (s.skipPad (b.addr + BitVec.ofNat 64 b.len))
  let fl := match rot with
    | some p => s.thr.flight ++ [{ due := s.now + 1, writes := [.rotate p] }]
    | none => s.thr.flight
  s.setCore { s.core with
    thr := { s.thr with loops := ls, pc := next, flight := fl }
    nextIssue := s.now + 1 + b.idle, viaBranch := false }

/-- A taken branch (R13, R75, R110). -/
def State.branch (s : State) (target : DWord) : State :=
  s.setCore { s.core with
    thr := { s.thr.clearLatches with pc := target }
    nextIssue := s.now + 3 + s.core.bun.idle, viaBranch := true }

/-- The target of a taken branch among a bundle's effects. -/
def jumpOf (es : List Eff) : Option DWord := es.findSome? fun e => match e with | .jump t => some t | _ => none

/-- SYSC's number among a bundle's effects. -/
def syscOf (es : List Eff) : Option (BitVec 8) := es.findSome? fun e => match e with | .sysc n => some n | _ => none

/-- A trap entry is under way on a core: the handler's first bundle has not issued (R75, R255). -/
def Core.entering (c : Core) (now : Nat) : Bool :=
  c.thr.ctl.hnd && c.thr.pc = c.thr.ctl.hbase + BitVec.ofNat 64 (64 * c.thr.ctl.ecause.toNat) && now < c.nextIssue

/-- Ask the core to freeze at cycle z for a reason, taking a spill frame (R299, R302, R304); a trap entry that is under way completes
first (R258). -/
def State.freezeAt (s : State) (z reason : Nat) : State :=
  let s := s.takeFrame
  s.setCore { s.core with freezeReq := some (if s.core.entering s.now then max z s.core.nextIssue else z, reason) }

/-- The background copy that the header's SEG field asks for (R57, R307): the segment after the one that holds the bundle. -/
def State.askNext (s : State) : State :=
  match s.core.bun.seg, s.core.bankOf s.core.bun.addr.toNat with
  | true, some (_, g) => s.requestSegment (g.index + 1)
  | _, _ => s

/-- The freeze asked for, when a BARV's arrival is over with its bundle: where it waited for the arrival, it falls due at the next cycle
(R299, R409). -/
def State.barvFreeze (s : State) : Option (Nat × Nat) :=
  if s.thr.barv.isSome then s.core.freezeReq.map fun x => (max x.1 (s.now + 1), x.2) else s.core.freezeReq

/-- A bundle is over: a BARV's arrival is no longer in flight (R409), break_skip is cleared (R77) and no cycle of waiting is counted
(R117). -/
def State.bundleOver (s : State) : State :=
  s.setCore { s.core with thr := { s.thr with barv := none, breakSkip := false, waited := 0, wlimF := none }, freezeReq := s.barvFreeze }

/-- The bundle has issued: its wait is over (R117). -/
def State.waitOver (s : State) : State :=
  s.setCore { s.core with
    thr := { s.thr with barv := none, breakSkip := false, waited := 0, wlimF := none }, freezeReq := s.barvFreeze
    waitInfo := none, wfaults := [], found := [] }

/-- What the bundle does after its effects: the SEG copy, and where control goes (R75, R110, R113, R121, R122, R125, R126). -/
def State.finish (s : State) (es : List Eff) : State :=
  let s := s.askNext.waitOver
  if es.contains .reth then
    s.returnTrap.setCore { s.returnTrap.core with nextIssue := s.now + 3 }
  else match jumpOf es with
    | some t => s.branch t
    | none =>
      let s := s.advance
      match syscOf es with
      | some n => s.takeTrap { cause := cSoftTrap, detail := n } s.thr.pc s.core.bun.addr
      | none =>
        if es.contains .suspend then s.freezeAt (s.now + 1) 1
        else if es.contains .exit then (s.setCore { s.core with exiting := true }).tryExit
        else s

/-- Commit a bundle (R77). Log 3. -/
def State.commitBundle (s : State) (es : List Eff) : State := (applyAll s es).finish es

/-! ### Holding (R74, R117) -/

/-- The bounded wait with the least limit, the first in slot order among equal ones; none where no wait is bounded. -/
def leastLimit : List (Nat × WaitInfo) → Option (Nat × WaitInfo)
  | [] => none
  | w :: ws => match leastLimit ws with
    | some v => if w.2.limit = 0 || v.2.limit < w.2.limit then some v else some w
    | none => if w.2.limit = 0 then none else some w

/-- What a held bundle waits for: its holds count the same cycles, so the bounded wait with the least limit is the first to reach it
(R117, R151, R159); WLIM applies where it applies to one of the holds. -/
def waitOf (ws : List (Nat × WaitInfo)) : Nat × WaitInfo :=
  let w := (leastLimit ws).getD (0, {})
  (w.1, { w.2 with wlim := ws.any fun x => x.2.wlim })

/-- A wait whose limit is reached raises WAIT_TIMEOUT (R117, R151, R159, R225). -/
def State.timeout (s : State) (slot : Nat) (w : WaitInfo) : State :=
  s.takeTrap { cause := cWaitTimeout, detail := w.detail, slot := BitVec.ofNat 3 slot } s.thr.pc

/-- A wait that holds for WLIM cycles turns the thread into a continuation with reason 2 (R117, R304). Log 82. -/
def State.waitOut (s : State) : State :=
  let s := s.freezeAt s.now 2
  s.setCore { s.core with nextIssue := s.now }

/-- A bundle holds at issue (R74, R117): it has been decoded, so break_skip is clear (R77); what the device does meanwhile is done,
the cycle is counted, and the wait ends by its limit or at WLIM where the count has reached them. -/
def State.holdBundle (s : State) (hs : List (Nat × WaitInfo)) (es : List Eff) : State :=
  let s := (applyAll s es).modThr fun t => { t with breakSkip := false }
  let (k, w) := waitOf hs
  let lim := s.thr.wlimF.getD s.thr.ctl.wlim.toNat
  if w.limit ≠ 0 ∧ w.limit ≤ s.thr.waited then s.timeout k w
  else if w.wlim && lim ≤ s.thr.waited && s.frameFree && !s.fw then
    (s.modThr fun t => { t with wlimF := some lim }).waitOut
  else s.setCore { s.core with
    thr := { s.thr with waited := s.thr.waited + 1, wlimF := if w.wlim then some lim else s.thr.wlimF }
    waitInfo := some { w with slot := k }, nextIssue := s.now + 1 }

/-! ### Closing a bundle (R77, R80, R266) -/

/-- Whether an exception of a provisional step is deferred (R266). -/
def State.defers (s : State) (t : TrapInfo) : Bool := s.thr.ctl.prov && (t.cause = causeXlate || t.cause = causeProtect)

/-- A void bundle (R80): the effects that stand although it is void, then the exception, which a provisional step defers where
R266 says so. Cause 0 marks a violation of the access windows, whose effect freezes the core (R375). -/
def State.voidBundle (s : State) (t : TrapInfo) (es : List Eff) : State :=
  let s := (applyAll s es).bundleOver
  if t.cause = 0 then s
  else if s.defers t then
    s.setCore { s.core with
      thr := { s.thr with deferred := some ⟨t⟩ }, stage := none, waitInfo := some { wlim := true }, nextIssue := s.now + 1 }
  else s.takeTrap t s.thr.pc

/-- The holds, with what the device does meanwhile. -/
def holdsOf (rs : List (Nat × Res)) : List (Nat × WaitInfo) :=
  rs.filterMap fun r => match r.2 with | .hold w _ => some (r.1, w) | _ => none
/-- What the device does while the slots hold. -/
def holdEffsOf (rs : List (Nat × Res)) : List Eff := rs.flatMap fun r => match r.2 with | .hold _ es => es | _ => []
/-- The requests that the bundle sends before it issues (R409). -/
def sendsOf (rs : List (Nat × Res)) : List Eff := rs.flatMap fun r => match r.2 with | .send es => es | _ => []
/-- The first exception in slot order, with the effects that stand (R80). Log 88. -/
def trapOf (rs : List (Nat × Res)) : Option (TrapInfo × List Eff) :=
  rs.findSome? fun r => match r.2 with | .trap t es => some (t, es) | .enc t => some (t, []) | _ => none
/-- The effects of every slot, in slot order. -/
def effsOf (rs : List (Nat × Res)) : List Eff := rs.flatMap fun r => match r.2 with | .ok es => es | _ => []

/-- The increments of a bundle's slots would together take some wait counter above 65,535 (R15, R74); a slot alone looks for itself. -/
def State.countersFull (s : State) : List (Nat × Res) → Bool
  | x :: y :: rs => (List.range 4).any fun w => 65535 < (vget 0 s.thr.w w).toNat + (effsOf (x :: y :: rs)).count (.counter w)
  | _ => false

/-- The slots before the first that has failed its encoding checks: those of the others are made at decode, and what later slots wait for
no longer matters (R77, R80). -/
def decoded (rs : List (Nat × Res)) : List (Nat × Res) := rs.takeWhile fun r => match r.2 with | .enc _ => false | _ => true

/-- Close a bundle: it holds while one of its slots holds, or while its increments do not fit their wait counters (R15, R74); then the
first exception in slot order voids it (R77, R80); then the request of a BARV leaves and the bundle holds for the response (R409); a
bundle that neither holds nor raises commits. Log 3, 98. -/
def State.closeBundle (s : State) (rs : List (Nat × Res)) : State :=
  let s := s.setCore { s.core with stage := none }
  let ds := decoded rs
  if holdsOf ds ≠ [] then s.holdBundle (holdsOf ds) (holdEffsOf ds)
  else if s.countersFull rs then s.holdBundle [(0, {})] []
  else match trapOf rs with
    | some (t, es) => s.voidBundle t es
    | none => if sendsOf rs ≠ [] then s.holdBundle [(2, {})] (sendsOf rs) else s.commitBundle (effsOf rs)

/-- Run one slot: alone it is the bundle; while a bundle is being looked at, its result joins the others. -/
def State.runSlot (s : State) (i : Instr) (w : SlotWord) (k : Nat) (enc ill : Option TrapInfo) (issue : State → Res) :
    Ans State :=
  let r := s.lookSlot i w k enc ill issue
  match s.core.stage with
  | some rs => .next (s.setCore { s.core with stage := some (rs ++ [(k, r)]) })
  | none => .next (s.closeBundle [(k, r)])

/-- A parked provisional step (R266): once its PROV is clear the deferred trap is taken; until then the bundle holds. -/
def State.waitParked (s : State) (d : Deferred) : State :=
  if s.thr.ctl.prov then s.holdBundle [(0, { wlim := true })] []
  else (s.modThr fun t => { t with deferred := none }).takeTrap d.info s.thr.pc

end Sys2Proof.Machine
end

