-- ==== Sys2Proof/Machine/Control.lean ====
section
/-! DEFINITION. The C slot (R109 to R129): branches, hardware loops, predicate logic, control-register moves, waits, phases,
suspension, exit, traps and handler control, and the empty bundle (R60). -/

namespace Sys2Proof.Machine

/-- The operand exceptions first, then the instruction's own look. -/
def withOperands (k : Nat) (i : Instr) (f : State → Res) (s : State) : Res :=
  match s.operandErr k i with
  | some t => .trap t []
  | none => f s

/-- Run a C-slot instruction: `ill` is what it raises as ILLEGAL_OP or PRIVILEGE at issue. -/
def State.runC (s : State) (i : Instr) (w : SlotWord) (ill : Option TrapInfo) (f : State → Res) : Ans State :=
  s.runSlot i w 0 none ill (withOperands 0 i f)

/-- The signed halfword offset D ‖ A ‖ B ‖ MOD (R109). -/
def off22 (w : SlotWord) : Int := (w.d ++ w.a ++ w.b ++ w.mod).toInt

/-- The unsigned halfword offset A ‖ B ‖ MOD (R109). -/
def off16 (w : SlotWord) : Nat := (w.a ++ w.b ++ w.mod).toNat

/-- The target of BR and CALL (R110). -/
def State.relTarget (s : State) (w : SlotWord) : DWord := s.core.bun.addr + BitVec.ofInt 64 (2 * off22 w)

/-- The address of the byte that follows the bundle. -/
def State.after (s : State) : DWord := s.core.bun.addr + BitVec.ofNat 64 s.core.bun.len

/-- BR (R110). -/
def issueBr (w : SlotWord) (s : State) : Res := .ok [.jump (s.relTarget w)]
/-- BR (R110). -/
def execBr (w : SlotWord) (s : State) : Ans State := s.runC (.br w) w none (issueBr w)

/-- CALL (R110): s31 and l0 take the return address. -/
def issueCall (w : SlotWord) (s : State) : Res :=
  .ok [.land { due := s.now + 1, writes := [.scalar 31 s.after], latch := some (0, .scalar s.after) }, .jump (s.relTarget w)]
/-- CALL (R110). -/
def execCall (w : SlotWord) (s : State) : Ans State := s.runC (.call w) w none (issueCall w)

/-- A branch to an address in a register: an odd one raises MISALIGN (R110). -/
def jumpTo (t : DWord) : Res := if t.getLsbD 0 then raise 0 cMisalign 0 t else .ok [.jump t]

/-- BRI (R110). -/
def issueBri (w : SlotWord) (s : State) : Res := jumpTo (s.opS 0 w.a)
/-- BRI (R110). -/
def execBri (w : SlotWord) (s : State) : Ans State := s.runC (.bri w) w none (issueBri w)

/-- RET (R110). -/
def issueRet (s : State) : Res := jumpTo (s.thr.getS 31)
/-- RET (R110). -/
def execRet (w : SlotWord) (s : State) : Ans State := s.runC (.ret w) w none issueRet

/-- The end address of a loop instruction (R111). -/
def State.loopEnd (s : State) (w : SlotWord) : DWord := s.core.bun.addr + BitVec.ofNat 64 (2 * off16 w)

/-- The start address of a loop: the first bundle that sequential fetch reaches after the loop instruction (R111). -/
def State.loopStart (s : State) : DWord := s.skipPad s.after

/-- The encoding check of LOOP and LOOPR: E must be greater than the start address (R112). -/
def State.loopEnc (s : State) (w : SlotWord) : Option TrapInfo :=
  if s.core.bun.addr.toNat + 2 * off16 w ≤ s.loopStart.toNat then some (trapAt 0 cIllegalOp 2) else none

/-- Four active loops refuse another (R112). -/
def State.loopFull (s : State) : Option TrapInfo :=
  if 4 ≤ s.thr.loops.length then some (trapAt 0 cIllegalOp 9) else none

/-- The stage predicates at entry to a rotating loop: p16 := N > 0, p17 to p23 := 0, from the next cycle on (R112). -/
def stageStart (now n : Nat) : Eff :=
  .land { due := now + 1, writes := .pred 16 (decide (0 < n)) :: (List.range 7).map fun j => .pred (17 + j) false }

/-- LOOP and LOOPR (R112): N iterations and S drain iterations. -/
def issueLoops (rot : Bool) (drain : Nat) (w : SlotWord) (s : State) : Res :=
  let n := (s.opS 0 w.d).toNat % 2 ^ 32
  let t := n + drain
  if t = 0 then .ok [.jump (s.loopEnd w)]
  else .ok (.loopPush ⟨s.loopStart, s.loopEnd w, t, 1, n, rot⟩ :: if rot then [stageStart s.now n] else [])

/-- LOOP (R112). -/
def execLoop (w : SlotWord) (s : State) : Ans State :=
  s.runSlot (.loop w) w 0 (s.loopEnc w) s.loopFull (withOperands 0 (.loop w) (issueLoops false 0 w))
/-- LOOPR (R112): FMT is the drain count. -/
def execLoopr (w : SlotWord) (s : State) : Ans State :=
  s.runSlot (.loopr w) w 0 (s.loopEnc w) s.loopFull (withOperands 0 (.loopr w) (issueLoops true w.fmt.toNat w))

/-- LEXIT (R114). -/
def issueLexit (s : State) : Res :=
  match s.thr.loops with
  | e :: _ => .ok [.loopPop, .jump e.stop]
  | [] => raise 0 cIllegalOp 10
/-- LEXIT (R114). -/
def execLexit (w : SlotWord) (s : State) : Ans State :=
  s.runC (.lexit w) w (if s.thr.loops = [] then some (trapAt 0 cIllegalOp 10) else none) issueLexit

/-- A predicate instruction (R115). -/
def issuePred (f : Bool → Bool → Bool) (w : SlotWord) (s : State) : Res :=
  .ok [s.giveP 0 w 1 (f (s.thr.getP w.a.toNat) (s.thr.getP w.b.toNat))]
/-- PAND (R115). -/
def execPand (w : SlotWord) (s : State) : Ans State := s.runC (.pand w) w none (issuePred (fun a b => a && b) w)
/-- POR (R115). -/
def execPor (w : SlotWord) (s : State) : Ans State := s.runC (.por w) w none (issuePred (fun a b => a || b) w)
/-- PXOR (R115). -/
def execPxor (w : SlotWord) (s : State) : Ans State := s.runC (.pxor w) w none (issuePred (fun a b => a != b) w)
/-- PANDN (R115). -/
def execPandn (w : SlotWord) (s : State) : Ans State := s.runC (.pandn w) w none (issuePred (fun a b => a && !b) w)
/-- PMOV (R115). -/
def execPmov (w : SlotWord) (s : State) : Ans State := s.runC (.pmov w) w none (issuePred (fun a _ => a) w)

/-- MFC (R116, R20). -/
def issueMfc (w : SlotWord) (s : State) : Res := .ok [s.giveS 0 w 1 (s.mfc w.a.toNat)]
/-- MFC (R116). -/
def execMfc (w : SlotWord) (s : State) : Ans State := s.runC (.mfc w) w none (issueMfc w)

/-- PRIVILEGE at user level (R24, R83). -/
def State.privileged (s : State) : Option TrapInfo := if s.user then some (trapAt 0 cPrivilege) else none

/-- MTC (R116, R22): written at commit. -/
def issueMtc (w : SlotWord) (s : State) : Res := .ok [.mtc w.b (s.opS 0 w.a)]
/-- MTC (R116, R83). -/
def execMtc (w : SlotWord) (s : State) : Ans State :=
  s.runC (.mtc w) w (if privReg w.b.toNat then s.privileged else none) (issueMtc w)

/-- WAITC (R117, R118, R164): a satisfied wait on a counter with a recorded copy failure raises COPY_ERROR; of several failures the first is
reported, and the records of all of them are cleared. It waits for the blocks that a counted drain has written (R414). Log 121. -/
def issueWaitc (w : SlotWord) (s : State) : Res :=
  let c := w.a.toNat
  if (vget 0 s.thr.w c).toNat ≤ (s.opS 0 w.b).toNat && !s.core.drained.any (fun x => x.1 = c) then
    match s.thr.fails.find? fun f => f.ctr = c with
    | some f => .trap { cause := cCopyError, detail := f.detail, addr := f.offset, wr := f.wr } [.failClear c]
    | none => .ok []
  else .hold { limit := (s.opS 0 w.d).toNat % 2 ^ 32, detail := 1, wlim := true } []
/-- WAITC (R118). -/
def execWaitc (w : SlotWord) (s : State) : Ans State := s.runC (.waitc w) w none (issueWaitc w)

/-- WAITO (R117, R119). -/
def issueWaito (w : SlotWord) (s : State) : Res :=
  let a := s.opS 0 w.a
  match s.localAt a 1 true with
  | .inr d => .trap { cause := cLocalBound, detail := d, addr := a } []
  | .inl (_, off) =>
    if s.core.ownedAt off 1 then .hold { limit := (s.opS 0 w.d).toNat % 2 ^ 32, detail := 2, wlim := true } [] else .ok []
/-- WAITO (R119). -/
def execWaito (w : SlotWord) (s : State) : Ans State := s.runC (.waito w) w none (issueWaito w)

/-- ILLEGAL_OP DETAIL 12: the instruction is used in handler mode (R128). -/
def State.notInHandler (s : State) : Option TrapInfo := if s.thr.ctl.hnd then some (trapAt 0 cIllegalOp 12) else none

/-- DSYNC above the launch's gang level (R120). -/
def State.aboveGang (s : State) (w : SlotWord) : Option TrapInfo :=
  if (match s.myLaunch with | some l => l.gang | none => 0) < w.mod.toNat % 4 then some (trapAt 0 cIllegalOp 11) else none

/-- DSYNC (R120): the thread arrives once, when its earlier accesses are performed, and issues when the phase of its instance has completed. -/
def issueDsync (w : SlotWord) (s : State) : Res :=
  let l := w.mod.toNat % 4
  if s.unperformed then .hold { wlim := true } []
  else if l = 0 then .ok [.arrive 0, .phase 0]
  else if s.thr.arrived = some (l + 8) then .ok [.phase l]
  else .hold { wlim := true } [.arrive l]
/-- DSYNC (R120, R128). -/
def execDsync (w : SlotWord) (s : State) : Ans State :=
  s.runC (.dsync w) w ((s.aboveGang w).or s.notInHandler) (issueDsync w)

/-- SUSP (R121): it holds until the thread has or can take a spill frame. -/
def issueSusp (s : State) : Res := if s.frameFree then .ok [.suspend] else .hold {} []
/-- SUSP (R121, R128). -/
def execSusp (w : SlotWord) (s : State) : Ans State := s.runC (.susp w) w s.notInHandler issueSusp

/-- EXIT (R122). -/
def execExit (w : SlotWord) (s : State) : Ans State := s.runC (.exit w) w s.notInHandler fun _ => .ok [.exit]

/-- CONFW (R123). -/
def issueConfw (s : State) : Res := if s.thr.ctl.prov then .hold { wlim := true } [] else .ok []
/-- CONFW (R123, R128). -/
def execConfw (w : SlotWord) (s : State) : Ans State := s.runC (.confw w) w s.notInHandler issueConfw

/-- The number of TRAP and SYSC: A[2:0] ‖ MOD (R109). -/
def trapNum (w : SlotWord) : Nat := w.a.toNat % 8 * 16 + w.mod.toNat

/-- TRAP (R125). -/
def execTrap (w : SlotWord) (s : State) : Ans State := s.runC (.trap w) w none fun _ => raise 0 cSoftTrap (trapNum w)
/-- SYSC (R125). -/
def execSysc (w : SlotWord) (s : State) : Ans State :=
  s.runC (.sysc w) w none fun _ => .ok [.sysc (BitVec.ofNat 8 (128 + trapNum w))]
/-- BKPT (R125). -/
def execBkpt (w : SlotWord) (s : State) : Ans State := s.runC (.bkpt w) w none fun _ => raise 0 cBreak 2

/-- RETH (R126): with the lease held it waits for the handler's engine commands. -/
def issueReth (s : State) : Res := if s.thr.ctl.lease && !s.core.enginesIdle then .hold {} [] else .ok [.reth]
/-- RETH (R126, R83). -/
def execReth (w : SlotWord) (s : State) : Ans State := s.runC (.reth w) w s.privileged issueReth

/-- LEASE (R127, R84): no effect on a firmware core and with the lease held; otherwise it waits for the interrupted thread's
engine commands and for a frame. -/
def issueLease (s : State) : Res :=
  if s.fw || s.thr.ctl.lease then .ok []
  else if !s.core.enginesIdle || !s.canFrame then .hold {} [] else .ok [.lease]
/-- LEASE (R127, R83). -/
def execLease (w : SlotWord) (s : State) : Ans State := s.runC (.lease w) w s.privileged issueLease

/-- UNLEASE (R127, R84). -/
def issueUnlease (s : State) : Res :=
  if s.fw || !s.thr.ctl.lease then .ok [] else if !s.core.enginesIdle then .hold {} [] else .ok [.unlease]
/-- UNLEASE (R127, R83). -/
def execUnlease (w : SlotWord) (s : State) : Ans State := s.runC (.unlease w) w s.privileged issueUnlease

/-- SEGPF (R129, R422): an index not in the table raises SEGMENT; a table that cannot be read means no effect. -/
def issueSegpf (w : SlotWord) (s : State) : Res :=
  let i := (s.opS 0 w.a).toNat
  match s.segCount with
  | .inr _ => .ok []
  | .inl n => if n ≤ i then raise 0 cSegment 2 (BitVec.ofNat 64 i) else .ok [.segCopy i]
/-- SEGPF (R129). -/
def execSegpf (w : SlotWord) (s : State) : Ans State := s.runC (.segpf w) w none (issueSegpf w)

/-- GRAB (R124): the walker is asked at commit. -/
def execGrab (w : SlotWord) (s : State) : Ans State :=
  s.runC (.grab w) w s.notInHandler fun _ => .ok [.grabAsk w.d.toNat w.a.toNat]

/-- The header's BREAK (R77): raised unless break_skip is set. Log 25. -/
def State.breakErr (s : State) (brk : Bool) : Option TrapInfo :=
  if brk && !s.thr.breakSkip then some { cause := cBreak, detail := 1 } else none

/-- EMPTY_BUNDLE (R60): it issues in one cycle, executes no slot, and applies its IDLE, BRK and SEG fields. -/
def execEmptyBundle (h : Header) (s : State) : Ans State :=
  let s := s.setCore { s.core with
    bun := { addr := s.thr.pc, len := 2, idle := h.idle.toNat, brk := h.brk, seg := h.seg } }
  match s.breakErr h.brk with
  | some t => .next (s.voidBundle t [])
  | none => .next (s.closeBundle [])

end Sys2Proof.Machine
end

