-- ==== Sys2Proof/Machine/Scalar.lean ====
section
/-! DEFINITION. The A slot (R130 to R136): scalar integer, bit-field, comparison, selection, address and scalar floating
instructions. -/

namespace Sys2Proof.Machine

/-- The B operand of an A-slot instruction (R66): the short immediate MOD ‖ B, sign-extended, or the operand. -/
def State.opB (s : State) (w : SlotWord) : DWord := if w.hold = 1 then (w.mod ++ w.b).signExtend 64 else s.opS 1 w.b

/-- The width in bits of FMT[1:0] (R66). -/
def widthOf (w : SlotWord) : Nat := 64 / 2 ^ (w.fmt.toNat % 4)

/-- FMT[2]: signed or arithmetic (R66). -/
def signedOf (w : SlotWord) : Bool := 4 ≤ w.fmt.toNat

/-- A result of n bits extended to 64 (R130). -/
def extend (sg : Bool) (n r : Nat) : DWord := if sg then BitVec.ofInt 64 (toSigned n r) else BitVec.ofNat 64 (r % 2 ^ n)

/-- Run an A-slot instruction. -/
def State.runA (s : State) (i : Instr) (w : SlotWord) (f : State → Res) : Ans State :=
  s.runSlot i w 1 none none (withOperands 1 i f)

/-- The index of the lowest set bit of n bits, n where there is none. -/
def lowestSet (n a : Nat) : Nat := ((List.range n).find? fun i => a.testBit i).getD n

/-- The number of ones in n bits. -/
def popCount (n a : Nat) : Nat := ((List.range n).filter fun i => a.testBit i).length

/-- An integer instruction (R130): `f` gives the result on n bits, from the width, FMT[2] and the operands. -/
def issueInt (lat : Nat) (f : Nat → Bool → Nat → Nat → Nat) (w : SlotWord) (s : State) : Res :=
  let n := widthOf w
  let a := (s.opS 1 w.a).toNat % 2 ^ n
  let b := (s.opB w).toNat % 2 ^ n
  .ok [s.giveS 1 w lat (extend (signedOf w) n (f n (signedOf w) a b))]

/-- ADD on n bits (R130). -/
def intAdd (_ : Nat) (_ : Bool) (a b : Nat) : Nat := a + b
/-- ADD (R130). -/
def execAdd (w : SlotWord) (s : State) : Ans State := s.runA (.add w) w (issueInt 1 intAdd w)

/-- SUB on n bits (R130). -/
def intSub (n : Nat) (_ : Bool) (a b : Nat) : Nat := a + (2 ^ n - b)
/-- SUB (R130). -/
def execSub (w : SlotWord) (s : State) : Ans State := s.runA (.sub w) w (issueInt 1 intSub w)

/-- MUL on n bits (R130). -/
def intMul (_ : Nat) (_ : Bool) (a b : Nat) : Nat := a * b
/-- MUL (R130). -/
def execMul (w : SlotWord) (s : State) : Ans State := s.runA (.mul w) w (issueInt 3 intMul w)

/-- MULH on n bits (R130). -/
def intMulh (n : Nat) (sg : Bool) (a b : Nat) : Nat := ((if sg then toSigned n a * toSigned n b else (a : Int) * b) / 2 ^ n % 2 ^ n).toNat
/-- MULH (R130). -/
def execMulh (w : SlotWord) (s : State) : Ans State := s.runA (.mulh w) w (issueInt 3 intMulh w)

/-- AND on n bits (R130). -/
def intAnd (_ : Nat) (_ : Bool) (a b : Nat) : Nat := a &&& b
/-- AND (R130). -/
def execAnd (w : SlotWord) (s : State) : Ans State := s.runA (.and_ w) w (issueInt 1 intAnd w)

/-- OR on n bits (R130). -/
def intOr (_ : Nat) (_ : Bool) (a b : Nat) : Nat := a ||| b
/-- OR (R130). -/
def execOr (w : SlotWord) (s : State) : Ans State := s.runA (.or_ w) w (issueInt 1 intOr w)

/-- XOR on n bits (R130). -/
def intXor (_ : Nat) (_ : Bool) (a b : Nat) : Nat := a ^^^ b
/-- XOR (R130). -/
def execXor (w : SlotWord) (s : State) : Ans State := s.runA (.xor_ w) w (issueInt 1 intXor w)

/-- ANDN on n bits (R130). -/
def intAndn (n : Nat) (_ : Bool) (a b : Nat) : Nat := a &&& (2 ^ n - 1 - b)
/-- ANDN (R130). -/
def execAndn (w : SlotWord) (s : State) : Ans State := s.runA (.andn w) w (issueInt 1 intAndn w)

/-- SHL on n bits (R130). -/
def intShl (n : Nat) (_ : Bool) (a b : Nat) : Nat := a * 2 ^ (b % n)
/-- SHL (R130). -/
def execShl (w : SlotWord) (s : State) : Ans State := s.runA (.shl w) w (issueInt 1 intShl w)

/-- SHR on n bits (R130). -/
def intShr (n : Nat) (sg : Bool) (a b : Nat) : Nat := if sg then (toSigned n a / 2 ^ (b % n) % 2 ^ n).toNat else a / 2 ^ (b % n)
/-- SHR (R130). -/
def execShr (w : SlotWord) (s : State) : Ans State := s.runA (.shr w) w (issueInt 1 intShr w)

/-- ROT on n bits (R130). -/
def intRot (n : Nat) (_ : Bool) (a b : Nat) : Nat := a / 2 ^ (b % n) + a * 2 ^ (n - b % n)
/-- ROT (R130). -/
def execRot (w : SlotWord) (s : State) : Ans State := s.runA (.rot w) w (issueInt 1 intRot w)

/-- MIN on n bits (R130). -/
def intMin (n : Nat) (sg : Bool) (a b : Nat) : Nat := if (if sg then decide (toSigned n b < toSigned n a) else decide (b < a)) then b else a
/-- MIN (R130). -/
def execMin (w : SlotWord) (s : State) : Ans State := s.runA (.min_ w) w (issueInt 1 intMin w)

/-- MAX on n bits (R130). -/
def intMax (n : Nat) (sg : Bool) (a b : Nat) : Nat := if (if sg then decide (toSigned n a < toSigned n b) else decide (a < b)) then b else a
/-- MAX (R130). -/
def execMax (w : SlotWord) (s : State) : Ans State := s.runA (.max_ w) w (issueInt 1 intMax w)

/-- EXT on n bits (R130). -/
def intExt (_ : Nat) (_ : Bool) (a _ : Nat) : Nat := a
/-- EXT (R130). -/
def execExt (w : SlotWord) (s : State) : Ans State := s.runA (.ext w) w (issueInt 1 intExt w)

/-- CLZ on n bits (R130). -/
def intClz (n : Nat) (_ : Bool) (a _ : Nat) : Nat := if a = 0 then n else n - 1 - a.log2
/-- CLZ (R130). -/
def execClz (w : SlotWord) (s : State) : Ans State := s.runA (.clz w) w (issueInt 1 intClz w)

/-- CTZ on n bits (R130). -/
def intCtz (n : Nat) (_ : Bool) (a _ : Nat) : Nat := lowestSet n a
/-- CTZ (R130). -/
def execCtz (w : SlotWord) (s : State) : Ans State := s.runA (.ctz w) w (issueInt 1 intCtz w)

/-- POPC on n bits (R130). -/
def intPopc (n : Nat) (_ : Bool) (a _ : Nat) : Nat := popCount n a
/-- POPC (R130). -/
def execPopc (w : SlotWord) (s : State) : Ans State := s.runA (.popc w) w (issueInt 1 intPopc w)

/-- DIV on n bits (R131). -/
def intDiv (n : Nat) (sg : Bool) (a b : Nat) : Nat :=
  if b = 0 then 2 ^ n - 1
  else if sg then ((toSigned n a).tdiv (toSigned n b) % 2 ^ n).toNat else a / b

/-- REM on n bits (R131). -/
def intRem (n : Nat) (sg : Bool) (a b : Nat) : Nat :=
  if b = 0 then a
  else if sg then ((toSigned n a).tmod (toSigned n b) % 2 ^ n).toNat else a % b

/-- An interlocked integer result (R72, R131): it lands at a cycle the device chooses. -/
def issueDiv (f : Nat → Bool → Nat → Nat → Nat) (w : SlotWord) (s : State) : Res :=
  let n := widthOf w
  let a := (s.opS 1 w.a).toNat % 2 ^ n
  let b := (s.opB w).toNat % 2 ^ n
  .ok [.ilock ⟨destRegs false w, some (scalarLanding 1 w s.now (extend (signedOf w) n (f n (signedOf w) a b))), 0, false, none⟩]

/-- DIV (R131). -/
def execDiv (w : SlotWord) (s : State) : Ans State := s.runA (.div w) w (issueDiv intDiv w)
/-- REM (R131). -/
def execRem (w : SlotWord) (s : State) : Ans State := s.runA (.rem w) w (issueDiv intRem w)

/-- The field of BFX and BFI (R132): its position and its length within 64 bits. -/
def bitField (b : Nat) : Nat × Nat :=
  let pos := b % 64
  let len := if bits b 8 6 = 0 then 64 else bits b 8 6
  (pos, min (pos + len) 64 - pos)

/-- BFX (R132). -/
def issueBfx (w : SlotWord) (s : State) : Res :=
  let (pos, len) := bitField (s.opB w).toNat
  .ok [s.giveS 1 w 1 (extend (signedOf w) len ((s.opS 1 w.a).toNat / 2 ^ pos))]
/-- BFX (R132). -/
def execBfx (w : SlotWord) (s : State) : Ans State := s.runA (.bfx w) w (issueBfx w)

/-- BFI (R132). -/
def issueBfi (w : SlotWord) (s : State) : Res :=
  let (pos, len) := bitField (s.opB w).toNat
  let d := (s.opS 1 w.d).toNat
  let a := (s.opS 1 w.a).toNat % 2 ^ len
  .ok [s.giveS 1 w 1 (BitVec.ofNat 64 (d % 2 ^ pos + a * 2 ^ pos + d / 2 ^ (pos + len) * 2 ^ (pos + len)))]
/-- BFI (R132). -/
def execBfi (w : SlotWord) (s : State) : Ans State := s.runA (.bfi w) w (issueBfi w)

/-- The condition of CMP (R66, R133). -/
def compare64 (cond : BitVec 3) (a b : DWord) : Bool :=
  match cond.toNat with
  | 0 => a = b
  | 1 => a ≠ b
  | 2 => a.slt b
  | 3 => !a.slt b
  | 4 => a.ult b
  | 5 => !a.ult b
  | 6 => a &&& b ≠ 0
  | _ => a &&& b = 0

/-- CMP (R133). -/
def issueCmp (w : SlotWord) (s : State) : Res := .ok [s.giveP 1 w 1 (compare64 w.fmt (s.opS 1 w.a) (s.opB w))]
/-- CMP (R133). -/
def execCmp (w : SlotWord) (s : State) : Ans State := s.runA (.cmp w) w (issueCmp w)

/-- CSEL (R134): PRED is its selector. -/
def issueCsel (w : SlotWord) (s : State) : Res :=
  .ok [s.giveS 1 w 1 (if s.thr.guard w then s.opS 1 w.a else s.opB w)]
/-- CSEL (R134). -/
def execCsel (w : SlotWord) (s : State) : Ans State := s.runA (.csel w) w (issueCsel w)

/-- MOVI (R134). -/
def issueMovi (w : SlotWord) (s : State) : Res :=
  .ok [s.giveS 1 w 1 (extend (signedOf w) (widthOf w) (s.opB w).toNat)]
/-- MOVI (R134). -/
def execMovi (w : SlotWord) (s : State) : Ans State := s.runA (.movi w) w (issueMovi w)

/-- MOVH (R134). -/
def issueMovh (w : SlotWord) (s : State) : Res :=
  .ok [s.giveS 1 w 1 ((s.opB w).setWidth 32 ++ (s.opS 1 w.d).setWidth 32)]
/-- MOVH (R134). -/
def execMovh (w : SlotWord) (s : State) : Ans State := s.runA (.movh w) w (issueMovh w)

/-- LEA (R134). -/
def issueLea (w : SlotWord) (s : State) : Res :=
  .ok [s.giveS 1 w 1 (s.opS 1 w.a + (s.opB w <<< (3 - w.fmt.toNat % 4)))]
/-- LEA (R134). -/
def execLea (w : SlotWord) (s : State) : Ans State := s.runA (.lea w) w (issueLea w)

/-- The format of a scalar floating instruction (R135). -/
def sfFormat (w : SlotWord) : FFmt := if w.fmt = 1 then .fp32 else if w.fmt = 2 then .fp16 else .bf16

/-- The floating value of a scalar operand's low bits. -/
def sfNum (f : FFmt) (x : DWord) : Num := f.decode (x.toNat % 2 ^ f.width)

/-- RMODE of the thread (R20). -/
def State.rmode (s : State) : RMode := .ofBits s.thr.ctl.rmode.toNat

/-- A scalar floating result at latency 4 with its flags (R135). -/
def State.giveF (s : State) (w : SlotWord) (r : Flt) : Res := .ok [s.giveS 1 w 4 (BitVec.ofNat 64 r.val) r.flags]

/-- A number, negated where the bit is set (R135). -/
def Num.negIf (b : Bool) (x : Num) : Num := if b then x.neg else x

/-- SFADD (R135). -/
def issueSfadd (w : SlotWord) (s : State) : Res :=
  let f := sfFormat w
  s.giveF w (f.add s.rmode (sfNum f (s.opS 1 w.a)) ((sfNum f (s.opS 1 w.b)).negIf (w.mod.getLsbD 0)))
/-- SFADD (R135). -/
def execSfadd (w : SlotWord) (s : State) : Ans State := s.runA (.sfadd w) w (issueSfadd w)

/-- SFMUL (R135). -/
def issueSfmul (w : SlotWord) (s : State) : Res :=
  let f := sfFormat w
  s.giveF w (f.mul s.rmode (sfNum f (s.opS 1 w.a)) (sfNum f (s.opS 1 w.b)))
/-- SFMUL (R135). -/
def execSfmul (w : SlotWord) (s : State) : Ans State := s.runA (.sfmul w) w (issueSfmul w)

/-- SFFMA (R135): the product is negated by negating one factor, which is exact. -/
def issueSffma (w : SlotWord) (s : State) : Res :=
  let f := sfFormat w
  s.giveF w (f.dot s.rmode ((sfNum f (s.opS 1 w.d)).negIf (w.mod.getLsbD 1))
    [((sfNum f (s.opS 1 w.a)).negIf (w.mod.getLsbD 0), sfNum f (s.opS 1 w.b))])
/-- SFFMA (R135). -/
def execSffma (w : SlotWord) (s : State) : Ans State := s.runA (.sffma w) w (issueSffma w)

/-- A floating comparison: EQ, NE, LT, GE (R39, R135); the flag NV is raised by a signalling NaN alone. -/
def fcompare (cond : Nat) (a b : Num) : Bool × BitVec 5 :=
  let r := match a.cmp b, cond with
    | some (_, eq), 0 => eq
    | some (_, eq), 1 => !eq
    | some (lt, _), 2 => lt
    | some (lt, _), _ => !lt
    | none, 1 => true
    | none, _ => false
  (r, if a.isSig || b.isSig then flagNV else 0)

/-- SFCMP (R135). -/
def issueSfcmp (w : SlotWord) (s : State) : Res :=
  let f := sfFormat w
  let r := fcompare (w.mod.toNat % 4) (sfNum f (s.opS 1 w.a)) (sfNum f (s.opS 1 w.b))
  .ok [s.giveP 1 w 4 r.1 r.2]
/-- SFCMP (R135). -/
def execSfcmp (w : SlotWord) (s : State) : Ans State := s.runA (.sfcmp w) w (issueSfcmp w)

/-- The result of SFCVT (R44, R136): 64 bits and flags. -/
def sfcvt (f : FFmt) (mode : RMode) (m : Nat) (x : DWord) : DWord × BitVec 5 :=
  let num := sfNum f x
  let toF (g : FFmt) : DWord × BitVec 5 := let r := g.ofNum mode num; (BitVec.ofNat 64 r.val, r.flags)
  let toI (n : Nat) (sg : Bool) : DWord × BitVec 5 := let r := num.toInteger mode n sg; (BitVec.ofInt 64 r.1, r.2)
  let ofI (v : Int) : DWord × BitVec 5 := let r := f.ofInt mode v; (BitVec.ofNat 64 r.val, r.flags)
  match m with
  | 0 => toF .fp32
  | 1 => toF .fp16
  | 2 => toF .bf16
  | 4 => toI 64 true
  | 5 => toI 32 true
  | 6 => toI 64 false
  | 7 => toI 32 false
  | 8 => ofI x.toInt
  | 9 => ofI (x.setWidth 32).toInt
  | 10 => ofI x.toNat
  | _ => ofI (x.toNat % 2 ^ 32)

/-- SFCVT (R136): B[2:0] is the rounding code. -/
def issueSfcvt (w : SlotWord) (s : State) : Res :=
  let r := sfcvt (sfFormat w) (.ofCode w.b.toNat s.rmode) w.mod.toNat (s.opS 1 w.a)
  .ok [s.giveS 1 w 4 r.1 r.2]
/-- SFCVT (R136). -/
def execSfcvt (w : SlotWord) (s : State) : Ans State := s.runA (.sfcvt w) w (issueSfcvt w)

end Sys2Proof.Machine
end

