-- ==== Sys2Proof/Machine/Vector.lean ====
section
/-! DEFINITION. The V slots (R174 to R192): element arithmetic, compares, selects, masks, conversions, special functions, moves,
shuffles, the cross-cluster copy, and reductions and prefixes within a cluster. -/

namespace Sys2Proof.Machine

/-! ### Lanes, elements and masks (R11, R68, R175) -/

/-- The floating format of a vector FMT (R68); none for the integer formats. -/
def vfmt (fmt : Nat) : Option FFmt :=
  match fmt with
  | 0 => some .fp32 | 1 => some .bf16 | 2 => some .fp16 | _ => none

/-- Element width in bits (R11). -/
def elemWidth (fmt : Nat) : Nat := 32 / kel fmt

/-- Element j of a lane (R11). -/
def elemOf (fmt : Nat) (x : Word) (j : Nat) : Nat := bits x.toNat (elemWidth fmt * j) (elemWidth fmt)

/-- A lane built from its elements, with the flags they raise (R11, R176). -/
def laneOf (fmt : Nat) (g : Nat → Flt) : Word × BitVec 5 :=
  (List.range (kel fmt)).foldl (fun acc j =>
    let r := g j
    (acc.1 ||| BitVec.ofNat 32 (r.val % 2 ^ elemWidth fmt * 2 ^ (elemWidth fmt * j)), acc.2 ||| r.flags)) (0, 0)

/-- Run a V-slot instruction: `ill` is what it raises as ILLEGAL_OP at issue. -/
def State.runV (s : State) (i : Instr) (u : VSlot) (w : SlotWord) (ill : Option TrapInfo) (f : State → Res) : Ans State :=
  s.runSlot i w u.slot.num none ill (withOperands u.slot.num i f)

/-- The lane mask k[MOD[2:0]] (R175). -/
def State.laneMask (s : State) (w : SlotWord) : BitVec 128 := s.thr.getK (w.mod.toNat % 8)

/-- The lanes of D that are written: the active ones under merging, all of them under zeroing (R175). -/
def writtenLanes (w : SlotWord) (m : BitVec 128) : BitVec 128 := if w.mod.toNat < 8 then m else BitVec.allOnes 128

/-- The lanes of a vector result under a mask, and the flags of the active ones: a masked-off lane computes nothing and reads
zero in the latch (R175, R176). -/
def laneResults (m : BitVec 128) (f : Nat → Word × BitVec 5) : Vec × BitVec 5 :=
  let r : Vector (Word × BitVec 5) 128 := Vector.ofFn fun i => if m.getLsbD i then f i else (0, 0)
  (r.map Prod.fst, r.foldl (fun a y => a ||| y.2) 0)

/-- A vector result of a V slot under its mask. -/
def State.giveV (s : State) (u : VSlot) (w : SlotWord) (lat : Nat) (f : Nat → Word × BitVec 5) (more : BitVec 5 := 0) : Res :=
  let m := s.laneMask w
  let r := laneResults m f
  .ok [.land (vectorLanding u.slot.num w (s.now + lat) r.1 (writtenLanes w m) r.1 (r.2 ||| more))]

/-- Lane L of an operand of a V slot. -/
def vlane (x : Vec) (l : Nat) : Word := vget 0 x l

/-- An element-wise result from the elements of A, of B and of D (R178). -/
def State.giveEl (s : State) (u : VSlot) (w : SlotWord) (lat : Nat) (g : Nat → Nat → Nat → Flt) : Res :=
  let a := s.opV u.slot.num w.a
  let b := s.opV u.slot.num w.b
  let d := s.opV u.slot.num w.d
  let fmt := w.fmt.toNat
  s.giveV u w lat fun l => laneOf fmt fun j =>
    g (elemOf fmt (vlane a l) j) (elemOf fmt (vlane b l) j) (elemOf fmt (vlane d l) j)

/-! ### Element arithmetic (R178 to R180) -/

/-- An element operation: `ff` in a floating format, `fi` on w-bit integers (R178). -/
def elemOp (w : SlotWord) (ff : FFmt → Nat → Nat → Nat → Flt) (fi : Nat → Nat → Nat → Nat → Int) (a b d : Nat) : Flt :=
  match vfmt w.fmt.toNat with
  | some f => ff f a b d
  | none => let n := elemWidth w.fmt.toNat; ⟨(fi n a b d % 2 ^ n).toNat, 0⟩

/-- VADD (R178). -/
def issueVadd (u : VSlot) (w : SlotWord) (s : State) : Res :=
  s.giveEl u w (if w.fmt.toNat ≤ 2 then 4 else 2) (elemOp w (fun f a b _ => f.add s.rmode (f.decode a) (f.decode b))
    (fun _ a b _ => a + b))
/-- VADD (R178). -/
def execVadd (u : VSlot) (w : SlotWord) (s : State) : Ans State := s.runV (.vadd u w) u w none (issueVadd u w)

/-- VSUB (R178). -/
def issueVsub (u : VSlot) (w : SlotWord) (s : State) : Res :=
  s.giveEl u w (if w.fmt.toNat ≤ 2 then 4 else 2) (elemOp w (fun f a b _ => f.add s.rmode (f.decode a) (f.decode b).neg)
    (fun _ a b _ => (a : Int) - b))
/-- VSUB (R178). -/
def execVsub (u : VSlot) (w : SlotWord) (s : State) : Ans State := s.runV (.vsub u w) u w none (issueVsub u w)

/-- VMUL (R178). -/
def issueVmul (u : VSlot) (w : SlotWord) (s : State) : Res :=
  s.giveEl u w (if w.fmt.toNat ≤ 2 then 4 else 2) (elemOp w (fun f a b _ => f.mul s.rmode (f.decode a) (f.decode b))
    (fun _ a b _ => a * b))
/-- VMUL (R178). -/
def execVmul (u : VSlot) (w : SlotWord) (s : State) : Ans State := s.runV (.vmul u w) u w none (issueVmul u w)

/-- VFMA (R178). -/
def issueVfma (u : VSlot) (w : SlotWord) (s : State) : Res :=
  s.giveEl u w (if w.fmt.toNat ≤ 2 then 4 else 2) (elemOp w (fun f a b d => f.dot s.rmode (f.decode d) [(f.decode a, f.decode b)])
    (fun _ a b d => a * b + d))
/-- VFMA (R178). -/
def execVfma (u : VSlot) (w : SlotWord) (s : State) : Ans State := s.runV (.vfma u w) u w none (issueVfma u w)

/-- VFMS (R178). -/
def issueVfms (u : VSlot) (w : SlotWord) (s : State) : Res :=
  s.giveEl u w (if w.fmt.toNat ≤ 2 then 4 else 2) (elemOp w (fun f a b d => f.dot s.rmode (f.decode d).neg [(f.decode a, f.decode b)])
    (fun _ a b d => (a : Int) * b - d))
/-- VFMS (R178). -/
def execVfms (u : VSlot) (w : SlotWord) (s : State) : Ans State := s.runV (.vfms u w) u w none (issueVfms u w)

/-- VFNMA (R178). -/
def issueVfnma (u : VSlot) (w : SlotWord) (s : State) : Res :=
  s.giveEl u w (if w.fmt.toNat ≤ 2 then 4 else 2) (elemOp w (fun f a b d => f.dot s.rmode (f.decode d) [((f.decode a).neg, f.decode b)])
    (fun _ a b d => (d : Int) - a * b))
/-- VFNMA (R178). -/
def execVfnma (u : VSlot) (w : SlotWord) (s : State) : Ans State := s.runV (.vfnma u w) u w none (issueVfnma u w)

/-- VMIN (R178). -/
def issueVmin (u : VSlot) (w : SlotWord) (s : State) : Res :=
  s.giveEl u w 2 (elemOp w (fun f a b _ => f.minmax false a b)
    (fun n a b _ => min (toSigned n a) (toSigned n b)))
/-- VMIN (R178). -/
def execVmin (u : VSlot) (w : SlotWord) (s : State) : Ans State := s.runV (.vmin u w) u w none (issueVmin u w)

/-- VMAX (R178). -/
def issueVmax (u : VSlot) (w : SlotWord) (s : State) : Res :=
  s.giveEl u w 2 (elemOp w (fun f a b _ => f.minmax true a b)
    (fun n a b _ => max (toSigned n a) (toSigned n b)))
/-- VMAX (R178). -/
def execVmax (u : VSlot) (w : SlotWord) (s : State) : Ans State := s.runV (.vmax u w) u w none (issueVmax u w)

/-- VABS (R178). -/
def issueVabs (u : VSlot) (w : SlotWord) (s : State) : Res :=
  s.giveEl u w 2 (elemOp w (fun f a _ _ => ⟨a % 2 ^ (f.width - 1), 0⟩)
    (fun n a _ _ => (toSigned n a).natAbs))
/-- VABS (R178). -/
def execVabs (u : VSlot) (w : SlotWord) (s : State) : Ans State := s.runV (.vabs u w) u w none (issueVabs u w)

/-- VNEG (R178). -/
def issueVneg (u : VSlot) (w : SlotWord) (s : State) : Res :=
  s.giveEl u w 2 (elemOp w (fun f a _ _ => ⟨a ^^^ 2 ^ (f.width - 1), 0⟩)
    (fun _ a _ _ => -(a : Int)))
/-- VNEG (R178). -/
def execVneg (u : VSlot) (w : SlotWord) (s : State) : Ans State := s.runV (.vneg u w) u w none (issueVneg u w)

/-- VAND (R179). -/
def issueVand (u : VSlot) (w : SlotWord) (s : State) : Res :=
  let a := s.opV u.slot.num w.a
  let b := s.opV u.slot.num w.b
  s.giveV u w 2 fun l => (vlane a l &&& vlane b l, 0)
/-- VAND (R179). -/
def execVand (u : VSlot) (w : SlotWord) (s : State) : Ans State := s.runV (.vand u w) u w none (issueVand u w)

/-- VOR (R179). -/
def issueVor (u : VSlot) (w : SlotWord) (s : State) : Res :=
  let a := s.opV u.slot.num w.a
  let b := s.opV u.slot.num w.b
  s.giveV u w 2 fun l => (vlane a l ||| vlane b l, 0)
/-- VOR (R179). -/
def execVor (u : VSlot) (w : SlotWord) (s : State) : Ans State := s.runV (.vor u w) u w none (issueVor u w)

/-- VXOR (R179). -/
def issueVxor (u : VSlot) (w : SlotWord) (s : State) : Res :=
  let a := s.opV u.slot.num w.a
  let b := s.opV u.slot.num w.b
  s.giveV u w 2 fun l => (vlane a l ^^^ vlane b l, 0)
/-- VXOR (R179). -/
def execVxor (u : VSlot) (w : SlotWord) (s : State) : Ans State := s.runV (.vxor u w) u w none (issueVxor u w)

/-- VANDN (R179). -/
def issueVandn (u : VSlot) (w : SlotWord) (s : State) : Res :=
  let a := s.opV u.slot.num w.a
  let b := s.opV u.slot.num w.b
  s.giveV u w 2 fun l => (vlane a l &&& ~~~(vlane b l), 0)
/-- VANDN (R179). -/
def execVandn (u : VSlot) (w : SlotWord) (s : State) : Ans State := s.runV (.vandn u w) u w none (issueVandn u w)

/-- VSHL (R178). -/
def issueVshl (u : VSlot) (w : SlotWord) (s : State) : Res :=
  s.giveEl u w 2 (elemOp w (fun _ _ _ _ => ⟨0, 0⟩)
    (fun n a b _ => a * 2 ^ (b % n)))
/-- VSHL (R178). -/
def execVshl (u : VSlot) (w : SlotWord) (s : State) : Ans State := s.runV (.vshl u w) u w none (issueVshl u w)

/-- VSHR (R178). -/
def issueVshr (u : VSlot) (w : SlotWord) (s : State) : Res :=
  s.giveEl u w 2 (elemOp w (fun _ _ _ _ => ⟨0, 0⟩)
    (fun n a b _ => a / 2 ^ (b % n)))
/-- VSHR (R178). -/
def execVshr (u : VSlot) (w : SlotWord) (s : State) : Ans State := s.runV (.vshr u w) u w none (issueVshr u w)

/-- VSAR (R178). -/
def issueVsar (u : VSlot) (w : SlotWord) (s : State) : Res :=
  s.giveEl u w 2 (elemOp w (fun _ _ _ _ => ⟨0, 0⟩)
    (fun n a b _ => toSigned n a / 2 ^ (b % n)))
/-- VSAR (R178). -/
def execVsar (u : VSlot) (w : SlotWord) (s : State) : Ans State := s.runV (.vsar u w) u w none (issueVsar u w)

/-- VMULH (R178). -/
def issueVmulh (u : VSlot) (w : SlotWord) (s : State) : Res :=
  s.giveEl u w 2 (elemOp w (fun _ _ _ _ => ⟨0, 0⟩)
    (fun n a b _ => toSigned n a * toSigned n b / 2 ^ n))
/-- VMULH (R178). -/
def execVmulh (u : VSlot) (w : SlotWord) (s : State) : Ans State := s.runV (.vmulh u w) u w none (issueVmulh u w)

/-- The clamp of an element to n bits, unsigned or signed (R180). -/
def clampTo (unsigned : Bool) (n : Nat) (x : Int) : Int :=
  if unsigned then min (max x 0) (2 ^ n - 1) else min (max x (-(2 ^ (n - 1)))) (2 ^ (n - 1) - 1)

/-- VCLAMP (R180). -/
def issueVclamp (u : VSlot) (w : SlotWord) (s : State) : Res :=
  s.giveEl u w 2 (elemOp w (fun _ _ _ _ => ⟨0, 0⟩)
    (fun n a _ _ => clampTo (w.b.getLsbD 5) (w.b.toNat % 32 + 1) (toSigned n a)))
/-- VCLAMP (R180). -/
def execVclamp (u : VSlot) (w : SlotWord) (s : State) : Ans State := s.runV (.vclamp u w) u w none (issueVclamp u w)

/-! ### Compares, selects and masks (R181 to R183) -/

/-- A mask as a vector: lane L = bit L (R176). -/
def maskVec (x : BitVec 128) : Vec := Vec.ofLanes fun l => if x.getLsbD l then 1 else 0

/-- A mask result for the enabled bits of k[kd] and the slot's latch (R176, R181). -/
def State.giveK (s : State) (u : VSlot) (w : SlotWord) (kd : Nat) (x en lx : BitVec 128) (flags : BitVec 5 := 0) : Res :=
  .ok [.land { due := s.now + 2, latch := some (u.slot.num, .vector (maskVec lx)), flags := flags
               writes := if w.wb then [.mask kd x en] else [] }]

/-- A mask built from a function of the lane. -/
def maskOf (f : Nat → Bool) : BitVec 128 :=
  (List.range 128).foldl (fun m l => if f l then m ||| BitVec.ofNat 128 (2 ^ l) else m) 0

/-- The condition of VCMP on two elements, with its flag (R39, R181). -/
def vcompare (fmt cond a b : Nat) : Bool × BitVec 5 :=
  match vfmt fmt with
  | some f =>
    let x := f.decode a
    let y := f.decode b
    let r := match x.cmp y, cond with
      | some (_, eq), 0 => eq
      | some (_, eq), 1 => !eq
      | some (lt, _), 2 => lt
      | some (lt, _), 3 => !lt
      | some (lt, eq), 4 => lt || eq
      | some (lt, eq), _ => !(lt || eq)
      | none, 1 => true
      | none, _ => false
    (r, if x.isSig || y.isSig then flagNV else 0)
  | none =>
    let n := elemWidth fmt
    let x := toSigned n a
    let y := toSigned n b
    (match cond with
      | 0 => a = b
      | 1 => a ≠ b
      | 2 => x < y
      | 3 => y ≤ x
      | 4 => x ≤ y
      | 5 => y < x
      | 6 => a < b
      | _ => b ≤ a, 0)

/-- VCMP of a lane: whether the condition holds for every element, and the flags (R181). -/
def vcompareLane (fmt cond : Nat) (a b : Word) : Bool × BitVec 5 :=
  (List.range (kel fmt)).foldl (fun acc j =>
    let r := vcompare fmt cond (elemOf fmt a j) (elemOf fmt b j)
    (acc.1 && r.1, acc.2 ||| r.2)) (true, 0)

/-- VCMP (R181). -/
def issueVcmp (u : VSlot) (w : SlotWord) (s : State) : Res :=
  let a := s.opV u.slot.num w.a
  let b := s.opV u.slot.num w.b
  let m := s.laneMask w
  let r : Vector (Bool × BitVec 5) 128 := Vector.ofFn fun l =>
    if m.getLsbD l then vcompareLane w.fmt.toNat (w.d.toNat / 8) (vlane a l) (vlane b l) else (false, 0)
  let x := maskOf fun l => (vget (false, 0) r l).1
  s.giveK u w (w.d.toNat % 8) x (writtenLanes w m) x (r.foldl (fun f y => f ||| y.2) 0)
/-- VCMP (R181). -/
def execVcmp (u : VSlot) (w : SlotWord) (s : State) : Ans State := s.runV (.vcmp u w) u w none (issueVcmp u w)

/-- VSEL (R182): the mask selects, and every lane is written. -/
def issueVsel (u : VSlot) (w : SlotWord) (s : State) : Res :=
  let a := s.opV u.slot.num w.a
  let b := s.opV u.slot.num w.b
  let m := s.laneMask w
  let x := Vec.ofLanes fun l => if m.getLsbD l then vlane a l else vlane b l
  .ok [.land (vectorLanding u.slot.num w (s.now + 2) x (BitVec.allOnes 128) x)]
/-- VSEL (R182). -/
def execVsel (u : VSlot) (w : SlotWord) (s : State) : Ans State := s.runV (.vsel u w) u w none (issueVsel u w)

/-! ### Conversions (R184) and packing (R188) -/

/-- One element converted from one vector format to another (R44, R184). -/
def convElem (mode : RMode) (fmt g : Nat) (sat : Bool) (x : Nat) : Flt :=
  match vfmt fmt, vfmt g with
  | some f, some h => h.ofNum mode (f.decode x)
  | some f, none =>
    let r := (f.decode x).toInteger mode (elemWidth g) true
    ⟨(r.1 % 2 ^ elemWidth g).toNat, r.2⟩
  | none, some h => h.ofInt mode (toSigned (elemWidth fmt) x)
  | none, none =>
    let v := toSigned (elemWidth fmt) x
    ⟨((if sat then clampTo false (elemWidth g) v else v) % 2 ^ elemWidth g).toNat, 0⟩

/-- VCVT (R184). -/
def issueVcvt (u : VSlot) (w : SlotWord) (s : State) : Res :=
  let a := s.opV u.slot.num w.a
  let d := s.opV u.slot.num w.d
  let fmt := w.fmt.toNat
  let g := w.b.toNat % 8
  let part := bits w.b.toNat 3 2
  let conv := convElem s.rmode fmt g (w.b.getLsbD 5)
  let ks := kel fmt
  let kd := kel g
  s.giveV u w 4 fun l => laneOf g fun j =>
    if ks < kd then
      if j / ks = part then conv (elemOf fmt (vlane a l) (j % ks)) else ⟨elemOf g (vlane d l) j, 0⟩
    else conv (elemOf fmt (vlane a l) (part * kd + j))
/-- VCVT (R184). -/
def execVcvt (u : VSlot) (w : SlotWord) (s : State) : Ans State := s.runV (.vcvt u w) u w none (issueVcvt u w)

/-- Results for several destination registers, under one mask; the latch takes the last (R176, R188). -/
def State.giveMany (s : State) (u : VSlot) (w : SlotWord) (n : Nat) (f : Nat → Vec) : Res :=
  let m := s.laneMask w
  let masked (x : Vec) : Vec := Vec.ofLanes fun l => if m.getLsbD l then vlane x l else 0
  .ok [.land { due := s.now + 2, latch := some (u.slot.num, .vector (masked (f (n - 1))))
               writes := if w.wb then
                 (List.range n).map fun i => .vec (w.d.toNat + i) (masked (f i)) (writtenLanes w m) else [] }]

/-- VPACK (R188). -/
def issueVpack (u : VSlot) (w : SlotWord) (s : State) : Res :=
  let fmt := w.fmt.toNat
  s.giveMany u w 1 fun _ => Vec.ofLanes fun l =>
    (laneOf fmt fun j => ⟨(vlane (s.thr.getV (w.a.toNat + j)) l).toNat, 0⟩).1
/-- VPACK (R188). -/
def execVpack (u : VSlot) (w : SlotWord) (s : State) : Ans State := s.runV (.vpack u w) u w none (issueVpack u w)

/-- An element widened to a lane: sign-extended in the integer formats, zero-extended in the floating ones (R188). -/
def widenElem (fmt : Nat) (x : Nat) : Word :=
  match vfmt fmt with
  | some _ => BitVec.ofNat 32 x
  | none => BitVec.ofInt 32 (toSigned (elemWidth fmt) x)

/-- VUNPK (R188). -/
def issueVunpk (u : VSlot) (w : SlotWord) (s : State) : Res :=
  let fmt := w.fmt.toNat
  let a := s.thr.getV w.a.toNat
  s.giveMany u w (kel fmt) fun i => Vec.ofLanes fun l => widenElem fmt (elemOf fmt (vlane a l) i)
/-- VUNPK (R188). -/
def execVunpk (u : VSlot) (w : SlotWord) (s : State) : Ans State := s.runV (.vunpk u w) u w none (issueVunpk u w)

/-! ### Special functions (R185) -/

/-- VRCP (R185). -/
def issueVrcp (u : VSlot) (w : SlotWord) (s : State) : Res :=
  s.giveEl u w 8 (elemOp w (fun f a _ _ => f.recip s.rmode (f.decode a))
    (fun _ _ _ _ => 0))
/-- VRCP (R185). -/
def execVrcp (u : VSlot) (w : SlotWord) (s : State) : Ans State := s.runV (.vrcp u w) u w none (issueVrcp u w)

/-- VRSQ (R185). -/
def issueVrsq (u : VSlot) (w : SlotWord) (s : State) : Res :=
  s.giveEl u w 8 (elemOp w (fun f a _ _ => f.rsqrt s.rmode (f.decode a))
    (fun _ _ _ _ => 0))
/-- VRSQ (R185). -/
def execVrsq (u : VSlot) (w : SlotWord) (s : State) : Ans State := s.runV (.vrsq u w) u w none (issueVrsq u w)

/-- VSQRT (R185). -/
def issueVsqrt (u : VSlot) (w : SlotWord) (s : State) : Res :=
  s.giveEl u w 8 (elemOp w (fun f a _ _ => f.sqrt s.rmode (f.decode a))
    (fun _ _ _ _ => 0))
/-- VSQRT (R185). -/
def execVsqrt (u : VSlot) (w : SlotWord) (s : State) : Ans State := s.runV (.vsqrt u w) u w none (issueVsqrt u w)

/-- VEXP2 (R185). -/
def issueVexp2 (u : VSlot) (w : SlotWord) (s : State) : Res :=
  s.giveEl u w 8 (elemOp w (fun f a _ _ => f.exp2 s.rmode (f.decode a) a)
    (fun _ _ _ _ => 0))
/-- VEXP2 (R185). -/
def execVexp2 (u : VSlot) (w : SlotWord) (s : State) : Ans State := s.runV (.vexp2 u w) u w none (issueVexp2 u w)

/-- VLOG2 (R185). -/
def issueVlog2 (u : VSlot) (w : SlotWord) (s : State) : Res :=
  s.giveEl u w 8 (elemOp w (fun f a _ _ => f.log2 s.rmode (f.decode a) a)
    (fun _ _ _ _ => 0))
/-- VLOG2 (R185). -/
def execVlog2 (u : VSlot) (w : SlotWord) (s : State) : Ans State := s.runV (.vlog2 u w) u w none (issueVlog2 u w)

/-! ### Moves and broadcasts (R186, R187) -/

/-- The 12-bit immediate of VMOVI in a vector format (R186). -/
def moviElem (fmt : Nat) (imm : Int) : Nat :=
  match vfmt fmt with
  | some f => (f.ofInt .rne imm).val
  | none => (imm % 2 ^ elemWidth fmt).toNat

/-- VMOVI (R186). -/
def issueVmovi (u : VSlot) (w : SlotWord) (s : State) : Res :=
  s.giveV u w 2 fun _ => laneOf w.fmt.toNat fun _ => ⟨moviElem w.fmt.toNat (w.a ++ w.b).toInt, 0⟩
/-- VMOVI (R186). -/
def execVmovi (u : VSlot) (w : SlotWord) (s : State) : Ans State := s.runV (.vmovi u w) u w none (issueVmovi u w)

/-- VMOV (R186). -/
def issueVmov (u : VSlot) (w : SlotWord) (s : State) : Res :=
  let a := s.opV u.slot.num w.a
  s.giveV u w 2 fun l => (vlane a l, 0)
/-- VMOV (R186). -/
def execVmov (u : VSlot) (w : SlotWord) (s : State) : Ans State := s.runV (.vmov u w) u w none (issueVmov u w)

/-- VMOVN (R188): every source is read before any destination is written. -/
def issueVmovn (u : VSlot) (w : SlotWord) (s : State) : Res :=
  s.giveMany u w (w.b.toNat + 1) fun i => s.thr.getV (w.a.toNat + i)
/-- VMOVN (R188). -/
def execVmovn (u : VSlot) (w : SlotWord) (s : State) : Ans State := s.runV (.vmovn u w) u w none (issueVmovn u w)

/-- VBCAST (R187): element B of each cluster in every element of the cluster. -/
def issueVbcast (u : VSlot) (w : SlotWord) (s : State) : Res :=
  let a := s.opV u.slot.num w.a
  let fmt := w.fmt.toNat
  let k := kel fmt
  s.giveV u w 2 fun l => laneOf fmt fun _ => ⟨elemOf fmt (vlane a (l / 16 * 16 + w.b.toNat / k)) (w.b.toNat % k), 0⟩
/-- VBCAST (R187). -/
def execVbcast (u : VSlot) (w : SlotWord) (s : State) : Ans State := s.runV (.vbcast u w) u w none (issueVbcast u w)

/-- The element VEXT reads, extended to 64 bits (R187). -/
def extractElem (fmt : Nat) (a : Vec) (e : Nat) : DWord :=
  let k := kel fmt
  let x := elemOf fmt (vlane a (e / k)) (e % k)
  match vfmt fmt with
  | some _ => BitVec.ofNat 64 x
  | none => BitVec.ofInt 64 (toSigned (elemWidth fmt) x)

/-- VEXT (R187). -/
def issueVext (u : VSlot) (w : SlotWord) (s : State) : Res :=
  let fmt := w.fmt.toNat
  let e := (s.thr.getS w.b.toNat).toNat % (128 * kel fmt)
  .ok [s.giveS u.slot.num w 6 (extractElem fmt (s.opV u.slot.num w.a) e)]
/-- VEXT (R187). -/
def execVext (u : VSlot) (w : SlotWord) (s : State) : Ans State := s.runV (.vext u w) u w none (issueVext u w)

/-- VIDX (R186): each element's own number. -/
def issueVidx (u : VSlot) (w : SlotWord) (s : State) : Res :=
  let fmt := w.fmt.toNat
  s.giveV u w 2 fun l => laneOf fmt fun j => ⟨moviElem fmt ((l * kel fmt + j : Nat) : Int), 0⟩
/-- VIDX (R186). -/
def execVidx (u : VSlot) (w : SlotWord) (s : State) : Ans State := s.runV (.vidx u w) u w none (issueVidx u w)

/-! ### Shuffle and cross-cluster copy (R189, R190) -/

/-- Selector j of a pattern entry (R16). -/
def selector (p : BitVec 96) (j : Nat) : Nat := bits p.toNat (6 * j) 6

/-- Entry n of a pattern bank (R16). -/
def Thread.pattern (t : Thread) (bank : Bool) (n : Nat) : BitVec 96 := vget 0 (vget (Vector.replicate 64 0) t.pat bank.toNat) n

/-- The entry of the active bank that VSHUF names. -/
def State.shufEntry (s : State) (w : SlotWord) : BitVec 96 := s.thr.pattern s.thr.bank w.b.toNat

/-- ILLEGAL_OP of a VSHUF whose entry has bit 5 set in some selector (R16, R189). -/
def shufIll (u : VSlot) (w : SlotWord) (s : State) : Option TrapInfo :=
  if (List.range 16).any fun j => 32 ≤ selector (s.shufEntry w) j then some (trapAt u.slot.num cIllegalOp 15) else none

/-- VSHUF (R189). -/
def issueVshuf (u : VSlot) (w : SlotWord) (s : State) : Res :=
  let a := s.opV u.slot.num w.a
  let d := s.opV u.slot.num w.d
  let p := s.shufEntry w
  s.giveV u w 3 fun l =>
    let src := selector p (l % 16) % 32
    let c := l / 16
    (if src < 16 then vlane a (16 * c + src) else vlane d (16 * c + src - 16), 0)
/-- VSHUF (R189). -/
def execVshuf (u : VSlot) (w : SlotWord) (s : State) : Ans State := s.runV (.vshuf u w) u w (shufIll u w s) (issueVshuf u w)

/-- The source cluster of VXC (R190). -/
def sourceCluster (b c : Nat) : Nat :=
  match b / 16 with
  | 0 => (c + b % 8) % 8
  | 1 => b % 8
  | _ => c ^^^ (b % 8)

/-- VXC (R190). -/
def issueVxc (u : VSlot) (w : SlotWord) (s : State) : Res :=
  let a := s.opV u.slot.num w.a
  s.giveV u w 6 fun l => (vlane a (16 * sourceCluster w.b.toNat (l / 16) + l % 16), 0)
/-- VXC (R190). -/
def execVxc (u : VSlot) (w : SlotWord) (s : State) : Ans State := s.runV (.vxc u w) u w none (issueVxc u w)

/-! ### Reduction and prefix within a cluster (R191) -/

/-- Op(l, r) of VRED and VSCAN (R191). -/
def redOp (mode : RMode) (fmt op l r : Nat) : Flt :=
  match vfmt fmt with
  | some f =>
    match op with
    | 0 => f.add mode (f.decode l) (f.decode r)
    | 1 => f.minmax false l r
    | _ => f.minmax true l r
  | none =>
    let n := elemWidth fmt
    ⟨match op with
      | 0 => (l + r) % 2 ^ n
      | 1 => if toSigned n r < toSigned n l then r else l
      | 2 => if toSigned n l < toSigned n r then r else l
      | 3 => l &&& r
      | 4 => l ||| r
      | _ => l ^^^ r, 0⟩

/-- One round of the pairwise tree: neighbours combine, the lower element number on the left. -/
def pairRound (op : Nat → Nat → Flt) : List Nat → List Nat × BitVec 5
  | l :: r :: t =>
    let x := op l r
    let y := pairRound op t
    (x.val :: y.1, x.flags ||| y.2)
  | t => (t, 0)

/-- The pairwise tree of VRED, on fuel: its root and the flags of every node. -/
def redTree (op : Nat → Nat → Flt) : Nat → List Nat → Nat × BitVec 5
  | 0, ys => (ys.headD 0, 0)
  | n + 1, ys =>
    if ys.length ≤ 1 then (ys.headD 0, 0)
    else
      let r := pairRound op ys
      let t := redTree op n r.1
      (t.1, r.2 ||| t.2)

/-- The rounds of VSCAN, on fuel: the inclusive prefixes and the flags of every node. -/
def scanTree (op : Nat → Nat → Flt) : Nat → Nat → List Nat → List Nat × BitVec 5
  | 0, _, ys => (ys, 0)
  | n + 1, d, ys =>
    if ys.length ≤ d then (ys, 0)
    else
      let rs := List.zipWith op ys (ys.drop d)
      let t := scanTree op n (2 * d) (ys.take d ++ rs.map Flt.val)
      (t.1, rs.foldl (fun f r => f ||| r.flags) t.2)

/-- The elements of a cluster in element order (R191). -/
def clusterElems (fmt : Nat) (a : Vec) (c : Nat) : List Nat :=
  (List.range 16).flatMap fun i => (List.range (kel fmt)).map fun j => elemOf fmt (vlane a (16 * c + i)) j

/-- Whether a cluster has an active lane. -/
def clusterActive (m : BitVec 128) (c : Nat) : Bool := (List.range 16).any fun i => m.getLsbD (16 * c + i)

/-- The flags of the clusters that have an active lane (R191). -/
def clusterFlags (m : BitVec 128) (f : Nat → BitVec 5) : BitVec 5 :=
  (List.range 8).foldl (fun a c => if clusterActive m c then a ||| f c else a) 0

/-- VRED (R191). -/
def issueVred (u : VSlot) (w : SlotWord) (s : State) : Res :=
  let a := s.opV u.slot.num w.a
  let fmt := w.fmt.toNat
  let m := s.laneMask w
  let r : Vector (Nat × BitVec 5) 8 := Vector.ofFn fun c =>
    if clusterActive m c then redTree (redOp s.rmode fmt w.b.toNat) 6 (clusterElems fmt a c) else (0, 0)
  s.giveV u w 6 (fun l => laneOf fmt fun _ => ⟨(vget (0, 0) r (l / 16)).1, 0⟩)
    (clusterFlags m fun c => (vget (0, 0) r c).2)
/-- VRED (R191). -/
def execVred (u : VSlot) (w : SlotWord) (s : State) : Ans State := s.runV (.vred u w) u w none (issueVred u w)

/-- VSCAN (R191). -/
def issueVscan (u : VSlot) (w : SlotWord) (s : State) : Res :=
  let a := s.opV u.slot.num w.a
  let fmt := w.fmt.toNat
  let m := s.laneMask w
  let r : Vector (List Nat × BitVec 5) 8 := Vector.ofFn fun c =>
    if clusterActive m c then scanTree (redOp s.rmode fmt w.b.toNat) 6 1 (clusterElems fmt a c) else ([], 0)
  s.giveV u w 8 (fun l => laneOf fmt fun j => ⟨(vget ([], 0) r (l / 16)).1.getD (l % 16 * kel fmt + j) 0, 0⟩)
    (clusterFlags m fun c => (vget ([], 0) r c).2)
/-- VSCAN (R191). -/
def execVscan (u : VSlot) (w : SlotWord) (s : State) : Ans State := s.runV (.vscan u w) u w none (issueVscan u w)

/-! ### Mask logic (R183) -/

/-- KAND (R183). -/
def issueKand (u : VSlot) (w : SlotWord) (s : State) : Res :=
  let x := s.thr.getK w.a.toNat &&& s.thr.getK w.b.toNat
  s.giveK u w w.d.toNat x (BitVec.allOnes 128) x
/-- KAND (R183). -/
def execKand (u : VSlot) (w : SlotWord) (s : State) : Ans State := s.runV (.kand u w) u w none (issueKand u w)

/-- KOR (R183). -/
def issueKor (u : VSlot) (w : SlotWord) (s : State) : Res :=
  let x := s.thr.getK w.a.toNat ||| s.thr.getK w.b.toNat
  s.giveK u w w.d.toNat x (BitVec.allOnes 128) x
/-- KOR (R183). -/
def execKor (u : VSlot) (w : SlotWord) (s : State) : Ans State := s.runV (.kor u w) u w none (issueKor u w)

/-- KXOR (R183). -/
def issueKxor (u : VSlot) (w : SlotWord) (s : State) : Res :=
  let x := s.thr.getK w.a.toNat ^^^ s.thr.getK w.b.toNat
  s.giveK u w w.d.toNat x (BitVec.allOnes 128) x
/-- KXOR (R183). -/
def execKxor (u : VSlot) (w : SlotWord) (s : State) : Ans State := s.runV (.kxor u w) u w none (issueKxor u w)

/-- KNOT (R183). -/
def issueKnot (u : VSlot) (w : SlotWord) (s : State) : Res :=
  let x := ~~~(s.thr.getK w.a.toNat)
  s.giveK u w w.d.toNat x (BitVec.allOnes 128) x
/-- KNOT (R183). -/
def execKnot (u : VSlot) (w : SlotWord) (s : State) : Ans State := s.runV (.knot u w) u w none (issueKnot u w)

/-- KPOP (R183). -/
def issueKpop (u : VSlot) (w : SlotWord) (s : State) : Res :=
  .ok [s.giveS u.slot.num w 2 (BitVec.ofNat 64 (popCount 128 (s.thr.getK w.a.toNat).toNat))]
/-- KPOP (R183). -/
def execKpop (u : VSlot) (w : SlotWord) (s : State) : Ans State := s.runV (.kpop u w) u w none (issueKpop u w)

end Sys2Proof.Machine
end

