-- ==== Sys2Proof/Machine/Matrix.lean ====
section
/-! DEFINITION. The X and F slots (R193 to R211): the matrix engine's configuration, steps, moves and drains with their
completions, the scale registers and the shuffle patterns. -/

namespace Sys2Proof.Machine

/-! ### Common checks (R85, R141, R193, R202, R210) -/

/-- ENGINE_IN_HANDLER of a slot: handler mode without a lease (R85, R210). Log 15. -/
def State.engineErr (s : State) (slot : Nat) : Option TrapInfo :=
  if s.thr.ctl.hnd && !s.thr.ctl.lease then some (trapAt slot cEngine) else none

/-- ENGINE_IN_HANDLER first, then the operands, then the instruction's own look (R85). -/
def withEngine (slot : Nat) (i : Instr) (f : State → Res) (s : State) : Res :=
  match s.engineErr slot with
  | some t => .trap t []
  | none => withOperands slot i f s

/-- Run an X-slot instruction. -/
def State.runX (s : State) (i : Instr) (w : SlotWord) (ill : Option TrapInfo) (f : State → Res) : Ans State :=
  s.runSlot i w 5 none ill (withEngine 5 i f)

/-- Run an F-slot instruction. -/
def State.runF (s : State) (i : Instr) (w : SlotWord) (f : State → Res) : Ans State :=
  s.runSlot i w 7 none none (withEngine 7 i f)

/-- A local address on the thread's own core (R141): its offset, or the exception of a slot. -/
def State.ownAddr (s : State) (slot : Nat) (va : DWord) (n align : Nat) (wr : Bool) : Nat ⊕ Res :=
  match s.localAt va n true with
  | .inr d => .inr (raise slot cLocalBound d.toNat va wr)
  | .inl (_, off) => if va.toNat % align ≠ 0 then .inr (raise slot cMisalign 0 va wr) else .inl off

/-- A read of n aligned bytes of the own scratchpad by an engine-side instruction: it holds while a block is owned (R72, R146),
and sees the bytes as they stand at issue (R77). -/
def State.ownRead (s : State) (slot : Nat) (va : DWord) (n : Nat) (f : Nat → List Byte → Res) : Res :=
  match s.ownAddr slot va n n false with
  | .inr r => r
  | .inl off => if s.core.ownedAt off n then .hold {} [] else f off (s.core.scratch.read off n)

/-- STATE_BOUND of a tile at or above the launch's claim (R18). Log 15. -/
def State.tileErr (s : State) (t : Nat) : Option Res :=
  if s.core.acc ≤ t then some (raise 5 cStateBound 1) else none

/-- A command of the matrix engine: it holds while the queue of 16 is full or its wait counter cannot rise (R15, R74, R202). -/
def State.matrixCmd (s : State) (ctr : Option Nat) (op : XOp) (reads writes : List Nat) (more : List Eff := []) : Res :=
  if 16 ≤ s.core.xq.length then .hold {} []
  else match ctr with
    | some c => if vget 0 s.thr.w c = 0xFFFF then .hold {} [] else .ok (.counter c :: .xcmd op reads writes :: more)
    | none => .ok (.xcmd op reads writes :: more)

/-! ### MCFG and MWIN (R194, R195, R200) -/

/-- MCFG (R195). Log 21. -/
def issueMcfg (w : SlotWord) (s : State) : Res :=
  let va := s.opS 5 w.a
  s.ownRead 5 va 64 fun _ bs => match MConfig.ofBytes bs with
    | none => raise 5 cIllegalOp 16 va
    | some c => (s.tileErr (c.amap + c.mt * c.nt - 1)).getD (.ok [.mcfg c])
/-- MCFG (R195). -/
def execMcfg (w : SlotWord) (s : State) : Ans State := s.runX (.mcfg w) w none (issueMcfg w)

/-- MWIN (R200). Log 21. -/
def issueMwin (w : SlotWord) (s : State) : Res :=
  let va := s.opS 5 w.a
  s.ownRead 5 va 32 fun _ bs => match MWindow.ofBytes bs with
    | none => raise 5 cIllegalOp 16 va
    | some d => .ok [.mwin d]
/-- MWIN (R200). -/
def execMwin (w : SlotWord) (s : State) : Ans State := s.runX (.mwin w) w none (issueMwin w)

/-! ### Operands of a step (R46 to R51, R196, R197, R201) -/

/-- Planes that a plane-integer format reads: 8, 6, 4 or 2 (R48, R69). -/
def planesOf (fmt : Nat) : Nat := 8 - 2 * (fmt - 2)

/-- The depth K of a step (R50, R51). -/
def stepDepth (fa fb : Nat) : Nat :=
  if fa < 2 then 32
  else
    let p := max (planesOf fa) (planesOf fb)
    if 6 ≤ p then 64 else if p = 4 then 128 else 256

/-- The plane stride in bytes: 0 in the record means 16 · K (R194). -/
def planeStride (ps k : Nat) : Nat := if ps = 0 then 16 * k else ps

/-- The bytes of an operand tile at an offset (R197). -/
def operandSpans (fmt : Nat) (t : Int) (ps k : Nat) : List (Int × Nat) :=
  if fmt < 2 then [(t, 8192)]
  else [(t, planeStride ps k * (planesOf fmt - 1) + 16 * k)]

/-- Where element (i, k) of the window-unfolded A operand lies: an offset, or none where its value is +0 (R201). -/
def MWindow.elemAt (d : MWindow) (m kb i k : Nat) : Option Nat :=
  let r : Int := 128 * m + i
  let c := 32 * kb + k
  if d.wid * d.ch ≤ c then none
  else
    let tau : Int := d.m0 + r - ((d.wid : Int) - 1 - (c / d.ch : Nat)) * d.dil
    let ch := c % d.ch
    if 0 ≤ tau ∧ tau < d.trows then some (d.xbase + tau.toNat * d.xstr + 2 * ch)
    else match d.halo with
      | some h => if -(d.hrows : Int) ≤ tau ∧ tau < 0 then some (h + ((d.hrows : Int) + tau).toNat * d.xstr + 2 * ch) else none
      | none => none

/-- The spans of a window-unfolded A operand (R201). -/
def MWindow.spans (d : MWindow) (m kb : Nat) : List (Int × Nat) :=
  (List.range 128).flatMap fun i => (List.range 32).filterMap fun k => (d.elemAt m kb i k).map fun o => ((o : Int), 2)

/-- The spans of the A operand of a step. -/
def aSpans (fa : Nat) (t : Int) (ps k : Nat) (win : Option (MWindow × Nat × Nat)) : List (Int × Nat) :=
  match win with
  | some (d, m, kb) => d.spans m kb
  | none => operandSpans fa t ps k

/-- The blocks of a list of spans. -/
def spanBlocks (l : List (Int × Nat)) : List Nat := (l.flatMap fun x => blocksOf x.1.toNat x.2).eraseDups

/-- The integer part of a plane-integer element (R46 to R48): element e of row k. -/
def planeInt (m : Mem) (t ps p : Nat) (ctr : Bool) (k e : Nat) : Int :=
  let q : Nat := (List.range p).foldl (fun q j =>
    2 * q + bits (m.byte (t + ps * j + 16 * k + e / 8)).toNat (e % 8) 1) 0
  toSigned p q * 2 ^ (8 - p) + if ctr && p < 8 then 2 ^ (7 - p) else 0

/-- The floating format of a floating operand of a step (R69). -/
def stepFmt (f : Nat) : FFmt := if f = 0 then .bf16 else .fp16

/-- A floating element at an offset. -/
def padFloat (m : Mem) (fmt off : Nat) : Num := (stepFmt fmt).decode (m.le off 2)

/-- Factors of which one is zero and one infinite (R52). -/
def zeroInf (xs : List Num) : Bool :=
  (xs.any fun x => match x with | .fin _ m _ => m = 0 | _ => false) && xs.any fun x => match x with | .inf _ => true | _ => false

/-- The exact product of three factors; none for 0 · ∞ (R51, R52). A NaN factor makes the product a NaN. -/
def mul3 (a b c : Num) : Option Num :=
  if a.isNan || b.isNan || c.isNan then some (.nan (a.isSig || b.isSig || c.isSig))
  else match a.mul b with
    | none => none
    | some ab => ab.mul c

/-- An integer as an exact value; zero, to which R51 gives no sign, counts as +. Log 125. -/
def Num.ofInt (x : Int) : Num := .fin (x < 0) x.natAbs 0

/-- One element of a plane-integer step (R51, R52): a product 0 · ∞ sets NV beside a NaN too. -/
def planeElem (mode : RMode) (base : Num) (p : Int) (sa sb : Num) : Flt :=
  let prod := mul3 (Num.ofInt p) sa sb
  let r := FFmt.fp32.sum mode prod.isNone (base :: prod.toList)
  ⟨r.val, r.flags ||| if base.isSig || sa.isSig || sb.isSig || zeroInf [Num.ofInt p, sa, sb] then flagNV else 0⟩

/-- A matrix of 128 rows built from a function. -/
def grid {α : Type} (n : Nat) (f : Nat → Nat → α) : Vector (Vector α n) 128 := Vector.ofFn fun i => Vector.ofFn fun k => f i k

/-- A new tile and its flags from the results of its elements. -/
def tileOf (f : Nat → Nat → Flt) : Tile × BitVec 5 :=
  let g := grid 128 f
  (g.map fun r => r.map fun x => BitVec.ofNat 32 x.val, g.foldl (fun a r => r.foldl (fun a x => a ||| x.flags) a) 0)

/-- Element (i, j) of a tile. -/
def Tile.at (t : Tile) (i j : Nat) : Word := vget 0 (vget Vec.zero t i) j

/-- A matrix step (R50, R51, R198) on the bytes of the scratchpad: the new tile and the step's flags. -/
def runStep (m : Mem) (acc : Tile) (z : Bool) (mode : RMode) (fa fb : Nat) (ctra ctrb : Bool) (ta tb aps bps : Nat)
    (sa sb : Scale) (win : Option (MWindow × Nat × Nat)) : Tile × BitVec 5 :=
  let base (i j : Nat) : Num := if z then .fin false 0 0 else FFmt.fp32.decode (acc.at i j).toNat
  let k := stepDepth fa fb
  if fa < 2 then
    let a := grid 32 fun i k => match win with
      | some (d, mt, kb) => ((d.elemAt mt kb i k).map (padFloat m fa)).getD (.fin false 0 0)
      | none => padFloat m fa (ta + 64 * i + 2 * k)
    let b := grid 32 fun j k => padFloat m fb (tb + 256 * k + 2 * j)
    tileOf fun i j =>
      FFmt.fp32.dot mode (base i j) ((vget (Vector.replicate 32 (.fin false 0 0)) a i).toList.zip
        (vget (Vector.replicate 32 (.fin false 0 0)) b j).toList)
  else
    let pa := planesOf fa
    let pb := planesOf fb
    let a := grid k fun i k' => planeInt m ta (planeStride aps k) pa ctra k' i
    let b := grid k fun j k' => planeInt m tb (planeStride bps k) pb ctrb k' j
    tileOf fun i j =>
      let p := (List.range k).foldl (fun p k' => p + vget 0 (vget (Vector.replicate k 0) a i) k' *
        vget 0 (vget (Vector.replicate k 0) b j) k') (0 : Int)
      planeElem mode (base i j) p (FFmt.bf16.decode (vget 0 sa i).toNat) (FFmt.bf16.decode (vget 0 sb j).toNat)

/-! ### MSTEP (R196, R198, R199) -/

/-- The counters after a step: k fastest, then n, then m (R196). -/
def nextStep (c : MConfig) (x : Nat × Nat × Nat) : Nat × Nat × Nat :=
  let (m, n, k) := x
  if k + 1 < c.kt then (m, n, k + 1)
  else if n + 1 < c.nt then (m, n + 1, 0)
  else if m + 1 < c.mt then (m + 1, 0, 0)
  else (0, 0, 0)

/-- What MSTEP raises as ILLEGAL_OP at issue: no configuration, or the format pair (R198, R199). -/
def mstepIll (w : SlotWord) (s : State) : Option TrapInfo :=
  match s.thr.mcfg with
  | none => some (trapAt 5 cIllegalOp 18)
  | some c =>
    if (decide (w.fmt.toNat < 2) != decide (c.bfmt.toNat < 2)) || (s.thr.mwin.isSome && 2 ≤ w.fmt.toNat) then
      some (trapAt 5 cIllegalOp 17)
    else none

/-- The local address of an offset of the own core (R141). -/
def State.padAddr (s : State) (off : Int) : DWord := BitVec.ofInt 64 ((s.cur % 32 : Nat) * 2 ^ 22 + off)

/-- MSTEP (R198). -/
def issueMstep (w : SlotWord) (s : State) : Res :=
  match s.thr.mcfg with
  | none => raise 5 cIllegalOp 18
  | some c =>
    let (m, n, k) := s.thr.mctr
    let fa := w.fmt.toNat
    let fb := c.bfmt.toNat
    let ta : Int := c.abase + m * c.asm_ + k * c.ask
    let tb : Int := c.bbase + n * c.bsn + k * c.bsk
    let depth := stepDepth fa fb
    let win := s.thr.mwin.map fun d => (d, m, k)
    let spans := aSpans fa ta c.aps depth win ++ operandSpans fb tb c.bps depth
    let ea := c.scaleA s.thr.mctr
    let eb := c.scaleB s.thr.mctr
    match spans.find? fun x => x.1 < 0 || (s.claimOf s.cur : Int) < x.1 + x.2 with
    | some x => raise 5 cLocalBound 2 (s.padAddr x.1)
    | none =>
      if 2 ≤ fa && (s.thr.markOf [.e ea, .e eb]).isSome then raise 5 cPoison 3
      else s.matrixCmd none
        (.mstep (c.amap + c.nt * m + n) (w.mod.getLsbD 0) s.thr.ctl.rmode w.fmt c.bfmt c.ctra c.ctrb ta.toNat tb.toNat c.aps
          c.bps (vget Scale.zero s.thr.e ea) (vget Scale.zero s.thr.e eb) win)
        (spanBlocks spans) [] [.mctr (nextStep c s.thr.mctr)]
/-- MSTEP (R198). -/
def execMstep (w : SlotWord) (s : State) : Ans State := s.runX (.mstep w) w (mstepIll w s) (issueMstep w)

/-! ### MZERO, AMVR, AMVW, MDRN, MFIN (R204 to R206) -/

/-- MZERO (R204). -/
def issueMzero (w : SlotWord) (s : State) : Res :=
  (s.tileErr w.d.toNat).getD (s.matrixCmd none (.mzero w.d.toNat) [] [])
/-- MZERO (R204). -/
def execMzero (w : SlotWord) (s : State) : Ans State := s.runX (.mzero w) w none (issueMzero w)

/-- The checks of AMVR and AMVW: the tile, then the row range (R18, R204). -/
def State.rowErr (s : State) (w : SlotWord) : Option Res :=
  (s.tileErr (w.b.toNat / 8)).or
    (if 128 - (w.b.toNat % 8 + 1) < (s.opS 5 w.a).toNat then some (raise 5 cStateBound 3) else none)

/-- AMVR (R204). -/
def issueAmvr (w : SlotWord) (s : State) : Res :=
  (s.rowErr w).getD (s.matrixCmd (some (w.mod.toNat % 4))
    (.amvr (w.b.toNat / 8) (s.opS 5 w.a).toNat (w.b.toNat % 8 + 1) w.d.toNat (w.mod.toNat % 4)) [] [])
/-- AMVR (R204). -/
def execAmvr (w : SlotWord) (s : State) : Ans State := s.runX (.amvr w) w none (issueAmvr w)

/-- AMVW (R204): the vector registers are read at issue. -/
def issueAmvw (w : SlotWord) (s : State) : Res :=
  (s.rowErr w).getD (s.matrixCmd (some (w.mod.toNat % 4))
    (.amvw (w.b.toNat / 8) (s.opS 5 w.a).toNat (w.mod.toNat % 4)
      ((List.range (w.b.toNat % 8 + 1)).map fun i => s.thr.getV (w.d.toNat + i))) [] [])
/-- AMVW (R204). -/
def execAmvw (w : SlotWord) (s : State) : Ans State := s.runX (.amvw w) w none (issueAmvw w)

/-- Bytes of a drained element (R205). -/
def drainSize (fmt : Nat) : Nat := if fmt = 0 then 4 else 2

/-- MDRN (R205). -/
def issueMdrn (w : SlotWord) (s : State) : Res :=
  let t := w.d.toNat % 8
  let fmt := w.mod.toNat % 4
  let n := 16384 * drainSize fmt
  (s.tileErr t).getD <| match s.ownAddr 5 (s.opS 5 w.a) n 128 true with
    | .inr r => r
    | .inl off =>
      let mode := if w.d.toNat / 8 = 0 then s.thr.ctl.rmode else BitVec.ofNat 2 (w.d.toNat / 8)
      s.matrixCmd (some (w.mod.toNat / 4)) (.mdrn t fmt mode off (w.mod.toNat / 4)) [] (blocksOf off n)
/-- MDRN (R205). -/
def execMdrn (w : SlotWord) (s : State) : Ans State := s.runX (.mdrn w) w none (issueMdrn w)

/-- MFIN (R206): neither a limit nor WLIM applies to its wait. -/
def issueMfin (w : SlotWord) (s : State) : Res :=
  (s.tileErr w.d.toNat).getD (if s.core.xq.any fun x => x.op.tile = w.d.toNat then .hold {} [] else .ok [])
/-- MFIN (R206). -/
def execMfin (w : SlotWord) (s : State) : Ans State := s.runX (.mfin w) w none (issueMfin w)

/-! ### Completions (R202 to R207) -/

/-- Flags that reach FPST at a completion (R23). -/
def Core.flag (c : Core) (f : BitVec 5) : Core :=
  let t := c.thr.orFlags f
  { c with thr := { t with landed := t.landed ||| f } }

/-- A tile takes its new contents and its poison mark (R207). -/
def Core.setTile (c : Core) (t : Nat) (x : Tile) (bad : Bool) : Core :=
  { c with thr := { c.thr with acc := vset c.thr.acc t x, accPoison := c.thr.accPoison.put t bad } }

/-- The tile of a number. -/
def Core.tile (c : Core) (t : Nat) : Tile := vget Tile.zero c.thr.acc t

/-- A tile with rows replaced from row r on. -/
def Tile.putRows (t : Tile) (r : Nat) (rows : List Vec) : Tile :=
  (List.range rows.length).foldl (fun t i => vset t (r + i) (rows.getD i Vec.zero)) t

/-- The elements of a tile drained in a format, with the flags (R44, R205). -/
def drainTile (t : Tile) (fmt : Nat) (mode : RMode) : List Byte × BitVec 5 :=
  if fmt = 0 then (t.toList.flatMap Vec.bytes, 0)
  else
    let f := if fmt = 1 then FFmt.bf16 else .fp16
    let es := t.toList.flatMap fun r => r.toList.map fun x => f.ofNum mode (FFmt.fp32.decode x.toNat)
    (es.flatMap fun x => natBytes 2 x.val, es.foldl (fun a x => a ||| x.flags) 0)

/-- What a matrix command does when it completes (R50, R51, R198, R204, R205, R207). -/
def Core.finishOp (c : Core) (x : XCmd) : Core :=
  match x.op with
  | .mstep t z mode fa fb ctra ctrb ta tb aps bps sa sb win =>
    let k := stepDepth fa.toNat fb.toNat
    let spans := aSpans fa.toNat ta aps k win ++ operandSpans fb.toNat tb bps k
    let old := c.asOf x.was
    let bad := spans.any fun y => (wordsOf y.1.toNat y.2).any fun i => old.spoison.has i
    let r := runStep old.scratch (c.tile t) z (.ofBits mode.toNat) fa.toNat fb.toNat ctra ctrb ta tb aps bps sa sb win
    (c.setTile t r.1 (bad || (!z && c.thr.accPoison.has t))).flag r.2
  | .mzero t => c.setTile t Tile.zero false
  | .amvr t r n vd w =>
    let bad := c.thr.accPoison.has t
    let c := { c with thr := { (c.thr.counterAdd w (-1)) with ilocks := c.thr.ilocks.filter fun l => l.token ≠ x.token } }
    c.land { due := 0
             writes := (List.range n).map fun i => .vec (vd + i) (vget Vec.zero (c.tile t) (r + i)) (BitVec.allOnes 128)
             marks := if bad then (List.range n).flatMap fun i => (List.range 128).map fun l => ⟨.v (vd + i), l, 0⟩ else [] }
  | .amvw t r w rows =>
    let c := c.setTile t ((c.tile t).putRows r rows) (c.thr.accPoison.has t)
    { c with thr := c.thr.counterAdd w (-1) }
  | .mdrn t fmt mode dst w =>
    let r := drainTile (c.tile t) fmt (.ofBits mode.toNat)
    let bad := c.thr.accPoison.has t
    let c := (c.putScratch dst r.1).flag r.2
    { c with spoison := if bad then c.spoison.putAll (wordsOf dst r.1.length) true else c.spoison,
             thr := c.thr.counterAdd w (-1) }

/-- The blocks that drains have written and that are still owned: those of one more drain that has completed (R203, R414). -/
def Core.settleDrains (c : Core) (new : List (Nat × Nat)) : Core :=
  { c with drained := (c.drained ++ new).filter fun x => c.owned.contains x.2 }

/-- The wait counter and the blocks of a drain. -/
def XCmd.drains (x : XCmd) : List (Nat × Nat) :=
  match x.op with
  | .mdrn _ _ _ _ w => x.writes.map fun b => (w, b)
  | _ => []

/-- Bytes of the focus core's scratchpad that an engine has written return with their blocks: they are plain writes, which the return
releases at DIE scope (R238, R247). -/
def State.returned (s : State) (off n : Nat) : State :=
  (s.endSeq (s.padLoc s.cur off) n).release (s.padLoc s.cur off) n ⟨s.cur, scopeDie, none, none⟩

/-- Command i of the focus core's matrix queue completes, where it is of the kind given and may complete now: its blocks
return, later commands may start, and a thread that has left by EXIT may end (R122, R202, R203, R247); not while its masters are frozen
(R377); the results of a trimmed step
are discarded (R321). Log 22. -/
def State.completeX (s : State) (event : String) (kind : XOp → Bool) (i : Nat) : Ans State :=
  match s.core.xq[i]? with
  | none => off_ event
  | some x =>
    if !kind x.op || s.halted s.thr.launch || !s.core.canComplete i x then off_ event
    else
      let c := if s.core.discard then s.core else s.core.finishOp x
      let s := s.setCore ((({ c with xq := c.xq.eraseIdx i } : Core).settleDrains x.drains).startX s.now)
      .next (match x.op with
        | .mdrn _ fmt _ dst _ => if s.core.discard then s else s.returned dst (16384 * drainSize fmt)
        | _ => s).tryExit

/-- MSTEP_COMPLETE (R202). -/
def execMstepComplete (i : Nat) (s : State) : Ans State :=
  s.completeX "MSTEP_COMPLETE" (fun o => match o with | .mstep .. => true | _ => false) i
/-- MZERO_COMPLETE (R202). -/
def execMzeroComplete (i : Nat) (s : State) : Ans State :=
  s.completeX "MZERO_COMPLETE" (fun o => match o with | .mzero .. => true | _ => false) i
/-- AMVR_COMPLETE (R204). -/
def execAmvrComplete (i : Nat) (s : State) : Ans State :=
  s.completeX "AMVR_COMPLETE" (fun o => match o with | .amvr .. => true | _ => false) i
/-- AMVW_COMPLETE (R204). -/
def execAmvwComplete (i : Nat) (s : State) : Ans State :=
  s.completeX "AMVW_COMPLETE" (fun o => match o with | .amvw .. => true | _ => false) i
/-- MDRN_COMPLETE (R205). -/
def execMdrnComplete (i : Nat) (s : State) : Ans State :=
  s.completeX "MDRN_COMPLETE" (fun o => match o with | .mdrn .. => true | _ => false) i

/-! ### The F slot (R208 to R210) -/

/-- A scale register's write at issue + 4 (R208). -/
def State.giveE (s : State) (d : Nat) (x : Scale) (marks : List PMark) : Res :=
  .ok [.land { due := s.now + 4, writes := [.scale d x], marks := marks }]

/-- SCLD (R208): the address is 64-byte aligned. -/
def issueScld (w : SlotWord) (s : State) : Res :=
  match s.ownAddr 7 (s.opS 7 w.a) 256 64 false with
  | .inr r => r
  | .inl off =>
    if s.core.ownedAt off 256 then .hold {} []
    else
      let bad := (wordsOf off 256).any fun k => s.core.spoison.has k
      let m := s.core.scratch
      s.giveE w.d.toNat (Vector.ofFn fun j => BitVec.ofNat 16 (m.le (off + 2 * j) 2))
        (if bad then [⟨.e w.d.toNat, 0, 0⟩] else [])
/-- SCLD (R208). -/
def execScld (w : SlotWord) (s : State) : Ans State := s.runF (.scld w) w (issueScld w)

/-- SCMV (R208): a poisoned source raises POISON with DETAIL 3 (R254). -/
def issueScmv (w : SlotWord) (s : State) : Res :=
  if (s.thr.markOf [.e w.a.toNat]).isSome then raise 7 cPoison 3
  else
    let a := vget Scale.zero s.thr.e w.a.toNat
    s.giveE w.d.toNat
      (if w.mod = 0 then a else Vector.replicate 128 (vget 0 a ((s.opS 7 w.b).toNat % 128))) []
/-- SCMV (R208). -/
def execScmv (w : SlotWord) (s : State) : Ans State := s.runF (.scmv w) w (issueScmv w)

/-- PATLD (R209): a physical bank's entry is written at issue + 4; the last four bytes are ignored. Log 21. -/
def issuePatld (w : SlotWord) (s : State) : Res :=
  s.ownRead 7 (s.opS 7 w.a) 16 fun _ bs =>
    .ok [.land { due := s.now + 4, writes := [.pattern (w.mod.getLsbD 0) w.d.toNat (BitVec.ofNat 96 (bytesNat (bs.take 12)))] }]
/-- PATLD (R209). -/
def execPatld (w : SlotWord) (s : State) : Ans State := s.runF (.patld w) w (issuePatld w)

/-- PATSW (R209). -/
def execPatsw (w : SlotWord) (s : State) : Ans State := s.runF (.patsw w) w fun _ => .ok [.patsw]

end Sys2Proof.Machine
end

