-- ==== Sys2Proof/Machine/Scan.lean ====
section
/-! DEFINITION. The N slot (R212 to R234): combine words and the combine itself, chunk scans and fix-ups, posting and waiting,
the decode updates, moves between state rows and vectors, spill and fill, with the completions of the queued commands. -/

namespace Sys2Proof.Machine

/-! ### The combine (R56, R214 to R216) -/

/-- The kind of a combine word: 0 AFF, 1 SUM, 2 MAXPL, 3 MAX, 4 MIN, 5 LAST (R214). -/
def opKind (op : Word) : Nat := op.toNat % 8
/-- Whether a combine word's state format is FP32 (R214). -/
def opFp32 (op : Word) : Bool := op.getLsbD 3
/-- The floating format of a combine word. -/
def opFmt (op : Word) : FFmt := if opFp32 op then .fp32 else .bf16
/-- The rounding mode of a combine word (R214). -/
def opMode (op : Word) : RMode := .ofBits (bits op.toNat 4 2)
/-- PAD = 1: identity operands are combined as values (R214, R216). -/
def opArith (op : Word) : Bool := op.getLsbD 6

/-- The identity of a word's kind (R215). Log 17. -/
def identityOf (op : Word) : Pair :=
  let f := opFmt op
  let w (n : Nat) : Word := BitVec.ofNat 32 n
  match opKind op with
  | 0 => (w (f.bias.toNat * 2 ^ f.frac), 0)
  | 2 | 3 => (0, w (f.inf true))
  | 4 => (0, w (f.inf false))
  | _ => (0, 0)

/-- The y result of a combine with its flags (R215). -/
def combineY (op : Word) (l r : Pair) : Word × BitVec 5 :=
  let f := opFmt op
  let m := opMode op
  let n (x : Word) : Num := f.decode x.toNat
  let out (x : Flt) : Word × BitVec 5 := (BitVec.ofNat 32 x.val, x.flags)
  match opKind op with
  | 0 => out (f.dot m (n r.2) [(n r.1, n l.2)])
  | 1 => out (f.add m (n l.2) (n r.2))
  | 2 =>
    let a := f.add m (n r.1) (n l.2)
    let b := f.minmax true a.val r.2.toNat
    out ⟨b.val, a.flags ||| b.flags⟩
  | 3 => out (f.minmax true l.2.toNat r.2.toNat)
  | 4 => out (f.minmax false l.2.toNat r.2.toNat)
  | _ => (if r.1.toNat % 2 ^ (f.width - 1) ≠ 0 then r.2 else l.2, 0)

/-- The x result of a combine with its flags (R215). -/
def combineX (op : Word) (l r : Pair) : Word × BitVec 5 :=
  let f := opFmt op
  let n (x : Word) : Num := f.decode x.toNat
  let out (x : Flt) : Word × BitVec 5 := (BitVec.ofNat 32 x.val, x.flags)
  match opKind op with
  | 0 => out (f.mul (opMode op) (n r.1) (n l.1))
  | 2 => out (f.add (opMode op) (n r.1) (n l.1))
  | 5 => (if r.1.toNat % 2 ^ (f.width - 1) ≠ 0 then r.1 else l.1, 0)
  | _ => (r.1, 0)

/-- Combine(op, L, R) on element pairs with its flags (R215). -/
def combine (op : Word) (l r : Pair) : Pair × BitVec 5 :=
  let x := combineX op l r
  let y := combineY op l r
  ((x.1, y.1), x.2 ||| y.2)

/-- Combine with operands that may be the padding identity, none here (R216): under EXACT it passes the other operand through,
under ARITH it is the identity's values. Log 17. -/
def combinePad (op : Word) (l r : Option Pair) : Option Pair × BitVec 5 :=
  match l, r with
  | some a, some b => let c := combine op a b; (some c.1, c.2)
  | _, _ =>
    if opArith op then let c := combine op (l.getD (identityOf op)) (r.getD (identityOf op)); (some c.1, c.2)
    else (l.or r, 0)

/-! ### Poison marks of pairs (R335) -/

/-- The marks of element i among the marks of a list of pairs: of x and of y. -/
def Bits.pair (b : Bits) (i : Nat) : Bool × Bool := (b.has (2 * i), b.has (2 * i + 1))

/-- The marks that a combine's results take from the operand words that it reads (R215, R335): AFF, MAXPL and LAST read both x words and
let R.x reach y. -/
def markBoth (op : Word) (l r : Bool × Bool) : Bool × Bool :=
  if opKind op = 0 || opKind op = 2 || opKind op = 5 then (l.1 || r.1, l.2 || r.2 || r.1) else (r.1, l.2 || r.2)

/-- The same with operands that may be the padding identity, none here, which carries no mark (R216). -/
def markPad (op : Word) (l r : Option (Bool × Bool)) : Bool × Bool :=
  match l, r with
  | some a, some b => markBoth op a b
  | _, _ => if opArith op then markBoth op (l.getD (false, false)) (r.getD (false, false)) else (l.or r).getD (false, false)

/-! ### Tiles in the state register file (R19, R213) -/

/-- Write a pair tile, with its marks; IDN is cleared (R213, R335). -/
def Core.putPair (c : Core) (fp32 : Bool) (u : Nat) (ps : List Pair) (bad : Bits) : Core :=
  let y := u + tileUnits fp32
  let c := c.putUnits (u * unitBytes) (ps.flatMap fun p => elemBytes fp32 p.1)
  let c := c.putUnits (y * unitBytes) (ps.flatMap fun p => elemBytes fp32 p.2)
  let ws := bad.map fun j => unitAddr fp32 (if j % 2 = 0 then u else y) (j / 2 / 128) (j / 2 % 128) / 8
  { c with upoison := c.upoison.putAll ws true }

/-- Whether any word of some units is marked poisoned. Log 18. -/
def Core.unitsBad (c : Core) (us : List Nat) : Bool := c.upoison.any fun w => us.contains (w * 8 / unitBytes)

/-- STATE_BOUND of a tile at a relative unit index: SBASE at or above SLIM, an odd FP32 start, the SLIM limit (R19, R232). Log 15. -/
def State.unitErr (s : State) (fp32 : Bool) (rel : Nat) : Option Nat :=
  let p := s.thr.ctl.sbase.toNat + rel
  let lim := s.thr.ctl.slim.toNat
  if lim ≤ s.thr.ctl.sbase.toNat then some 0
  else if fp32 && p % 2 = 1 then some 2
  else if lim < p + tileUnits fp32 then some 0
  else none

/-- STATE_BOUND of a pair tile: the x half, then the y half (R213, R232). -/
def State.pairErr (s : State) (fp32 : Bool) (rel : Nat) : Option Nat :=
  (s.unitErr fp32 rel).or (s.unitErr fp32 (rel + tileUnits fp32))

/-! ### Running an N slot (R85, R232) -/

/-- U of an N instruction: U[7:2] in B and U[1:0] in MOD[3:2] (R212). -/
def relUnit (w : SlotWord) : Nat := 4 * w.b.toNat + w.mod.toNat / 4

/-- The physical unit of U. -/
def State.physUnit (s : State) (w : SlotWord) : Nat := s.thr.ctl.sbase.toNat + relUnit w

/-- The state format of an N instruction (R69). -/
def isFp32 (w : SlotWord) : Bool := w.fmt = 1

/-- The combine word of an operator register. -/
def State.operator (s : State) (n : Nat) : Word := vget 0 s.thr.o (n % 4)

/-- STATE_BOUND of an operator word whose FMT differs from the instruction's (R214). -/
def State.operatorErr (s : State) (n : Nat) (w : SlotWord) : Option Nat :=
  if opFp32 (s.operator n) ≠ isFp32 w then some 5 else none

/-- Run an N-slot instruction, its exceptions in the order of R232: `ill` what it raises as ILLEGAL_OP at issue, `bound` the
DETAIL of STATE_BOUND, then STREAM, the instruction's own look, and POISON of its operands. -/
def State.runN (s : State) (i : Instr) (w : SlotWord) (ill : Option TrapInfo) (bound : State → Option Nat) (f : State → Res) :
    Ans State :=
  s.runSlot i w 6 none ill fun s =>
    match s.engineErr 6 with
    | some t => .trap t []
    | none => match bound s with
      | some d => raise 6 cStateBound d
      | none => match s.streamErr 6 i with
        | some t => .trap t []
        | none => match f s with
          | .ok es => match s.poisonErr 6 i with
            | some t => .trap t []
            | none => .ok es
          | r => r

/-- A command of the scan engine: it holds while the queue of 16 is full (R231). -/
def State.scanCmd (s : State) (op : NOp) (units uwr blocks bwr : List Nat) (more : List Eff := []) : Res :=
  if 16 ≤ s.core.nq.length then .hold {} [] else .ok (.ncmd op units uwr blocks bwr :: more)

/-! ### SOPD, SID, SCMB (R214, R217, R218) -/

/-- ILLEGAL_OP of an invalid combine word (R214). -/
def sopdIll (w : SlotWord) (s : State) : Option TrapInfo :=
  let x := (s.opS 6 w.a).toNat % 2 ^ 32
  if (s.streamErr 6 (.sopd w)).isNone && (6 ≤ x % 8 || 2 ^ 7 ≤ x) then some (trapAt 6 cIllegalOp 19) else none

/-- SOPD (R214). -/
def issueSopd (w : SlotWord) (s : State) : Res := .ok [.sopd w.d.toNat ((s.opS 6 w.a).setWidth 32)]
/-- SOPD (R214). -/
def execSopd (w : SlotWord) (s : State) : Ans State := s.runN (.sopd w) w (sopdIll w s) (fun _ => none) (issueSopd w)

/-- STATE_BOUND of an instruction that names a pair tile and an operator (R232). -/
def State.pairOpErr (s : State) (w : SlotWord) : Option Nat :=
  (s.pairErr (isFp32 w) (relUnit w)).or (s.operatorErr w.mod.toNat w)

/-- SID (R217). -/
def issueSid (w : SlotWord) (s : State) : Res :=
  let us := pairUnits (isFp32 w) (s.physUnit w)
  s.scanCmd (.sid (s.physUnit w) (isFp32 w) (s.operator w.mod.toNat)) us us [] []
/-- SID (R217). -/
def execSid (w : SlotWord) (s : State) : Ans State :=
  s.runN (.sid w) w none (fun s => s.pairOpErr w) (issueSid w)

/-- The state element that a lane of a vector operand carries (R213). -/
def laneElem (fp32 : Bool) (x : Word) : Word := if fp32 then x else BitVec.ofNat 32 (x.toNat % 2 ^ 16)

/-- SCMB (R218): lane by lane, without padding; the y result reaches l6. -/
def issueScmb (w : SlotWord) (s : State) : Res :=
  let op := s.operator w.mod.toNat
  let reg (n l : Nat) : Word := laneElem (isFp32 w) (vlane (s.thr.getV n) l)
  let r : Vector (Pair × BitVec 5) 128 := Vector.ofFn fun l =>
    combine op (reg w.a.toNat l, reg (w.a.toNat + 1) l) (reg w.b.toNat l, reg (w.b.toNat + 1) l)
  let x : Vec := r.map fun p => p.1.1
  let y : Vec := r.map fun p => p.1.2
  .ok [.land { due := s.now + 4, latch := some (6, .vector y), flags := r.foldl (fun a p => a ||| p.2) 0
               writes := if w.wb then [.vec w.d.toNat x (BitVec.allOnes 128), .vec (w.d.toNat + 1) y (BitVec.allOnes 128)]
                 else [] }]
/-- SCMB (R218). -/
def execScmb (w : SlotWord) (s : State) : Ans State :=
  s.runN (.scmb w) w none (fun s => s.operatorErr w.mod.toNat w) (issueScmb w)

/-! ### Chunk descriptors (R219, R221, R222) -/

/-- Bytes of one tile (R219). -/
def tileBytes (fp32 : Bool) : Nat := unitBytes * tileUnits fp32

/-- A source of a chunk descriptor: its byte, offset and stride (R219). -/
def chunkSource (b off : Nat) (stride : Int) : Option ChunkPort :=
  if bits b 3 4 ≠ 0 then none
  else if 128 ≤ b then some (.stream (b % 8))
  else if off % 128 = 0 ∧ stride % 128 = 0 then some (.pad off stride) else none

/-- A destination of a chunk descriptor (R219). -/
def chunkDest (tile b off : Nat) (stride : Int) : Option ChunkPort :=
  if bits b 3 3 ≠ 0 ∨ 192 ≤ b then none
  else if 128 ≤ b then some (.stream (b % 8))
  else if 64 ≤ b then some .discard
  else if off % 128 = 0 ∧ stride % 128 = 0 ∧ tile ≤ stride.natAbs then some (.pad off stride) else none

/-- A chunk descriptor from its bytes, where every field keeps the range of R219; `init` holds IUNIT relative to SBASE. -/
def Chunk.ofBytes (fp32 : Bool) (bs : List Byte) : Option Chunk :=
  let f := recField bs
  let st (o : Nat) : Int := toSigned 32 (f o 4)
  let n := f 0 2
  if n = 0 ∨ 1024 < n ∨ 1 < f 6 1 ∨ f 40 8 ≠ 0 ∨ f 48 8 ≠ 0 ∨ f 56 8 ≠ 0 then none
  else match chunkSource (f 2 1) (f 8 4) (st 24), chunkSource (f 3 1) (f 12 4) (st 28),
      chunkDest (tileBytes fp32) (f 4 1) (f 16 4) (st 32), chunkDest (tileBytes fp32) (f 5 1) (f 20 4) (st 36) with
    | some a, some b, some h, some x => some ⟨n, a, b, h, x, if f 6 1 = 1 then some (f 7 1) else none, bs⟩
    | _, _, _, _ => none

/-- A scratchpad port. -/
def ChunkPort.isPad : ChunkPort → Bool
  | .pad .. => true
  | _ => false

/-- The scratchpad tiles that a port touches over a chunk: first byte of each. -/
def ChunkPort.tiles (n : Nat) : ChunkPort → List Int
  | .pad off st => (List.range n).map fun (t : Nat) => (off : Int) + st * t
  | _ => []

/-- The descriptor that SCHK or SFIX reads at issue (R219, R222): none while its words are not readable. -/
def State.chunkAt (s : State) (w : SlotWord) : Option (Option Chunk) :=
  match s.localAt (s.opS 6 w.a) 64 true with
  | .inl (_, off) =>
    if (s.opS 6 w.a).toNat % 64 ≠ 0 || s.core.ownedAt off 64 then none
    else some (Chunk.ofBytes (isFp32 w) (s.core.scratch.read off 64))
  | .inr _ => none

/-- ILLEGAL_OP of a chunk descriptor (R219, R221). -/
def chunkIll (i : Instr) (fix : Bool) (w : SlotWord) (s : State) : Option TrapInfo :=
  if (s.streamErr 6 i).isSome then none
  else match s.chunkAt w with
    | some none => some (trapAt 6 cIllegalOp 16 (s.opS 6 w.a))
    | some (some d) => if fix && !(d.hd.isPad && d.xd.isPad) then some (trapAt 6 cIllegalOp 16 (s.opS 6 w.a)) else none
    | none => none

/-- LOCAL_BOUND of the tiles a chunk touches (R219). Log 15. -/
def State.chunkBound (s : State) (fp32 : Bool) (ts : List Int) : Option Res :=
  (ts.find? fun t => t < 0 || (s.claimOf s.cur : Int) < t + tileBytes fp32).map fun t =>
    raise 6 cLocalBound 2 (s.padAddr t)

/-- The blocks of some tiles. -/
def tileBlocks (fp32 : Bool) (ts : List Int) : List Nat := (ts.flatMap fun t => blocksOf t.toNat (tileBytes fp32)).eraseDups

/-- STREAM of the streams that a descriptor names, or a hold while one of them is engine-held (R222). -/
def State.chunkStreams (s : State) (d : Chunk) : Option Res :=
  let use (rd : Bool) (p : ChunkPort) : List (Nat × Bool) := match p with | .stream q => [(q, rd)] | _ => []
  let us := use true d.as_ ++ use true d.bs ++ use false d.hd ++ use false d.xd
  match us.findSome? fun x => s.streamBad (x.1, x.2, true) with
  | some k => some (raise 6 cStream k)
  | none => if us.any fun x => (vget {} s.thr.q x.1).engine.isSome then some (.hold {} []) else none

/-- The look of SCHK and SFIX once the descriptor is read; an address that cannot be read raises its own exception. -/
def State.withChunk (s : State) (w : SlotWord) (f : Chunk → Res) : Res :=
  s.ownRead 6 (s.opS 6 w.a) 64 fun _ bs => match Chunk.ofBytes (isFp32 w) bs with
    | some d => f d
    | none => raise 6 cIllegalOp 16 (s.opS 6 w.a)

/-- STATE_BOUND of SCHK and SFIX: the pair tile, IUNIT, the operator (R219, R232). -/
def State.chunkErr (s : State) (w : SlotWord) : Option Nat :=
  (s.pairErr (isFp32 w) (relUnit w)).or <|
  (match s.chunkAt w with
    | some (some d) => d.init.bind fun u => s.pairErr (isFp32 w) u
    | _ => none).or (s.operatorErr w.mod.toNat w)

/-- SCHK (R220). -/
def issueSchk (w : SlotWord) (s : State) : Res :=
  s.withChunk w fun d =>
    match s.chunkStreams d with
    | some r => r
    | none =>
      let fp := isFp32 w
      let src := d.as_.tiles d.len ++ d.bs.tiles d.len
      let dst := d.hd.tiles d.len ++ d.xd.tiles d.len
      (s.chunkBound fp (src ++ dst)).getD <|
        let u := s.physUnit w
        let iu := d.init.map fun x => s.thr.ctl.sbase.toNat + x
        s.scanCmd (.schk u fp (s.operator w.mod.toNat) { d with init := iu })
          (pairUnits fp u ++ (iu.map (pairUnits fp)).getD []) (pairUnits fp u) (tileBlocks fp src) (tileBlocks fp dst)
/-- SCHK (R220). -/
def execSchk (w : SlotWord) (s : State) : Ans State :=
  s.runN (.schk w) w (chunkIll (.schk w) false w s) (fun s => s.chunkErr w) (issueSchk w)

/-- SFIX (R221). -/
def issueSfix (w : SlotWord) (s : State) : Res :=
  s.withChunk w fun d =>
    match s.chunkStreams d with
    | some r => r
    | none =>
      let fp := isFp32 w
      let ts := d.hd.tiles d.len ++ d.xd.tiles d.len
      (s.chunkBound fp ts).getD <|
        let u := s.physUnit w
        s.scanCmd (.sfix u fp (s.operator w.mod.toNat) d) (pairUnits fp u) [] (tileBlocks fp ts) (tileBlocks fp ts)
/-- SFIX (R221). -/
def execSfix (w : SlotWord) (s : State) : Ans State :=
  s.runN (.sfix w) w (chunkIll (.sfix w) true w s) (fun s => s.chunkErr w) (issueSfix w)

/-! ### SXCH and SWT (R223, R225, R233) -/

/-- SXCH and SWT in handler mode raise ILLEGAL_OP, lease or not (R225). -/
def handlerIll (s : State) : Option TrapInfo := if s.thr.ctl.hnd then some (trapAt 6 cIllegalOp 12) else none

/-- Whether a leaf counts as posted in its scan's round (R223, R332): posted with its carry not landed, or named by an SXCH that
is queued on some core. Log 19. -/
def State.leafPosted (s : State) (launch scan leaf : Nat) (c : Scan) : Bool :=
  (c.posts.any fun p => p.leaf = leaf && !c.landed.has leaf) || (c.next.any fun p => p.leaf = leaf) ||
    (c.far.any fun x => x.1 = leaf) || (c.carries.any fun p => p.leaf = leaf) ||
    s.busyCores.any fun n =>
      let k := s.coreAt n
      k.thr.launch = launch && k.nq.any fun x => match x.op with
        | .sxch _ _ _ sc l => sc = scan && l = leaf
        | _ => false

/-- STATE_BOUND of a leaf selector (R223, R324, R336): DETAIL 6, 7, 8, then 9. -/
def State.leafErr_ (s : State) (sel : Nat) (op : Word) : Option Nat :=
  let scan := bits sel 24 4
  let leaf := sel % 2 ^ 24
  match s.myLaunch.bind fun l => l.scans[scan]? with
  | none => some 6
  | some c =>
    if 2 ^ 28 ≤ sel ∨ min c.leaves c.absent ≤ leaf then some 6
    else if op ≠ c.opw then some 7
    else if s.leafPosted s.thr.launch scan leaf c then some 8
    else if c.aborted then some 9
    else none

/-- STATE_BOUND of SXCH (R232). Log 19. -/
def State.sxchErr (s : State) (w : SlotWord) : Option Nat :=
  (s.pairOpErr w).or (s.leafErr_ (s.opS 6 w.a).toNat (s.operator w.mod.toNat))

/-- SXCH (R223); a provisional step stalls (R233). -/
def issueSxch (w : SlotWord) (s : State) : Res :=
  if s.thr.ctl.prov then .hold {} []
  else
    let u := s.physUnit w
    let us := pairUnits (isFp32 w) u
    let sel := (s.opS 6 w.a).toNat
    s.scanCmd (.sxch u (isFp32 w) (s.operator w.mod.toNat) (bits sel 24 4) (sel % 2 ^ 24)) us us [] []
/-- SXCH (R223). -/
def execSxch (w : SlotWord) (s : State) : Ans State :=
  s.runN (.sxch w) w (handlerIll s) (fun s => s.sxchErr w) (issueSxch w)

/-- Whether an SXCH naming a unit is queued, or the unit is carry-pending (R225). -/
def Core.waitsFor (c : Core) (u : Nat) : Bool :=
  (c.pending.any fun k => k % 256 = u) || c.nq.any fun x => match x.op with | .sxch v .. => v = u | _ => false

/-- SWT (R225, R336): where it would be satisfied, the first on a unit whose round was aborted raises STATE_BOUND. -/
def issueSwt (w : SlotWord) (s : State) : Res :=
  let u := s.physUnit w
  if s.core.waitsFor u then
    .hold { limit := (s.opS 6 w.d).toNat % 2 ^ 32, detail := 5, wlim := true } []
  else match s.core.aborted.find? fun k => k % 256 = u with
    | some k => .trap (trapAt 6 cStateBound 9) [.abortSeen k]
    | none => .ok []
/-- SWT (R225). -/
def execSwt (w : SlotWord) (s : State) : Ans State :=
  s.runN (.swt w) w (handlerIll s) (fun s => s.pairErr (isFp32 w) (relUnit w)) (issueSwt w)

/-! ### SSTEP (R226 to R228) -/

/-- The physical units of a tile. -/
def tileUnitsAt (fp32 : Bool) (u : Nat) : List Nat := (List.range (tileUnits fp32)).map fun i => u + i

/-- An SSTEP holds while a unit it names is written by an open command or awaits a carry (R228, R231); and while an open command that only
reads such a unit has not read it, so that the command observes no part of the SSTEP (R228). Log 116. -/
def Core.unitBusy (c : Core) (us : List Nat) : Bool :=
  (c.nq.any fun x => overlap x.uwr us || !x.captured && overlap x.units us) || c.pending.any fun k => overlap (keyUnits k) us

/-- What a result writes into one row of the state register file, in 256-byte pieces (R213). -/
def rowWrites (fp32 : Bool) (u row : Nat) (x : Vec) : List Write :=
  let bs := rowBytes fp32 x
  let at_ := unitAddr fp32 u row 0
  (if fp32 then [0, 256] else [0]).map fun o =>
    .units ((at_ + o) / unitBytes) ((at_ + o) / 256 % 16) (at_ + o) ((bs.drop o).take 256)

/-- An SSTEP's poisoned state units (R226), after its own look. Log 18. -/
def State.unitPoison (s : State) (us : List Nat) (r : Res) : Res :=
  if s.core.unitBusy us then .hold {} []
  else if s.core.unitsBad us then raise 6 cPoison 2 else r

/-- The results of an SSTEP: state rows, vD and l6, with its flags (R226, R227). -/
def State.giveStep (s : State) (w : SlotWord) (lat : Nat) (rows : List Write) (y : Vec) (flags : BitVec 5) : Res :=
  .ok [.land { due := s.now + lat, latch := some (6, .vector y), flags := flags
               writes := rows ++ if w.wb then [.vec w.d.toNat y (BitVec.allOnes 128)] else [] }]

/-- STATE_BOUND of SSTEP.AFF (R226, R232). -/
def State.affErr (s : State) (w : SlotWord) : Option Nat :=
  let sel := (s.opS 6 w.b).toNat
  if 2 ^ 14 ≤ sel then some 4
  else (s.unitErr (isFp32 w) (bits sel 0 8)).or (s.operatorErr (bits sel 12 2) w)

/-- SSTEP.AFF (R226). -/
def issueSstepAff (w : SlotWord) (s : State) : Res :=
  let sel := (s.opS 6 w.b).toNat
  let fp := isFp32 w
  let u := s.thr.ctl.sbase.toNat + bits sel 0 8
  let row := bits sel 8 4
  let op := s.operator (bits sel 12 2)
  let a := s.thr.getV w.a.toNat
  let b := s.thr.getV (w.a.toNat + 1)
  let r : Vector (Word × BitVec 5) 128 := Vector.ofFn fun l =>
    combineY op (0, s.core.elem fp u row l) (laneElem fp (vlane a l), laneElem fp (vlane b l))
  let y : Vec := r.map Prod.fst
  if s.core.unitBusy (tileUnitsAt fp u) then .hold {} []
  else match s.poisonErr 6 (.sstepAff w) with
    | some t => .trap t []
    | none =>
      if s.core.unitsBad [unitAddr fp u row 0 / unitBytes] then raise 6 cPoison 2
      else s.giveStep w 4 (rowWrites fp u row y) y (r.foldl (fun f x => f ||| x.2) 0)
/-- SSTEP.AFF (R226). -/
def execSstepAff (w : SlotWord) (s : State) : Ans State :=
  s.runN (.sstepAff w) w none (fun s => s.affErr w) (issueSstepAff w)

/-- a · b + c · d, both products exact, rounded once (R40, R52, R227). Log 11. -/
def FFmt.dot2 (f : FFmt) (mode : RMode) (a b c d : Num) : Flt :=
  let ps := [a.mul b, c.mul d]
  let r := f.sum mode (ps.any Option.isNone) (ps.filterMap id)
  ⟨r.val, r.flags ||| if a.isSig || b.isSig || c.isSig || d.isSig then flagNV else 0⟩

/-- One element of the SSM recurrence (R227): the new h and the flags. -/
def ssmElem (f : FFmt) (mode : RMode) (delta a b x h : Num) : Flt :=
  let g := f.mul mode delta a
  let e := f.exp2 mode (f.decode g.val) g.val
  let u := f.mul mode delta b
  let r := f.dot2 mode (f.decode e.val) h (f.decode u.val) x
  ⟨r.val, g.flags ||| e.flags ||| u.flags ||| r.flags⟩

/-- y of one channel (R227): C[0] · h[0] rounded, then fused in ascending s. -/
def ssmOut (f : FFmt) (mode : RMode) (cs : List Num) (hs : List Nat) : Flt :=
  match cs, hs with
  | c :: cs, h :: hs =>
    (cs.zip hs).foldl (fun acc p =>
      let r := f.dot mode (f.decode acc.val) [(p.1, f.decode p.2)]
      ⟨r.val, acc.flags ||| r.flags⟩) (f.mul mode c (f.decode h))
  | _, _ => ⟨0, 0⟩

/-- STATE_BOUND of SSTEP.SSM (R227, R232): the tile at U, then the A tile. -/
def State.ssmErr (s : State) (w : SlotWord) : Option Nat :=
  let sel := (s.opS 6 w.b).toNat
  let u := bits sel 0 8
  if 2 ^ 12 ≤ sel then some 4
  else (s.unitErr (isFp32 w) u).or (s.unitErr (isFp32 w) (u + tileUnits (isFp32 w)))

/-- SSTEP.SSM (R227). -/
def issueSstepSsm (w : SlotWord) (s : State) : Res :=
  let sel := (s.opS 6 w.b).toNat
  let fp := isFp32 w
  let f : FFmt := if fp then .fp32 else .bf16
  let u := s.thr.ctl.sbase.toNat + bits sel 0 8
  let ua := u + tileUnits fp
  let e := vget Scale.zero s.thr.e (bits sel 8 4)
  let sc (i : Nat) : Num := FFmt.bf16.decode (vget 0 e i).toNat
  let num (x : Word) : Num := f.decode (laneElem fp x).toNat
  let dv := s.thr.getV w.a.toNat
  let xv := s.thr.getV (w.a.toNat + 1)
  let us := tileUnitsAt fp u ++ tileUnitsAt fp ua
  let cols : Vector (List Flt × Flt) 128 := Vector.ofFn fun c =>
    let hs := (List.range 16).map fun i =>
      ssmElem f s.rmode (num (vlane dv c)) (f.decode (s.core.elem fp ua i c).toNat) (sc i) (num (vlane xv c))
        (f.decode (s.core.elem fp u i c).toNat)
    (hs, ssmOut f s.rmode ((List.range 16).map fun i => sc (16 + i)) (hs.map Flt.val))
  let y : Vec := cols.map fun c => BitVec.ofNat 32 c.2.val
  let rows := (List.range 16).flatMap fun i =>
    rowWrites fp u i (cols.map fun c => BitVec.ofNat 32 (c.1.getD i ⟨0, 0⟩).val)
  if s.core.unitBusy us then .hold {} []
  else match s.poisonErr 6 (.sstepSsm w) with
    | some t => .trap t []
    | none =>
      if s.core.unitsBad us then raise 6 cPoison 2
      else if (s.thr.markOf [.e (bits sel 8 4)]).isSome then raise 6 cPoison 3
      else s.giveStep w 12 rows y
        (cols.foldl (fun a c => c.1.foldl (fun a x => a ||| x.flags) (a ||| c.2.flags)) 0)
/-- SSTEP.SSM (R227). -/
def execSstepSsm (w : SlotWord) (s : State) : Ans State :=
  s.runN (.sstepSsm w) w none (fun s => s.ssmErr w) (issueSstepSsm w)

/-! ### SRD, SWR, SSPL, SFIL (R229, R230, R233) -/

/-- STATE_BOUND of SRD and SWR: a row range beyond row 15, then the tile (R229, R232). -/
def State.rowsErr (s : State) (w : SlotWord) : Option Nat :=
  if 16 < w.a.toNat + 2 ^ (w.mod.toNat % 4) then some 4 else s.unitErr (isFp32 w) (relUnit w)

/-- SRD (R229). -/
def issueSrd (w : SlotWord) (s : State) : Res :=
  let u := s.physUnit w
  s.scanCmd (.srd u w.a.toNat (2 ^ (w.mod.toNat % 4)) w.d.toNat w.wb (isFp32 w)) (tileUnitsAt (isFp32 w) u) [] [] []
/-- SRD (R229). -/
def execSrd (w : SlotWord) (s : State) : Ans State := s.runN (.srd w) w none (fun s => s.rowsErr w) (issueSrd w)

/-- SWR (R229): the vector registers are read at issue. -/
def issueSwr (w : SlotWord) (s : State) : Res :=
  let u := s.physUnit w
  let us := tileUnitsAt (isFp32 w) u
  s.scanCmd (.swr u w.a.toNat (isFp32 w) ((List.range (2 ^ (w.mod.toNat % 4))).map fun i => s.thr.getV (w.d.toNat + i))) us us
    [] []
/-- SWR (R229). -/
def execSwr (w : SlotWord) (s : State) : Ans State := s.runN (.swr w) w none (fun s => s.rowsErr w) (issueSwr w)

/-- The number of units of SSPL and SFIL (R212). -/
def spillUnits (w : SlotWord) : Nat := w.d.toNat % 32 + 1

/-- STATE_BOUND of SSPL and SFIL: every unit lies below SLIM (R19, R230). Log 20. -/
def State.spillErr (s : State) (w : SlotWord) : Option Nat :=
  (s.unitErr false (relUnit w)).or (s.unitErr false (relUnit w + spillUnits w - 1))

/-- The pieces of a translated range as plain data. -/
def piecesOf (va : DWord) (l : List (Nat × Nat × Target)) : List Piece :=
  l.map fun x =>
    let a := va + BitVec.ofNat 64 x.1
    match x.2.2 with
    | .phys pa key _ _ => ⟨x.1, x.2.1, a, pa, key, none⟩
    | .away r => ⟨x.1, x.2.1, a, 0, 0, some r⟩

/-- A global range that an engine command names, translated at issue (R140, R230), with the pool lines that it pins (R271). -/
def State.engineRange (s : State) (slot : Nat) (va : DWord) (n : Nat) (need : Need) : (List Piece × List Eff) ⊕ Res :=
  if va.toNat % 128 ≠ 0 then .inr (raise slot cMisalign 0 va need.wr)
  else match s.look va n need with
    | .miss a => .inr (.hold {} [.walk a { need with user := s.user }])
    | .fault c d a => .inr (raise slot c d.toNat a need.wr)
    | .violation a r => .inr (.trap { cause := 0 } [.violation a r])
    | .ok l => .inl (piecesOf va l, pinEffs l)

/-- SSPL and SFIL (R230): `save` for SSPL. SSPL to global memory stalls in a provisional step (R233). -/
def issueSpill (save : Bool) (w : SlotWord) (s : State) : Res :=
  let n := spillUnits w
  let u := s.physUnit w
  let us := (List.range n).map fun i => u + i
  let va := s.opS 6 w.a
  let ctr := w.mod.toNat % 4
  let cmd (p : Nat ⊕ List Piece) (rd wr : List Nat) (pins : List Eff) : Res :=
    if vget 0 s.thr.w ctr = 0xFFFF then .hold {} []
    else s.scanCmd (if save then .sspl u n ctr p else .sfil u n ctr p) us (if save then [] else us) rd wr (.counter ctr :: pins)
  if w.d.getLsbD 5 then
    match s.ownAddr 6 va (unitBytes * n) 128 save with
    | .inr r => r
    | .inl off =>
      let bl := blocksOf off (unitBytes * n)
      cmd (.inl off) (if save then [] else bl) (if save then bl else []) []
  else match s.engineRange 6 va (unitBytes * n) { rd := !save, wr := save } with
    | .inr r => r
    | .inl (ps, pins) => if save && s.thr.ctl.prov then .hold {} [] else cmd (.inr ps) [] [] pins
/-- SSPL (R230). -/
def execSspl (w : SlotWord) (s : State) : Ans State := s.runN (.sspl w) w none (fun s => s.spillErr w) (issueSpill true w)
/-- SFIL (R230). Log 20. -/
def execSfil (w : SlotWord) (s : State) : Ans State := s.runN (.sfil w) w none (fun s => s.spillErr w) (issueSpill false w)

/-! ### Chunk progress (R220 to R222) -/

/-- Bytes that pass a port at a time: one vector element of a ring. -/
def pieceBytes : Nat := 512

/-- Elements of a piece. -/
def pieceElems (fp32 : Bool) : Nat := pieceBytes / (if fp32 then 4 else 2)

/-- The elements of a list of bytes (R213). -/
def elemsOf (fp32 : Bool) (bs : List Byte) : List Word :=
  let k := if fp32 then 4 else 2
  (List.range (bs.length / k)).map fun i => BitVec.ofNat 32 (bytesNat ((bs.drop (k * i)).take k))

/-- The offset of piece k of a port: its ring slot, or its place in the tile of its time step. -/
def Core.pieceOff (c : Core) (fp32 : Bool) (k : Nat) : ChunkPort → Nat
  | .stream q => (vget {} c.thr.q q).slot 0
  | .pad off st =>
    let per := tileBytes fp32 / pieceBytes
    ((off : Int) + st * (k / per : Nat)).toNat + pieceBytes * (k % per)
  | .discard => 0

/-- Whether a port can pass a piece now: a stream has an element, or room for one (R222). -/
def Core.portReady (c : Core) (rd : Bool) : ChunkPort → Bool
  | .stream q =>
    let b := vget {} c.thr.q q
    b.flying = 0 && (b.words 0).all fun w => c.full.has w = rd
  | _ => true

/-- Take a piece from a source, none while its stream is not ready: its elements, and which of them are poisoned; a tile is read as it stood
at the command's commit (R222). -/
def Core.takePiece (c : Core) (was : List OldBytes) (fp32 : Bool) (k : Nat) (p : ChunkPort) : Option (List Word × Bits × Core) :=
  if !c.portReady true p then none else
  let off := c.pieceOff fp32 k p
  let sz := if fp32 then 4 else 2
  let old := if p.isPad then c.asOf was else c
  let bad := if old.spoison = [] then []
    else (List.range (pieceElems fp32)).filter fun i => old.spoison.has ((off + sz * i) / 8)
  some (elemsOf fp32 (old.scratch.read off pieceBytes), bad,
    match p with
    | .stream q =>
      let b := vget {} c.thr.q q
      { c with full := c.full.putAll (b.words 0) false, thr := { c.thr with q := vset c.thr.q q b.step } }
    | _ => c)

/-- Put a piece into a destination, none while its stream has no room; full/empty bits change only in a ring (R167, R222). -/
def Core.putPiece (c : Core) (fp32 : Bool) (k : Nat) (p : ChunkPort) (xs : List Word) (bad : Bits) : Option Core :=
  if !c.portReady false p then none else
  some <|
  let off := c.pieceOff fp32 k p
  let sz := if fp32 then 4 else 2
  let bs := xs.flatMap (elemBytes fp32)
  match p with
  | .discard => c
  | .pad .. =>
    let c := c.putScratch off bs
    { c with spoison := c.spoison.putAll (bad.map fun i => (off + sz * i) / 8) true }
  | .stream q =>
    let b := vget {} c.thr.q q
    let c := c.putScratch off bs
    { c with spoison := c.spoison.putAll (bad.map fun i => (off + sz * i) / 8) true,
             full := c.full.putAll (b.words 0) true, thr := { c.thr with q := vset c.thr.q q b.step } }

/-- The pieces of a whole chunk. -/
def Chunk.pieces (d : Chunk) (fp32 : Bool) : Nat := d.len * (tileBytes fp32 / pieceBytes)

/-- Replace part of a list from position k on. -/
def splice {α : Type} (l : List α) (k : Nat) (new : List α) : List α := l.take k ++ new ++ l.drop (k + new.length)

/-- The pieces of one time step. -/
def stepPieces (fp32 : Bool) : Nat := tileBytes fp32 / pieceBytes

/-- One piece of SCHK: none where a stream is not ready (R220, R222); two ports on one stream take two elements. Log 23. -/
def Core.schkPiece (c : Core) (fp32 : Bool) (op : Word) (d : Chunk) (x : NCmd) : Option (Core × NCmd) := do
  let k := x.done
  let n := pieceElems fp32
  let base := k % stepPieces fp32 * n
  let (as_, ba, c) ← c.takePiece x.was fp32 k d.as_
  let (bs, bb, c) ← c.takePiece x.was fp32 k d.bs
  let x := c.capture x
  let acc (i : Nat) : Option Pair := (x.accs[base + i]?).getD none
  let rs := (List.range n).map fun i => combinePad op (acc i) (some (as_.getD i 0, bs.getD i 0))
  let new := rs.map Prod.fst
  let marks := markList n fun i => markPad op ((acc i).map fun _ => x.bad.pair (base + i)) (some (ba.has i, bb.has i))
  let val (p : Option Pair) : Pair := p.getD (0, 0)
  let c ← c.putPiece fp32 k d.hd (new.map fun p => (val p).2) ((List.range n).filter fun i => (marks.pair i).2)
  let c ← c.putPiece fp32 k d.xd (new.map fun p => (val p).1) ((List.range n).filter fun i => (marks.pair i).1)
  let here (j : Nat) : Bool := base ≤ j / 2 && j / 2 < base + n
  some (c, { x with done := k + 1, accs := splice x.accs base new, flags := rs.foldl (fun f r => f ||| r.2) x.flags
                    bad := Bits.putAll (x.bad.filter fun j => !here j) (marks.map fun j => 2 * base + j) true })

/-- One piece of SFIX (R221), with C and IDN as they were read at its start: under EXACT an IDN pair tile writes nothing. Log 23. -/
def Core.sfixPiece (c : Core) (fp32 : Bool) (op : Word) (d : Chunk) (x : NCmd) : Option (Core × NCmd) := do
  let k := x.done
  let n := pieceElems fp32
  let base := k % stepPieces fp32 * n
  let x := c.capture x
  let carry (i : Nat) : Option Pair := (x.accs[base + i]?).getD none
  if (carry 0).isNone && !opArith op then some (c, { x with done := k + 1 })
  else
    let (hs, bh, c) ← c.takePiece x.was fp32 k d.hd
    let (xs, bx, c) ← c.takePiece x.was fp32 k d.xd
    let rs := (List.range n).map fun i => combinePad op (carry i) (some (xs.getD i 0, hs.getD i 0))
    let marks := markList n fun i => markPad op ((carry i).map fun _ => x.bad.pair (base + i)) (some (bx.has i, bh.has i))
    let val (p : Option Pair) : Pair := p.getD (0, 0)
    let c ← c.putPiece fp32 k d.hd (rs.map fun p => (val p.1).2) ((List.range n).filter fun i => (marks.pair i).2)
    let c ← c.putPiece fp32 k d.xd (rs.map fun p => (val p.1).1) ((List.range n).filter fun i => (marks.pair i).1)
    some (c, { x with done := k + 1, flags := rs.foldl (fun f r => f ||| r.2) x.flags })

/-- As many pieces of an open chunk command as its streams allow, on fuel. Log 23. -/
def Core.chunkRun (piece : Core → NCmd → Option (Core × NCmd)) (all : Nat) : Nat → Core → NCmd → Core × NCmd
  | 0, c, x => (c, x)
  | n + 1, c, x =>
    if x.done = all then (c, x)
    else match piece c x with
      | some (c, x) => Core.chunkRun piece all n c x
      | none => (c, x)

/-! ### Completions (R217 to R231) -/

/-- The kind of a scan command: which event completes it. -/
def NOp.kind : NOp → Nat
  | .sid .. => 0 | .schk .. => 1 | .sfix .. => 2 | .sxch .. => 3 | .srd .. => 4 | .swr .. => 5 | .sspl .. => 6 | .sfil .. => 7

/-- Take command i out of the scan queue, releasing its streams and its interlock. -/
def Core.dropN (c : Core) (i : Nat) (x : NCmd) : Core :=
  { c with
    nq := c.nq.eraseIdx i
    thr := { c.thr with
      q := c.thr.q.map fun b => if b.engine = some x.token then { b with engine := none } else b
      ilocks := c.thr.ilocks.filter fun l => l.token ≠ x.token } }

/-- Command i of the focus core's scan queue takes its turn, where it is of the kind given and may (R231), and its masters are not frozen (R377);
of a trimmed step's command only the blocks return (R321). Log 22. -/
def State.completeN (s : State) (event : String) (kind i : Nat) (f : NCmd → State → Option State) : Ans State :=
  match s.core.nq[i]? with
  | none => off_ event
  | some x =>
    if x.op.kind ≠ kind || s.halted s.thr.launch || !s.core.turnN (s.core.nq.take i) x then off_ event
    else match (if s.core.discard then some (s.setCore (s.core.dropN i x)) else f x s) with
      | some s => .next ((s.setCore (((s.core.settleDrains []).startX s.now).startN s.now)).tryExit)
      | none => off_ event

/-- A command that only changes its core. -/
def State.doneN (s : State) (i : Nat) (x : NCmd) (c : Core) : State := s.setCore (c.dropN i x)

/-- SID_COMPLETE (R217). -/
def execSidComplete (i : Nat) (s : State) : Ans State :=
  s.completeN "SID_COMPLETE" 0 i fun x s => match x.op with
    | .sid u fp op =>
      let c := s.core.putPair fp u (List.replicate tileElems (identityOf op)) []
      some (s.doneN i x { c with idn := c.idn.put (pairKey fp u) (!opArith op) })
    | _ => none

/-- An open chunk command goes on to the end of its time step as far as its streams allow, and ends after the last (R220 to R222); a
freeze stops it at a time-step boundary, unless a command that must complete waits for it (R232, R301). Log 117. -/
def State.chunkGo (s : State) (i : Nat) (x : NCmd) (fp32 : Bool) (d : Chunk) (piece : Core → NCmd → Option (Core × NCmd))
    (last : Core → NCmd → Core) : Option State :=
  let at_ := x.done % stepPieces fp32
  if at_ = 0 && !s.unfrozen && !s.core.mustEnd x (s.core.nq.drop (i + 1)) then none
  else
    let (c, y) := s.core.chunkRun piece (d.pieces fp32) (stepPieces fp32 - at_) x
    if y.done = d.pieces fp32 then
      some ([d.hd, d.xd].foldl (fun s p => match p with
        | .pad .. => (p.tiles d.len).foldl (fun s t => s.returned t.toNat (tileBytes fp32)) s
        | _ => s) ((s.ringsMoved c).doneN i x ((last c y).flag y.flags)))
    else if y.done = x.done then none
    else some (s.ringsMoved { c with nq := c.nq.set i y })

/-- SCHK_COMPLETE (R220, R222): after the last time step the pair tile takes the chunk summary. -/
def execSchkComplete (i : Nat) (s : State) : Ans State :=
  s.completeN "SCHK_COMPLETE" 1 i fun x s => match x.op with
    | .schk u fp op d => s.chunkGo i x fp d (fun c y => c.schkPiece fp op d y) fun c y =>
        c.putPair fp u (y.accs.map fun p => p.getD (0, 0)) y.bad
    | _ => none

/-- SFIX_COMPLETE (R221). -/
def execSfixComplete (i : Nat) (s : State) : Ans State :=
  s.completeN "SFIX_COMPLETE" 2 i fun x s => match x.op with
    | .sfix _ fp op d => s.chunkGo i x fp d (fun c y => c.sfixPiece fp op d y) fun c _ => c
    | _ => none

/-- SRD_COMPLETE (R229): l6 takes the last row. -/
def execSrdComplete (i : Nat) (s : State) : Ans State :=
  s.completeN "SRD_COMPLETE" 4 i fun x s => match x.op with
    | .srd u row n vd wb fp =>
      let c := s.core.dropN i x
      let bad (j : Nat) : Bool := c.unitsBad [unitAddr fp u (row + j) 0 / unitBytes]
      let rows := List.range n
      some (s.setCore (c.land
        { due := s.now, latch := some (6, .vector (c.row fp u (row + n - 1)))
          writes := if wb then rows.map fun j => .vec (vd + j) (c.row fp u (row + j)) (BitVec.allOnes 128) else []
          marks := (if wb then rows.flatMap fun j =>
              if bad j then (List.range 128).map fun l => ⟨.v (vd + j), l, 0⟩ else [] else []) ++
            (if bad (n - 1) then (List.range 128).map fun l => ⟨.latch 6, l, 0⟩ else []) }))
    | _ => none

/-- SWR_COMPLETE (R229). -/
def execSwrComplete (i : Nat) (s : State) : Ans State :=
  s.completeN "SWR_COMPLETE" 5 i fun x s => match x.op with
    | .swr u row fp vs =>
      some (s.doneN i x ((List.range vs.length).foldl (fun c j =>
        c.putUnits (unitAddr fp u (row + j) 0) (rowBytes fp (vs.getD j Vec.zero))) s.core))
    | _ => none

/-- A line that an engine command writes when its home has been fenced since it was issued (R402): it is not written, and its fault is a
launch error entry. Log 131. -/
def State.lateFault (s : State) (va : DWord) : State :=
  s.appendError s.thr.launch
    { cause := causeXlate, detail := 4, wr := true, slot := 6, tid := s.thr.ctl.tid.toNat % 2 ^ 32, step := s.thr.step, addr := va }

/-- Write a unit range's image to translated pieces: physical bytes with the marks of poisoned units, or messages to another
package (R230, R282). -/
def State.putPieces (s : State) (bs : List Byte) (badLine : Nat → Bool) (ps : List Piece) : State :=
  ps.foldl (fun s p =>
    let data := (bs.drop p.off).take p.len
    match p.away with
    | some r => (s.send (.remote r true p.va data)).owe (some p.va) r
    | none =>
      if s.lostHome p.pa then s.lateFault p.va else
      let s := (s.writePA p.key p.pa data).endSeq p.pa p.len
      { s with poison := s.poison.putAll ((List.range (p.len / 128)).filterMap fun j =>
          if badLine ((p.off + 128 * j) / 128) then some ((p.pa + 128 * j) / 128) else none) true }) s

/-- The bytes of translated pieces and the image lines that are poisoned (R230); the bytes of another package are free. -/
def State.getPieces (s : State) (ps : List Piece) : List Byte × Bits :=
  ps.foldl (fun acc p =>
    match p.away with
    | some _ => (acc.1 ++ (List.range p.len).map (fun i => Config.freeByte s.freeCtr (p.va.toNat + i)), acc.2)
    | none => (acc.1 ++ s.readPA p.key p.pa p.len,
        acc.2.putAll ((List.range (p.len / 128)).filterMap fun j =>
          if s.poison.has ((p.pa + 128 * j) / 128) then some ((p.off + 128 * j) / 128) else none) true)) ([], [])

/-- The requests that reading pieces of other packages sends. -/
def State.askPieces (s : State) (ps : List Piece) : State :=
  if ps.any fun p => p.away.isSome then
    (ps.foldl (fun s p => match p.away with | some r => s.send (.remote r false p.va []) | none => s) s).draw
  else s

/-- SSPL_COMPLETE (R230): the image lines of a poisoned unit are written poisoned. -/
def execSsplComplete (i : Nat) (s : State) : Ans State :=
  s.completeN "SSPL_COMPLETE" 6 i fun x s => match x.op with
    | .sspl u n w dst =>
      let bs := s.core.units.read (u * unitBytes) (n * unitBytes)
      let bad := (List.range n).filter fun j => s.core.unitsBad [u + j]
      let s := match dst with
        | .inl off =>
          let c := s.core.putScratch off bs
          (s.setCore { c with spoison := c.spoison.putAll (bad.flatMap fun j => wordsOf (off + j * unitBytes) unitBytes) true }).returned
            off bs.length
        | .inr ps => s.putPieces bs (fun l => bad.contains (128 * l / unitBytes)) ps
      some (s.doneN i x { s.core with thr := s.thr.counterAdd w (-1) })
    | _ => none

/-- SFIL_COMPLETE (R230): IDN is cleared; a unit is poisoned exactly where one of its source lines is. Log 20. -/
def execSfilComplete (i : Nat) (s : State) : Ans State :=
  s.completeN "SFIL_COMPLETE" 7 i fun x s => match x.op with
    | .sfil u n w src =>
      let (bs, bad) := match src with
        | .inl off =>
          let old := s.core.asOf x.was
          (old.scratch.read off (n * unitBytes),
            (List.range (n * 32)).filter fun l => (wordsOf (off + 128 * l) 128).any fun k => old.spoison.has k)
        | .inr ps => s.getPieces ps
      let c := s.core.putUnits (u * unitBytes) bs
      let us := (List.range n).filter fun j => bad.any fun l => 128 * l / unitBytes = j
      let c := { c with upoison := c.upoison.putAll (us.flatMap fun j => wordsOf ((u + j) * unitBytes) unitBytes) true }
      let s := match src with | .inr ps => s.askPieces ps | .inl _ => s
      some (s.doneN i x { c with thr := c.thr.counterAdd w (-1) })
    | _ => none

end Sys2Proof.Machine
end

