-- ==== Sys2Proof/Machine/Network.lean ====
section
/-! DEFINITION. The scan network (R327 to R337): posts, the canonical order of combines, rounds, the landing of carries and
aborted rounds. -/

namespace Sys2Proof.Machine

/-! ### Leaves and their places (R328) -/

/-- m = ⌈log2 n⌉ for the scan's n leaves (R328). -/
def Scan.depth (c : Scan) : Nat := if c.leaves ≤ 1 then 0 else (c.leaves - 1).log2 + 1

/-- The leaves below this number are present: the others are padding or marked absent (R324, R330). -/
def Scan.limit (c : Scan) : Nat := min c.leaves c.absent

/-- The package rank that a leaf is mapped to (R328). -/
def Scan.rankOf (c : Scan) (leaf : Nat) : Nat := c.rbase + leaf / 2 ^ (c.dsh + c.psh)

/-- Whether a scan spans packages (R328, R329). -/
def Scan.wide (c : Scan) : Bool := 2 ^ (c.dsh + c.psh) < c.leaves

/-! ### The canonical order (R330) -/

/-- Combine of two summaries (R215, R216, R335): flags join, marks follow the words that are read; under EXACT the padding
identity passes through. Log 17. -/
def combineSum (op : Word) (l r : Summary) : Summary :=
  match l.vals, r.vals with
  | none, none => if opArith op then { l with vals := none, flags := l.flags ||| r.flags } else l
  | _, _ =>
    if !opArith op && l.vals.isNone then { r with flags := l.flags ||| r.flags }
    else if !opArith op && r.vals.isNone then { l with flags := l.flags ||| r.flags }
    else
      let a := l.vals.getD (List.replicate tileElems (identityOf op))
      let b := r.vals.getD (List.replicate tileElems (identityOf op))
      let ps := List.zipWith (combine op) a b
      { vals := some (ps.map Prod.fst), flags := ps.foldl (fun f p => f ||| p.2) (l.flags ||| r.flags)
        poison := if l.poison = [] && r.poison = [] then []
          else markList tileElems fun i =>
            markPad op (l.vals.map fun _ => l.poison.pair i) (r.vals.map fun _ => r.poison.pair i) }

/-- The node value formed for (direction, level, leaf). -/
def Scan.node (c : Scan) (down : Bool) (d leaf : Nat) : Option Summary :=
  (c.nodes.find? fun n => n.down = down && n.d = d && n.leaf = leaf).map Node.sum

/-- What a leaf has posted in the round, in this package or in another (R331, R332). -/
def Scan.leafSum (c : Scan) (leaf : Nat) : Option Summary :=
  ((c.posts.find? fun p => p.leaf = leaf).map Post.sum).or ((c.far.find? fun x => x.1 = leaf).map Prod.snd)

/-- v[leaf] of the up-sweep before level d (R330): padding where every leaf of its span is absent. -/
def Scan.upVal (c : Scan) (d leaf : Nat) : Option Summary :=
  if c.limit + 2 ^ d ≤ leaf + 1 then some {}
  else if d = 0 then c.leafSum leaf
  else c.node false (d - 1) leaf

/-- v[leaf] of the down-sweep before level d − 1 (R330), on fuel: a left child's value is its parent's. -/
def Scan.downVal (c : Scan) : Nat → Nat → Nat → Option Summary
  | 0, _, _ => some {}
  | k + 1, d, leaf =>
    if (leaf + 1) % 2 ^ (d + 1) = 0 then c.node true d leaf else c.downVal k (d + 1) (leaf + 2 ^ d)

/-- The up-sweep has reached every node (R332): every present leaf is posted and every node but the root is formed. -/
def Scan.upDone (c : Scan) : Bool :=
  ((List.range c.limit).all fun l => (c.leafSum l).isSome) &&
    (List.range (c.depth - 1)).all fun d =>
      (List.range (2 ^ (c.depth - d - 1))).all fun j =>
        let l := (j + 1) * 2 ^ (d + 1) - 1
        (c.upVal (d + 1) l).isSome

/-- The carry of a leaf, once it is formed (R330, R332). -/
def Scan.carryOf (c : Scan) (leaf : Nat) : Option Summary :=
  if c.upDone then c.downVal c.depth 0 leaf else none

/-! ### Rounds (R332) -/

/-- Change a scan of a launch. -/
def State.modScan (s : State) (launch scan : Nat) (f : Scan → Scan) : State :=
  s.modLaunch launch fun l => { l with scans := l.scans.modify scan f }

/-- A scan of a launch. -/
def State.scan? (s : State) (launch scan : Nat) : Option Scan := (s.launch? launch).bind fun l => l.scans[scan]?

/-- The rank of this package for a launch. -/
def State.launchRank (s : State) (launch : Nat) : Nat := match s.launch? launch with | some l => s.rankIn l.ctx | none => 0

/-- Whether a thread of a launch has not exited. -/
def State.alive (s : State) (r : ThreadRef) : Bool := (s.threadsOf r.launch).any fun t => t.ctl.tid.toNat = r.tid

/-- Close the round where every present leaf is posted and every carry formed (R332): carries that have not landed are kept for
their threads, those of exited threads are discarded (R224, R333), and the posts held for the next round begin it. -/
def State.closeRound (s : State) (launch scan : Nat) : State :=
  match s.scan? launch scan with
  | none => s
  | some c =>
    if (c.posts ≠ [] || c.far ≠ []) && (List.range c.limit).all fun l => (c.carryOf l).isSome then
      let kept := (c.posts.filter fun p => !c.landed.has p.leaf && s.alive p.who).filterMap fun p =>
        (c.carryOf p.leaf).map fun v => { p with sum := v }
      s.modScan launch scan fun c =>
        { c with posts := c.next, far := [], next := [], nodes := [], landed := [], carries := c.carries ++ kept }
    else s

/-! ### Aborted rounds (R336) -/

/-- Every word of some units. -/
def unitWords (us : List Nat) : List Nat := us.flatMap fun u => wordsOf (u * unitBytes) unitBytes

/-- The pair tile of a leaf whose carry an abort replaces (R336): every word is poisoned, and the unit leaves carry-pending; where the
thread's handler has leased the engine, this is done to the image that LEASE saved (R127). -/
def State.abortPair (s : State) (who : ThreadRef) (key : Nat) : State :=
  let ws := unitWords (keyUnits key)
  let mine (t : Thread) : Bool := t.launch = who.launch && t.ctl.tid.toNat = who.tid
  let saved (t : Thread) : Thread :=
    { t with leaseSave := t.leaseSave.map fun i =>
        if i.pending.has key then
          { i with upoison := i.upoison.putAll ws true, pending := i.pending.put key false, idn := i.idn.put key false }
        else i }
  match s.busyCores.find? fun n => (s.coreAt n).live && mine (s.coreAt n).thr with
  | some n => s.modCore n fun c =>
    if c.thr.leaseSave.isNone then
      { c with upoison := c.upoison.putAll ws true, pending := c.pending.put key false, aborted := c.aborted.put key true,
               idn := c.idn.put key false }
    else { c with thr := saved c.thr, aborted := c.aborted.put key true }
  | none => s.modLaunch who.launch fun l =>
    { l with conts := l.conts.map fun x =>
        if !mine x.2.thr then x
        else if x.2.thr.leaseSave.isSome then
          (x.1, { x.2 with thr := saved x.2.thr, aborted := x.2.aborted.put key true })
        else
          (x.1, { x.2 with upoison := x.2.upoison.putAll ws true, pending := x.2.pending.put key false,
                           aborted := x.2.aborted.put key true, idn := x.2.idn.put key false }) }

/-- SCAN_ROUND_ABORT (R336): a failure of a path or a die ends the round; the scan id accepts no further post, and the launch's
error record takes one entry. Log 19. -/
def State.abortRound (s : State) (launch scan : Nat) : State :=
  match s.scan? launch scan with
  | none => s
  | some c =>
    if c.aborted then s
    else
      let ps := (c.posts.filter fun p => !c.landed.has p.leaf) ++ c.next
      let s := ps.foldl (fun s p => s.abortPair p.who p.unit) s
      let s := s.modScan launch scan fun c => { c with aborted := true, posts := [], far := [], next := [], nodes := [], landed := [] }
      s.appendError launch
        { cause := cStateBound, detail := 9, tid := ((ps.head?.map fun p => p.who.tid).getD 0) % 2 ^ 32,
          step := (ps.head?.map Post.step).getD 0, addr := BitVec.ofNat 64 scan }

/-- SCAN_ROUND_ABORT (R336): enabled until a round of the scan has been aborted. -/
def execScanRoundAbort (launch scan : Nat) (s : State) : Ans State :=
  match s.scan? launch scan with
  | some c => if c.aborted then off_ "SCAN_ROUND_ABORT" else .next (s.abortRound launch scan)
  | none => off_ "SCAN_ROUND_ABORT"

/-! ### Posts (R223) -/

/-- A summary captured from a pair tile: with IDN it is the padding identity (R223, R335). -/
def Core.summary (c : Core) (fp32 : Bool) (u : Nat) : Summary :=
  if c.isIdn fp32 u then {} else { vals := some (c.pairs fp32 u), poison := c.pairBad fp32 u }

/-- A post reaches the network (R223, R332): in the current round, or held for the next where the leaf's carry has landed. A
scan id with an aborted round accepts none, and the unit ends as an aborted carry's does (R336). Log 19. -/
def State.post (s : State) (launch scan : Nat) (p : Post) : State :=
  match s.scan? launch scan with
  | none => s
  | some c =>
    if c.aborted then s.abortPair p.who p.unit
    else
      let s := s.modScan launch scan fun c =>
        if c.posts.any fun q => q.leaf = p.leaf then { c with next := c.next ++ [p] } else { c with posts := c.posts ++ [p] }
      let s := if c.wide then s.send (.scanPost c.tag p.leaf p.sum) else s
      s.closeRound launch scan

/-- SXCH_POST (R223): the pair tile is captured and posted, and becomes carry-pending. Log 19. -/
def execSxchPost (i : Nat) (s : State) : Ans State :=
  s.completeN "SXCH_POST" 3 i fun x s => match x.op with
    | .sxch u fp _ scan leaf =>
      let key := pairKey fp u
      let p : Post := { leaf := leaf, sum := s.core.summary fp u, who := s.me, unit := key, step := s.thr.step }
      let s := s.doneN i x { s.core with pending := s.core.pending.put key true }
      some (s.post s.thr.launch scan p)
    | _ => none

/-! ### Combines (R331, R334) -/

/-- What a thread of another package posts: its value is free (R223, R329). A post carries no flags. -/
def freeSummary (fp32 : Bool) (draw : Nat) : Summary :=
  if Config.freeBool draw then {}
  else
    { vals := some ((List.range tileElems).map fun i =>
        let p := Config.freePair draw i
        (laneElem fp32 p.1, laneElem fp32 p.2))
      poison := markList tileElems fun i => ((Config.freeByte draw i).getLsbD 0, (Config.freeByte draw i).getLsbD 1)
      flags := 0 }

/-- The operands of a node, where they have arrived: `none` while one is missing (R331, R332). -/
def Scan.operands (c : Scan) (down : Bool) (d leaf : Nat) : Option (Summary × Summary) :=
  if down then
    match (if c.upDone then c.downVal (c.depth - d - 1) (d + 1) leaf else none), c.upVal d (leaf - 2 ^ d) with
    | some a, some b => some (a, b)
    | _, _ => none
  else
    match c.upVal d (leaf - 2 ^ d), c.upVal d leaf with
    | some a, some b => some (a, b)
    | _, _ => none

/-- Whether a node is one of R330's that is formed: not the root's up-sweep combine, and not one whose leaves, or for a
down-sweep whose reached leaves, are all absent. -/
def Scan.formed (c : Scan) (down : Bool) (d leaf : Nat) : Bool :=
  d < c.depth && leaf < 2 ^ c.depth && (leaf + 1) % 2 ^ (d + 1) = 0 && (c.node down d leaf).isNone &&
    if down then leaf + 1 - 2 ^ d < c.limit else d + 1 < c.depth && leaf + 1 - 2 ^ (d + 1) < c.limit

/-- The leaves that other packages of the job have posted by now, among n leaves from `first` on: those of a scan that spans packages
for which this package has no post. Log 105. -/
def State.farPosts (s : State) (launch scan : Nat) (c : Scan) (first n : Nat) : State :=
  if !c.wide then s
  else
    (((List.range n).map fun j => first + j).filter fun l => l < c.limit && (c.leafSum l).isNone).foldl
      (fun s l => (s.modScan launch scan fun c => { c with far := c.far ++ [(l, freeSummary (opFp32 c.opw) s.freeCtr)] }).draw) s

/-- SCAN_NODE_COMBINE (R330, R331): a node combines its operands. On the leaves, those of other packages have arrived by then: at level 0
of the up-sweep, or of a two-leaf scan's one formed node. A node of this package's leaves sends its value to the other packages. Log 105. -/
def execScanNodeCombine (launch scan : Nat) (down : Bool) (d leaf : Nat) (s : State) : Ans State :=
  match s.scan? launch scan with
  | none => off_ "SCAN_NODE_COMBINE"
  | some c =>
    if c.aborted || !c.formed down d leaf then off_ "SCAN_NODE_COMBINE"
    else
      let first := leaf + 1 - 2 ^ (d + 1)
      let s := if d = 0 && (!down || c.depth = 1) then s.farPosts launch scan c first 2 else s
      match (s.scan? launch scan).bind fun c => c.operands down d leaf with
      | none => off_ "SCAN_NODE_COMBINE"
      | some p =>
        let n : Node := ⟨down, d, leaf, combineSum c.opw p.1 p.2⟩
        let s := s.modScan launch scan fun c => { c with nodes := c.nodes ++ [n] }
        let s := if c.wide && c.rankOf first = s.launchRank launch then s.send (.scanNode c.tag n) else s
        .next (s.closeRound launch scan)

/-! ### Carries (R224, R333) -/

/-- The carry that waits for a leaf: of a closed round, or formed in the current one. -/
def Scan.carryFor (c : Scan) (leaf : Nat) : Option Post :=
  match c.carries.find? fun p => p.leaf = leaf with
  | some p => some p
  | none =>
    if c.landed.has leaf then none
    else match c.posts.find? fun p => p.leaf = leaf with
      | some p => (c.carryOf leaf).map fun v => { p with sum := v }
      | none => none

/-- A carry lands in the pair tile (R224): IDN where it is the padding identity under EXACT, with the identity's values. Log 17. -/
def Core.landCarry (c : Core) (op : Word) (key : Nat) (v : Summary) : Core :=
  let fp := decide (256 ≤ key)
  let c := c.putPair fp (key % 256) (v.vals.getD (List.replicate tileElems (identityOf op))) v.poison
  let c := { c with idn := c.idn.put key (v.vals.isNone && !opArith op), pending := c.pending.put key false }
  c.flag v.flags

/-- CARRY_LAND (R224): the carry of a leaf reaches the thread that posted it, which is resident on the focus core and not in
handler mode. -/
def execCarryLand (launch scan leaf : Nat) (s : State) : Ans State :=
  match s.scan? launch scan with
  | none => off_ "CARRY_LAND"
  | some c =>
    match c.carryFor leaf with
    | none => off_ "CARRY_LAND"
    | some p =>
      if !s.core.live || s.core.frozen || s.thr.ctl.hnd || s.me ≠ p.who then off_ "CARRY_LAND"
      else
        let s := s.setCore ((s.core.landCarry c.opw p.unit p.sum).startN s.now)
        .next (s.modScan launch scan fun c =>
          if c.carries.any fun q => q.leaf = leaf then { c with carries := c.carries.filter fun q => q.leaf ≠ leaf }
          else { c with landed := c.landed.put leaf true })

end Sys2Proof.Machine
end

