-- ==== Sys2Proof/Machine/LoadStore.lean ====
section
/-! DEFINITION. The L slot's loads, stores, gathers, scatters, tagged operations, atomics and reductions (R137 to R155, R172). -/

namespace Sys2Proof.Machine

/-- Run an L-slot instruction. -/
def State.runL (s : State) (i : Instr) (w : SlotWord) (f : State → Res) : Ans State :=
  s.runSlot i w 2 none none (withOperands 2 i f)

/-- The scope field (R67). -/
def scopeOf (w : SlotWord) : BitVec 3 := w.mod.setWidth 3

/-- Whether the ordering is an acquire (ACQ, AR). -/
def isAcq (w : SlotWord) : Bool := w.hold.getLsbD 0
/-- Whether the ordering is a release (REL, AR). -/
def isRel (w : SlotWord) : Bool := w.hold.getLsbD 1

/-- Whether the step is provisional (R172). -/
abbrev State.prov (s : State) : Bool := s.thr.ctl.prov

/-- A stall until confirmation (R172). -/
def stall : Res := .hold {} []

/-- An L-slot exception at an address. -/
def raiseL (cause : BitVec 8) (detail : Nat) (va : DWord) (wr : Bool) : Res := raise 2 cause detail va wr

/-- A global access (R139, R140, R142): the target pieces, or a hold for a walk, an exception, or a window violation. Log 88. -/
def State.globalAcc (s : State) (va : DWord) (n align : Nat) (need : Need) : List (Nat × Nat × Target) ⊕ Res :=
  match s.look va n need with
  | .miss a => .inr (.hold {} [.walk a { need with user := s.user }])
  | .fault c d a => .inr (raiseL c d.toNat a need.wr)
  | .violation a r => .inr (.trap { cause := 0 } [.violation a r])
  | .ok l => if va.toNat % align ≠ 0 then .inr (raiseL cMisalign 0 va need.wr) else .inl l

/-- A local access (R84, R141, R142, R297): core and offset. An access to an evicted claim waits, within the limit that the access has of
its own (R117, R151, R159). Log 88. -/
def State.localAcc (s : State) (va : DWord) (n align : Nat) (own wr : Bool) (wait : WaitInfo := {}) : (Nat × Nat) ⊕ Res :=
  match s.localAt va n own with
  | .inr d => .inr (raiseL cLocalBound d.toNat va wr)
  | .inl (core, off) =>
    if va.toNat % align ≠ 0 then .inr (raiseL cMisalign 0 va wr)
    else if s.evicted core && !(s.coreAt core).hasClaim s.thr.launch then .inr (.hold { wait with wlim := true } [])
    else .inl (core, off)

/-- The granules that the race table checks for an access: those of its pieces on pages with RCK = 1 (R244). -/
def checkedGranules (l : List (Nat × Nat × Target)) : List Nat :=
  l.flatMap fun x => match x.2.2 with | .phys pa _ true _ => unitsOf 64 pa x.2.1 | _ => []

/-- The race checks of granules, each with the address of its access, in order and each against the table as those before it leave it
(R244, R245): the notes to make, or the exception. -/
def State.raceRun (s : State) (wr : Bool) : List (Nat × DWord) → List Eff ⊕ Res
  | [] => .inl []
  | (g, va) :: gs => match s.raceStep s.accessor (64 * g) wr with
    | .inr 0 => .inr (raiseL cRaceTable 0 va wr)
    | .inr d => .inr (raiseL cRace d va wr)
    | .inl _ => match (s.raceNote s.accessor (64 * g) wr).raceRun wr gs with
      | .inl es => .inl (.race (64 * g) wr :: es)
      | r => r

/-- The race checks of a tile-core access to its pieces (R244, R245). -/
def State.raceCheck (s : State) (l : List (Nat × Nat × Target)) (va : DWord) (wr : Bool) : List Eff ⊕ Res :=
  s.raceRun wr ((checkedGranules l).map fun g => (g, va))

/-- Whether any piece lies in another package. Log 91. -/
def anyAway (l : List (Nat × Nat × Target)) : Bool := l.any fun x => match x.2.2 with | .away _ => true | _ => false

/-- The requests that the remote pieces of a read send, and the free value they use up (R282). Log 91. -/
def remoteReads (va : DWord) (l : List (Nat × Nat × Target)) : List Eff :=
  if anyAway l then
    (l.filterMap fun x => match x.2.2 with
      | .away r => some (.remote r false (va + BitVec.ofNat 64 x.1) [])
      | _ => none) ++ [.draw]
  else []

/-- A whole read of PGRQ by a firmware core pops its entry (R398, R403). -/
def State.deviceReads (s : State) (va : DWord) (n : Nat) : List Eff :=
  if s.fw && va.toNat = deviceBase + 0x58 && n = 8 then [.popPage] else []

/-- Where the pieces of an access at an address lie outside the die of the focus core (R260, R261). -/
def State.homeOf (s : State) (va : DWord) (l : List (Nat × Nat × Target)) : Option Home :=
  l.findSome? fun x => match x.2.2 with
    | .away r => some { die := none, va := va, pc := s.core.bun.addr, rank := r }
    | .phys pa _ _ _ => if homeDie pa = dieOf s.cur then none else some { die := some (homeDie pa), va := va, pc := s.core.bun.addr }

/-- The token of an interlock: a fresh one where a report of another die or package may cancel it (R260, R261). -/
def State.lockToken (s : State) (h : Option Home) : Nat := if h.isSome then s.tokens else 0

/-- The location number of an access: its first physical byte, none in another package. -/
def firstLoc (l : List (Nat × Nat × Target)) : Option Nat :=
  l.head?.bind fun x => match x.2.2 with | .phys pa _ _ _ => some pa | _ => none

/-- The MMST effect of an acquire of a location (R239). -/
def State.acquireEff (s : State) (loc : Option Nat) (scope : BitVec 3) : List Eff :=
  match loc with
  | some a => if s.scopeDrop a (s.here scope) then [.mmst mmDrop] else []
  | none => []

/-- The MMST effect of an acquire of a location in another package, whose release records are there (R239): a free value. Log 91. -/
def State.awayDrop (s : State) (b : Bool) : List Eff := if b && Config.freeBool s.freeCtr then [.mmst mmDrop] else []

/-- The MMST effect of a tagged operation that waited for a word's bit (R239, R248). -/
def State.tagEff (s : State) (loc : Nat) (scope : BitVec 3) : List Eff := if s.tagDrop loc scope then [.mmst mmDrop] else []

/-- The MMST effect of a clamped scope (R143). -/
def clampEff (b : BitVec 3) : List Eff := if b = 0 then [] else [.mmst b]

/-- Bytes as a 64-bit value, sign-extended from their width where asked (R145). -/
def loadValue (sext : Bool) (bs : List Byte) : DWord :=
  if sext then BitVec.ofInt 64 (toSigned (8 * bs.length) (bytesNat bs)) else BitVec.ofNat 64 (bytesNat bs)

/-- Bytes as a vector (R11, R147). -/
def vecOf (bs : List Byte) : Vec := Vec.ofBytes fun i => bs.getD i 0

/-- The data a thread reads from its target pieces; a firmware core reads device registers by their own rule (R375). -/
def State.readData (s : State) (va : DWord) (n : Nat) (l : List (Nat × Nat × Target)) : List Byte × Bool :=
  if s.fw && deviceBase ≤ va.toNat then (natBytes n (s.deviceRead (va.toNat - deviceBase) n), false) else s.loadAt va l

/-- Split a write of bytes at an address at line boundaries: the address and the bytes of each part. -/
def lineParts (a : Nat) (data : List Byte) : List (Nat × List Byte) :=
  (piecesGo 128 (data.length / 128 + 2) 0 a data.length).map fun p => (p.2.1, (data.drop p.1).take p.2.2)

/-- The effects of a global write of bytes (R144, R172, R282, R319): into memory, into the provisional store buffer line by
line, to a device register, or to another package. -/
def State.writeEffs (s : State) (va : DWord) (l : List (Nat × Nat × Target)) (bs : List Byte) : List Eff :=
  if s.fw && deviceBase ≤ va.toNat then [.device (va.toNat - deviceBase) bs]
  else l.flatMap fun x =>
    let data := (bs.drop x.1).take x.2.1
    match x.2.2 with
    | .away r =>
      let a := va + BitVec.ofNat 64 x.1
      if s.prov then (lineParts a.toNat data).map fun p => .prov (.away r (BitVec.ofNat 64 p.1) p.2)
      else [.remote r true a data, .sent (some a) r]
    | .phys pa key _ _ =>
      if s.prov then (lineParts pa data).map fun p => .prov (.bytes p.1 key p.2) else [.mem pa key data]

/-- The lines that a write at an address touches. -/
def linesOf (va : DWord) (l : List (Nat × Nat × Target)) : List Nat :=
  l.flatMap fun x => match x.2.2 with
    | .phys pa _ _ _ => unitsOf 128 pa x.2.1
    | .away r => (unitsOf 128 (va.toNat + x.1) x.2.1).map fun k => awayLine r (BitVec.ofNat 64 (128 * k))

/-- A write that needs buffer room stalls (R172, R319). -/
def State.noRoom (s : State) (va : DWord) (l : List (Nat × Nat × Target)) : Bool := s.prov && !s.bufferRoom (linesOf va l)

/-! ### Scalar and vector loads and stores (R145 to R147) -/

/-- A global load: `fin` makes the landing from the bytes and the poison lanes. -/
def issueGload (w : SlotWord) (vec : Bool) (va : DWord) (n align : Nat) (s : State) : Res :=
  match s.globalAcc va n align { rd := true } with
  | .inr r => r
  | .inl l =>
    match s.raceCheck l va false with
    | .inr r => r
    | .inl race =>
      let (bs, bad) := s.readData va n l
      let lanes := if vec then (List.range 128).filter fun i => s.badAt va l (4 * i) 4 else [0]
      let marks := if bad then marksOf w vec 2 lanes va else []
      let x := vecOf bs
      let land :=
        if vec then vectorLanding 2 w s.now x (BitVec.allOnes 128) x 0 marks
        else scalarLanding 2 w s.now (loadValue (w.mod.getLsbD 3) bs) 0 marks
      let home := if anyAway l then s.homeOf va l else none
      .ok (race ++ pinEffs l ++ s.acquireEff (if !vec && isAcq w then firstLoc l else none) (scopeOf w) ++
        s.awayDrop (!vec && isAcq w && anyAway l) ++ remoteReads va l ++
        s.deviceReads va n ++ [.ilock ⟨destRegs vec w, some land, s.lockToken home, true, home⟩])

/-- A scratchpad load at latency 4 (R145 to R147). -/
def issueLload (w : SlotWord) (vec : Bool) (va : DWord) (n align : Nat) (s : State) : Res :=
  match s.localAcc va n align true false with
  | .inr r => r
  | .inl (core, off) =>
    let c := s.padOf core
    if c.ownedAt off n then .hold {} []
    else
      let bs := c.scratch.read off n
      let bad := (wordsOf off n).filter fun k => c.spoison.has k
      let lanes := if vec then (List.range 128).filter fun i => bad.contains ((off + 4 * i) / 8) else [0]
      let marks := if bad = [] then [] else marksOf w vec 2 lanes va
      let x := vecOf bs
      let (scope, clamp) := clampScope s.fw true (scopeOf w)
      .ok (s.acquireEff (if !vec && isAcq w then some (s.padLoc core off) else none) scope ++
        clampEff (if vec then 0 else clamp) ++
        [.land (if vec then vectorLanding 2 w (s.now + 4) x (BitVec.allOnes 128) x 0 marks
          else scalarLanding 2 w (s.now + 4) (loadValue (w.mod.getLsbD 3) bs) 0 marks)])

/-- A global store of bytes (R145, R147, R172). -/
def issueGstore (w : SlotWord) (vec : Bool) (va : DWord) (align : Nat) (bs : List Byte) (s : State) : Res :=
  match s.globalAcc va bs.length align { wr := true } with
  | .inr r => r
  | .inl l =>
    match s.raceCheck l va true with
    | .inr r => r
    | .inl race =>
      if s.noRoom va l then stall
      else
        let rel := if !vec && isRel w && !s.prov then
            (firstLoc l).elim [] fun a => [.release a bs.length (scopeOf w)]
          else []
        .ok (race ++ pinEffs l ++ s.writeEffs va l bs ++ rel)

/-- A scratchpad store of bytes on the own core (R145 to R147). -/
def issueLstore (w : SlotWord) (vec : Bool) (va : DWord) (align : Nat) (bs : List Byte) (s : State) : Res :=
  match s.localAcc va bs.length align true true with
  | .inr r => r
  | .inl (core, off) =>
    if (s.padOf core).ownedAt off bs.length then raiseL cOwner 0 va true
    else
      let (scope, clamp) := clampScope s.fw true (scopeOf w)
      .ok (.scratch core off bs ::
        (if !vec && isRel w then [.release (s.padLoc core off) bs.length scope] else []) ++
        clampEff (if vec then 0 else clamp))

/-- The low w bits of the D operand as bytes. -/
def State.storeBytes (s : State) (w : SlotWord) : List Byte := natBytes (sizeOf_ w) (s.opS 2 w.d).toNat

/-- LDG (R145). -/
def execLdg (w : SlotWord) (s : State) : Ans State :=
  s.runL (.ldg w) w fun s => issueGload w false (s.offAddr w (sizeOf_ w)) (sizeOf_ w) (sizeOf_ w) s
/-- STG (R145). -/
def execStg (w : SlotWord) (s : State) : Ans State :=
  s.runL (.stg w) w fun s => issueGstore w false (s.offAddr w (sizeOf_ w)) (sizeOf_ w) (s.storeBytes w) s
/-- LDL (R145). -/
def execLdl (w : SlotWord) (s : State) : Ans State :=
  s.runL (.ldl w) w fun s => issueLload w false (s.offAddr w (sizeOf_ w)) (sizeOf_ w) (sizeOf_ w) s
/-- STL (R145). -/
def execStl (w : SlotWord) (s : State) : Ans State :=
  s.runL (.stl w) w fun s => issueLstore w false (s.offAddr w (sizeOf_ w)) (sizeOf_ w) (s.storeBytes w) s
/-- VLDG (R147). -/
def execVldg (w : SlotWord) (s : State) : Ans State :=
  s.runL (.vldg w) w fun s => issueGload w true (s.offAddr w 512) 512 64 s
/-- VSTG (R147). -/
def execVstg (w : SlotWord) (s : State) : Ans State :=
  s.runL (.vstg w) w fun s => issueGstore w true (s.offAddr w 512) 64 (s.opV 2 w.d).bytes s
/-- VLDL (R147). -/
def execVldl (w : SlotWord) (s : State) : Ans State :=
  s.runL (.vldl w) w fun s => issueLload w true (s.offAddr w 512) 512 64 s
/-- VSTL (R147). -/
def execVstl (w : SlotWord) (s : State) : Ans State :=
  s.runL (.vstl w) w fun s => issueLstore w true (s.offAddr w 512) 64 (s.opV 2 w.d).bytes s

/-! ### Gathers and scatters (R148) -/

/-- Look at every active lane: holds before exceptions, and the exception is that of the lowest failing lane (R148). -/
def lanesOk {α : Type} (f : DWord → α ⊕ Res) (ls : List (Nat × DWord)) : List (Nat × DWord × α) ⊕ Res :=
  let rs := ls.map fun x => (x, f x.2)
  match rs.findSome? fun r => match r.2 with | .inr (.hold w es) => some (Res.hold w es) | _ => none with
  | some h => .inr h
  | none => match rs.findSome? fun r => match r.2 with | .inr t => some t | _ => none with
    | some t => .inr t
    | none => .inl (rs.filterMap fun r => match r.2 with | .inl y => some (r.1.1, r.1.2, y) | .inr _ => none)

/-- The race checks of every lane, in ascending lane. -/
def State.raceLanes (s : State) (ls : List (Nat × DWord × List (Nat × Nat × Target))) (wr : Bool) : List Eff ⊕ Res :=
  s.raceRun wr (ls.flatMap fun x => (checkedGranules x.2.2).map fun g => (g, x.2.1))

/-- The gathered vector: active lanes loaded, the others as D was read (R148). -/
def gathered (d : Vec) (ls : List (Nat × Word)) : Vec := ls.foldl (fun v x => vset v x.1 x.2) d

/-- VGTG (R148). -/
def issueVgtg (w : SlotWord) (s : State) : Res :=
  match lanesOk (fun a => s.globalAcc a 4 4 { rd := true }) (s.laneAddrs w) with
  | .inr r => r
  | .inl ls =>
    match s.raceLanes ls false with
    | .inr r => r
    | .inl race =>
      let got := ls.map fun x => (x.1, x.2.1, s.loadAt x.2.1 x.2.2)
      let v := gathered (s.opV 2 w.d) (got.map fun x => (x.1, BitVec.ofNat 32 (bytesNat x.2.2.1)))
      let marks := (got.filter fun x => x.2.2.2).flatMap fun x => marksOf w true 2 [x.1] x.2.1
      let home := ls.findSome? fun x => if anyAway x.2.2 then s.homeOf x.2.1 x.2.2 else none
      .ok (race ++ ls.flatMap (fun x => pinEffs x.2.2 ++ remoteReads x.2.1 x.2.2) ++
        [.ilock ⟨destRegs true w, some (vectorLanding 2 w s.now v (BitVec.allOnes 128) v 0 marks), s.lockToken home, true, home⟩])
/-- VGTG (R148). -/
def execVgtg (w : SlotWord) (s : State) : Ans State := s.runL (.vgtg w) w (issueVgtg w)

/-- VSCG (R148). -/
def issueVscg (w : SlotWord) (s : State) : Res :=
  match lanesOk (fun a => s.globalAcc a 4 4 { wr := true }) (s.laneAddrs w) with
  | .inr r => r
  | .inl ls =>
    match s.raceLanes ls true with
    | .inr r => r
    | .inl race =>
      if s.prov && !s.bufferRoom (ls.flatMap fun x => linesOf x.2.1 x.2.2) then stall
      else
        let d := s.opV 2 w.d
        .ok (race ++ ls.flatMap fun x => pinEffs x.2.2 ++ s.writeEffs x.2.1 x.2.2 (natBytes 4 (vget 0 d x.1).toNat))
/-- VSCG (R148). -/
def execVscg (w : SlotWord) (s : State) : Ans State := s.runL (.vscg w) w (issueVscg w)

/-- A lane of a scratchpad gather or scatter: an owned word holds a load and raises OWNER for a store (R146). -/
def State.padLane (s : State) (wr : Bool) (a : DWord) : Nat ⊕ Res :=
  match s.localAcc a 4 4 true wr with
  | .inr r => .inr r
  | .inl (_, off) =>
    if s.core.ownedAt off 4 then .inr (if wr then raiseL cOwner 0 a true else .hold {} []) else .inl off

/-- VGTL (R148): latency 4. -/
def issueVgtl (w : SlotWord) (s : State) : Res :=
  match lanesOk (s.padLane false) (s.laneAddrs w) with
  | .inr r => r
  | .inl ls =>
    let v := gathered (s.opV 2 w.d) (ls.map fun x => (x.1, BitVec.ofNat 32 (s.core.scratch.le x.2.2 4)))
    let marks := (ls.filter fun x => s.core.spoison.has (x.2.2 / 8)).flatMap fun x => marksOf w true 2 [x.1] x.2.1
    .ok [.land (vectorLanding 2 w (s.now + 4) v (BitVec.allOnes 128) v 0 marks)]
/-- VGTL (R148). -/
def execVgtl (w : SlotWord) (s : State) : Ans State := s.runL (.vgtl w) w (issueVgtl w)

/-- VSCL (R148). -/
def issueVscl (w : SlotWord) (s : State) : Res :=
  match lanesOk (s.padLane true) (s.laneAddrs w) with
  | .inr r => r
  | .inl ls =>
    let d := s.opV 2 w.d
    .ok (ls.map fun x => .scratch s.cur x.2.2 (natBytes 4 (vget 0 d x.1).toNat))
/-- VSCL (R148). -/
def execVscl (w : SlotWord) (s : State) : Ans State := s.runL (.vscl w) w (issueVscl w)

/-! ### Tagged operations (R150, R151) -/

/-- The wait of a tagged operation: its limit code n bounds it to 2^(n+5) cycles (R151). -/
def tagWait (w : SlotWord) : WaitInfo :=
  { limit := if w.mod = 0 then 0 else 2 ^ (w.mod.toNat + 5), detail := 3, wlim := true }

/-- A tagged operation's word: local checks, the stall of a provisional step on another core, and for reads and FEQ the hold
on an owned block, within the operation's limit (R146, R151, R172). -/
def State.tagWord (s : State) (w : SlotWord) (wr : Bool) (wait : WaitInfo) : (Nat × Nat × DWord) ⊕ Res :=
  let a := s.offAddr w 8
  match s.localAcc a 8 8 false wr wait with
  | .inr r => .inr r
  | .inl (core, off) =>
    if s.prov && core ≠ s.cur then .inr stall
    else if !wr && (s.padOf core).ownedAt off 8 then .inr (.hold wait [])
    else .inl (core, off, a)

/-- LDF and LDFE (R150): wait for full, and LDFE sets the word empty. -/
def issueLdf (take : Bool) (w : SlotWord) (s : State) : Res :=
  match s.tagWord w false (tagWait w) with
  | .inr r => r
  | .inl (core, off, a) =>
    let c := s.padOf core
    if !c.full.has (off / 8) then .hold (tagWait w) []
    else
      let marks := if c.spoison.has (off / 8) then marksOf w false 2 [0] a else []
      .ok (s.tagEff (s.padLoc core off) scopeDie ++ (if take then [.full core (off / 8) false false] else []) ++
        [.land (scalarLanding 2 w (s.now + 4) (BitVec.ofNat 64 (c.scratch.le off 8)) 0 marks)])
/-- LDF (R150). -/
def execLdf (w : SlotWord) (s : State) : Ans State := s.runL (.ldf w) w (issueLdf false w)
/-- LDFE (R150). -/
def execLdfe (w : SlotWord) (s : State) : Ans State := s.runL (.ldfe w) w (issueLdf true w)

/-- STE and STFL (R150): STE waits for empty, which is an acquire (R248); the word is stored and set full, as a release at DIE scope
(R143). -/
def issueSte (waits : Bool) (w : SlotWord) (s : State) : Res :=
  match s.tagWord w true (if waits then tagWait w else {}) with
  | .inr r => r
  | .inl (core, off, a) =>
    let c := s.padOf core
    if waits && c.full.has (off / 8) then .hold (tagWait w) []
    else if c.ownedAt off 8 then raiseL cOwner 0 a true
    else .ok ((if waits then s.tagEff (s.padLoc core off) scopeDie else []) ++
      [.scratch core off (natBytes 8 (s.opS 2 w.d).toNat), .full core (off / 8) true true, .release (s.padLoc core off) 8 scopeDie])
/-- STE (R150). -/
def execSte (w : SlotWord) (s : State) : Ans State := s.runL (.ste w) w (issueSte true w)
/-- STFL (R150). -/
def execStfl (w : SlotWord) (s : State) : Ans State := s.runL (.stfl w) w (issueSte false w)

/-- FEZ (R150). -/
def issueFez (w : SlotWord) (s : State) : Res :=
  match s.tagWord w true {} with
  | .inr r => r
  | .inl (core, off, a) =>
    if (s.padOf core).ownedAt off 8 then raiseL cOwner 0 a true else .ok [.full core (off / 8) false false]
/-- FEZ (R150). -/
def execFez (w : SlotWord) (s : State) : Ans State := s.runL (.fez w) w (issueFez w)

/-- FEQ (R150). -/
def issueFeq (w : SlotWord) (s : State) : Res :=
  match s.tagWord w false {} with
  | .inr r => r
  | .inl (core, off, _) => .ok [s.giveS 2 w 4 (if (s.padOf core).full.has (off / 8) then 1 else 0)]
/-- FEQ (R150). -/
def execFeq (w : SlotWord) (s : State) : Ans State := s.runL (.feq w) w (issueFeq w)

/-! ### Atomics and reductions (R152 to R154) -/

/-- The bits APLS sets (R152): the bits of b in ascending order, where clear and while the count stays within m; on a list of
bit numbers. -/
def apls (b m : Nat) : List Nat → Nat → Nat → Nat × Nat
  | [], word, set => (word, set)
  | i :: is, word, set =>
    if b.testBit i && !word.testBit i && decide (popCount 64 word + 1 ≤ m) then apls b m is (word + 2 ^ i) (set + 2 ^ i)
    else apls b m is word set

/-- An atomic on a value of n bits (R152, R153): the new value and what D receives. -/
def atomNew (op : AtomOp) (n old b d : Nat) : Nat × Nat :=
  match op with
  | .add => ((old + b) % 2 ^ n, old)
  | .fadd =>
    let f : FFmt := if n = 16 then .bf16 else .fp32
    ((f.add .rne (f.decode old) (f.decode b)).val, old)
  | .min => (if toSigned n b < toSigned n old then b else old, old)
  | .max => (if toSigned n old < toSigned n b then b else old, old)
  | .and => (old &&& b, old)
  | .or => (old ||| b, old)
  | .xor => (old ^^^ b, old)
  | .xchg => (b, old)
  | .cas => (if old = b then d else old, old)
  | .insm => ((old &&& (2 ^ n - 1 - b)) ||| (d &&& b), old)
  | .ffcs =>
    match (List.range 64).find? fun i => !old.testBit i with
    | some i => (old + 2 ^ i, i)
    | none => (old, 64)
  | .pls => apls b (d % 128) (List.range 64) old 0

/-- Where an atomic, reduction or barrier operation acts: global pieces, or a scratchpad word. -/
inductive Place where
  | mem (l : List (Nat × Nat × Target))
  | pad (core off : Nat)
  deriving DecidableEq, Repr

/-- The place that MOD[3] and the A operand name (R139): the checks of the space, and for a word in an owned block OWNER or a hold, within
the limit that the access has of its own (R146, R159). -/
def State.placeOf (s : State) (w : SlotWord) (n align : Nat) (need : Need) (wait : WaitInfo := {}) : (Place × DWord) ⊕ Res :=
  let a := s.opS 2 w.a
  if w.mod.getLsbD 3 then
    match s.localAcc a n align false need.wr wait with
    | .inr r => .inr r
    | .inl (core, off) =>
      if (s.padOf core).ownedAt off n then .inr (if need.wr then raiseL cOwner 0 a true else .hold wait [])
      else .inl (.pad core off, a)
  else match s.globalAcc a n align need with
    | .inr r => .inr r
    | .inl l => .inl (.mem l, a)

/-- The bytes at a place. -/
def State.placeRead (s : State) (p : Place) (va : DWord) (n : Nat) : List Byte × Bool :=
  match p with
  | .mem l => s.readData va n l
  | .pad core off =>
    let c := s.padOf core
    (c.scratch.read off n, (wordsOf off n).any fun k => c.spoison.has k)

/-- An atomic update of the bytes at a place: it continues a release sequence (R238). -/
def State.placeAtom (s : State) (p : Place) (va : DWord) (bs : List Byte) : List Eff :=
  match p with
  | .mem l =>
    if s.fw && deviceBase ≤ va.toNat then [.device (va.toNat - deviceBase) bs]
    else l.flatMap fun x => match x.2.2 with
      | .phys pa key _ _ => [.atom pa key ((bs.drop x.1).take x.2.1)]
      | .away _ => []
  | .pad core off => [.padAtom core off bs]

/-- A plain write of the bytes at a place. -/
def State.placeWrite (s : State) (p : Place) (va : DWord) (bs : List Byte) : List Eff :=
  match p with
  | .mem l => s.writeEffs va l bs
  | .pad core off => [.scratch core off bs]

/-- The location number of a place. -/
def State.placeLoc (s : State) : Place → Option Nat
  | .mem l => firstLoc l
  | .pad core off => some (s.padLoc core off)

/-- The release of a place (R238, R239). -/
def State.releaseEff (s : State) (p : Place) (n : Nat) (scope : BitVec 3) : List Eff :=
  (s.placeLoc p).elim [] fun a => [.release a n scope]

/-- Whether a place is the own core's scratchpad (R172). -/
def State.ownPlace (s : State) : Place → Bool
  | .pad core _ => core = s.cur
  | .mem _ => false

/-- The rank of a place in another package. -/
def Place.rank : Place → Option Nat
  | .mem l => l.findSome? fun x => match x.2.2 with | .away r => some r | _ => none
  | .pad _ _ => none

/-- Where the place of an access at an address lies outside the die (R261). -/
def State.placeHome (s : State) (p : Place) (va : DWord) : Option Home :=
  match p with
  | .mem l => if s.fw then none else (s.homeOf va l).map fun h => { h with atom := true }
  | .pad _ _ => none

/-- The pool lines of a place (R271). -/
def Place.pins : Place → List Eff
  | .mem l => pinEffs l
  | .pad _ _ => []

/-- A returning atomic (R152): a provisional step stalls (R172); one in another package returns a free value (R282). -/
def issueAtomic (op : AtomOp) (w : SlotWord) (s : State) : Res :=
  let n := sizeOf_ w
  match s.placeOf w n n { rd := true, wr := true } with
  | .inr r => r
  | .inl (p, va) =>
    if s.prov then stall
    else
      let (scope, clamp) := clampScope s.fw (w.mod.getLsbD 3) (scopeOf w)
      let b := (if op = .ffcs then 0 else (s.opS 2 w.b).toNat) % 2 ^ (8 * n)
      let d := (s.opS 2 w.d).toNat % 2 ^ (8 * n)
      let home := s.placeHome p va
      match p.rank with
      | some r =>
        let x := Config.freeWord s.freeCtr
        let marks := if s.awayBad va.toNat n then marksOf w false 2 [0] va else []
        .ok (s.awayDrop (isAcq w) ++ [.remoteAtom r op n va (BitVec.ofNat 64 b) (BitVec.ofNat 64 d) (some s.tokens), .draw,
          .ilock ⟨destRegs false w, some (scalarLanding 2 w s.now (BitVec.ofNat 64 (x.toNat % 2 ^ (8 * n))) 0 marks), s.tokens, true, home⟩])
      | none =>
        let (bs, bad) := s.placeRead p va n
        let (new, ret) := atomNew op (8 * n) (bytesNat bs) b d
        let marks := if bad then marksOf w false 2 [0] va else []
        .ok (p.pins ++ s.placeAtom p va (natBytes n new) ++
          s.acquireEff (if isAcq w then (s.placeLoc p) else none) scope ++
          (if isRel w then s.releaseEff p n scope else []) ++ clampEff clamp ++
          [.ilock ⟨destRegs false w, some (scalarLanding 2 w s.now (BitVec.ofNat 64 ret) 0 marks), s.lockToken home, true, home⟩])

/-- AADD (R152). -/
def execAadd (w : SlotWord) (s : State) : Ans State := s.runL (.aadd w) w (issueAtomic .add w)
/-- AFADD (R152). -/
def execAfadd (w : SlotWord) (s : State) : Ans State := s.runL (.afadd w) w (issueAtomic .fadd w)
/-- AMIN (R152). -/
def execAmin (w : SlotWord) (s : State) : Ans State := s.runL (.amin w) w (issueAtomic .min w)
/-- AMAX (R152). -/
def execAmax (w : SlotWord) (s : State) : Ans State := s.runL (.amax w) w (issueAtomic .max w)
/-- AAND (R152). -/
def execAand (w : SlotWord) (s : State) : Ans State := s.runL (.aand w) w (issueAtomic .and w)
/-- AOR (R152). -/
def execAor (w : SlotWord) (s : State) : Ans State := s.runL (.aor w) w (issueAtomic .or w)
/-- AXOR (R152). -/
def execAxor (w : SlotWord) (s : State) : Ans State := s.runL (.axor w) w (issueAtomic .xor w)
/-- AXCH (R152). -/
def execAxch (w : SlotWord) (s : State) : Ans State := s.runL (.axch w) w (issueAtomic .xchg w)
/-- ACAS (R152). -/
def execAcas (w : SlotWord) (s : State) : Ans State := s.runL (.acas w) w (issueAtomic .cas w)
/-- AINSM (R152). -/
def execAinsm (w : SlotWord) (s : State) : Ans State := s.runL (.ainsm w) w (issueAtomic .insm w)
/-- AFFCS (R152). -/
def execAffcs (w : SlotWord) (s : State) : Ans State := s.runL (.affcs w) w (issueAtomic .ffcs w)
/-- APLS (R152). -/
def execApls (w : SlotWord) (s : State) : Ans State := s.runL (.apls w) w (issueAtomic .pls w)

/-! ### Collective formats (R355, R358) -/

/-- The floating format of a collective format code. -/
def collFloat : Nat → FFmt
  | 1 => .bf16 | 2 => .fp16 | _ => .fp32

/-- Bytes of an element of a format code (R355). -/
def collSize : Nat → Nat
  | 1 => 2 | 2 => 2 | 4 => 8 | _ => 4

/-- widen (R358): a floating input as FP32, exactly; an integer as it is. -/
def widen (ifmt x : Nat) : Nat :=
  if 3 ≤ ifmt then x % 2 ^ (8 * collSize ifmt) else (FFmt.fp32.ofNum .rne ((collFloat ifmt).decode x)).val

/-- Whether an element lies inside a record's reduction window (R357). -/
def Record.inWindow (r : Record) (a : DWord) : Bool :=
  r.wbase.toNat ≤ a.toNat && a.toNat + collSize r.ofmt ≤ r.wbase.toNat + 128 * r.wlines

/-- The accepted put-reduce of the context's job whose reduction window holds an address (R154, R356, R357). -/
def State.windowAt (s : State) (ctx : Nat) (a : DWord) : Option Record :=
  s.records.findSome? fun x => x.2.bind fun r =>
    if r.loaded && r.status ≠ 1 && r.op = 2 && s.jobKey r.ctx = s.jobKey ctx && r.inWindow a then some r else none

/-- A value as the contribution of a record's own leaf to the window element at an address (R357, R359). -/
def State.leafValue (s : State) (r : Record) (rank : Nat) (a : DWord) (x : Nat) : Contribution :=
  { job := s.jobKey r.ctx, rid := r.rid, home := rank, addr := a, level := 0, index := r.g0, value := BitVec.ofNat 64 (widen r.ifmt x)
    group := r.gsize, ifmt := r.ifmt, afmt := r.afmt, ofmt := r.ofmt, rop := r.rop }

/-- The contribution that a global reduction of a tile core makes where its address lies inside a reduction window, and whether its home is
in this package (R154). Log 100. -/
def State.windowPart (s : State) (p : Place) (va b : DWord) : Option (Contribution × Bool) :=
  match p with
  | .pad _ _ => none
  | .mem _ => if s.fw then none else (s.windowAt s.ctxOf va).map fun r =>
      (s.leafValue r (p.rank.getD (s.rankIn s.ctxOf)) va b.toNat, p.rank.isNone)

/-- What a provisional step's global reduction puts into the buffer (R172, R319). -/
def State.reduceItems (s : State) (op : AtomOp) (n : Nat) (l : List (Nat × Nat × Target)) (va b : DWord) : List ProvItem :=
  l.filterMap fun x => match s.windowPart (.mem l) va b, x.2.2 with
    | some (c, own), .phys pa _ _ _ => some (.tree (pa / 128) c own)
    | some (c, own), .away r => some (.tree (awayLine r va) c own)
    | none, .phys pa key _ _ => some (.red pa key op n b)
    | none, .away r => some (.awayRed r va op n b)

/-- What a reduction does: its contribution in a reduction window, a request to another package, or the atomic update (R154). -/
def State.reduceEffs (s : State) (op : AtomOp) (n : Nat) (p : Place) (va b : DWord) : List Eff :=
  match s.windowPart p va b, p.rank with
  | some (c, own), _ => [.contribute c own]
  | none, some r => [.remoteAtom r op n va b 0 none]
  | none, none =>
    p.pins ++ s.placeAtom p va (natBytes n (atomNew op (8 * n) (bytesNat (s.placeRead p va n).1) b.toNat 0).1)

/-- A reduction (R154): it counts against the launch until it is acknowledged; a provisional step's global one is buffered,
and one on another core stalls (R172). -/
def issueReduce (op : AtomOp) (w : SlotWord) (s : State) : Res :=
  let n := sizeOf_ w
  match s.placeOf w n n { wr := true } with
  | .inr r => r
  | .inl (p, va) =>
    let b := BitVec.ofNat 64 ((s.opS 2 w.b).toNat % 2 ^ (8 * n))
    let (scope, clamp) := clampScope s.fw (w.mod.getLsbD 3) (scopeOf w)
    let go : Res := .ok (s.reduceEffs op n p va b ++ (if isRel w then s.releaseEff p n scope else []) ++ clampEff clamp ++
      [.sent (p.rank.map fun _ => va) (p.rank.getD 0)])
    if !s.prov then go
    else match p with
      | .pad core _ => if core = s.cur then go else stall
      | .mem l => if s.noRoom va l then stall else .ok (pinEffs l ++ (s.reduceItems op n l va b).map .prov)

/-- REDADD (R154). -/
def execRedadd (w : SlotWord) (s : State) : Ans State := s.runL (.redadd w) w (issueReduce .add w)
/-- REDFADD (R154). -/
def execRedfadd (w : SlotWord) (s : State) : Ans State := s.runL (.redfadd w) w (issueReduce .fadd w)
/-- REDMIN (R154). -/
def execRedmin (w : SlotWord) (s : State) : Ans State := s.runL (.redmin w) w (issueReduce .min w)
/-- REDMAX (R154). -/
def execRedmax (w : SlotWord) (s : State) : Ans State := s.runL (.redmax w) w (issueReduce .max w)
/-- REDAND (R154). -/
def execRedand (w : SlotWord) (s : State) : Ans State := s.runL (.redand w) w (issueReduce .and w)
/-- REDOR (R154). -/
def execRedor (w : SlotWord) (s : State) : Ans State := s.runL (.redor w) w (issueReduce .or w)
/-- REDXOR (R154). -/
def execRedxor (w : SlotWord) (s : State) : Ans State := s.runL (.redxor w) w (issueReduce .xor w)

end Sys2Proof.Machine
end

