-- ==== Sys2Proof/Machine/Sync.lean ====
section
/-! DEFINITION. The L slot's barrier objects, fences, copies, streams, collectives, triggers, signals and prefetch (R156 to
R171). -/

namespace Sys2Proof.Machine

/-! ### Barrier objects (R156 to R159) -/

/-- The fields of a barrier object (R156). -/
structure Barrier where
  count  : Nat
  target : Nat
  phase  : Nat
  lastc  : Nat
  nph    : Nat
  ovr    : Nat
  rest   : Nat := 0
  deriving DecidableEq, Repr

/-- A barrier object from its 16 bytes; `rest` keeps the reserved bits. -/
def Barrier.ofBytes (bs : List Byte) : Barrier :=
  let x := bytesNat bs
  { count := bits x 0 16, target := bits x 16 16, phase := bits x 32 4, lastc := bits x 40 5, nph := bits x 64 32,
    ovr := bits x 96 32, rest := bits x 36 4 * 2 ^ 36 + bits x 45 19 * 2 ^ 45 }

/-- A barrier object as its 16 bytes. -/
def Barrier.bytes (b : Barrier) : List Byte :=
  natBytes 16 (b.count + b.target * 2 ^ 16 + b.phase * 2 ^ 32 + b.lastc * 2 ^ 40 + b.nph * 2 ^ 64 + b.ovr * 2 ^ 96 + b.rest)

/-- A provisional step's barrier operation stalls unless the object is in its own core's scratchpad (R172). -/
def State.barStall (s : State) (p : Place) : Bool := s.prov && !s.ownPlace p

/-- BARI (R157). -/
def issueBari (w : SlotWord) (s : State) : Res :=
  match s.placeOf w 16 16 { wr := true } with
  | .inr r => r
  | .inl (p, va) =>
    if s.barStall p then stall
    else
      let (scope, clamp) := clampScope s.fw (w.mod.getLsbD 3) (scopeOf w)
      let b : Barrier := { count := 0, target := (s.opS 2 w.b).toNat % 2 ^ 16, phase := 0, lastc := 0, nph := 0, ovr := 0 }
      .ok (p.pins ++ s.placeWrite p va b.bytes ++ (if isRel w then s.releaseEff p 16 scope else []) ++ clampEff clamp)
/-- BARI (R157). -/
def execBari (w : SlotWord) (s : State) : Ans State := s.runL (.bari w) w (issueBari w)

/-- The arrival of BARV with n at an object (R158): the fault, or the object after it and D. -/
def Barrier.arrive (b : Barrier) (n core : Nat) : Nat ⊕ Barrier × Nat :=
  if n = 0 ∨ b.target = 0 then .inl 2
  else if b.target < b.count + n then .inl 1
  else
    let c := b.count + n
    let b := { b with lastc := core }
    if c = b.target then
      .inr ({ b with count := 0, phase := (b.phase + 1) % 16, nph := (b.nph + 1) % 2 ^ 32 }, 16 + b.phase)
    else .inr ({ b with count := c }, 2 ^ 16 * c + b.phase)

/-- The request that a barrier operation sends to an object in another package, with what BARV adds, and the free value that its answer
uses up (R158, R159, R282). Log 91. -/
def Place.asks (p : Place) (va : DWord) (n : Option Nat) : List Eff :=
  match p.rank with
  | some r => [.remoteBar r va n, .draw]
  | none => []

/-- The cycles between an arrival request's leaving the core and its response. Log 35. -/
def barvCycles : Nat := 8

/-- The arrival request of a BARV (R158, R409): the home performs the arrival, an acquire-release, or counts an overrun; the response
brings D or the exception. -/
def State.barvRequest (s : State) (w : SlotWord) : Res :=
  match s.placeOf w 16 16 { rd := true, wr := true } with
  | .inr r => r
  | .inl (p, va) =>
    if s.barStall p then stall
    else
      let (scope, clamp) := clampScope s.fw (w.mod.getLsbD 3) (scopeOf w)
      let b := Barrier.ofBytes (s.placeRead p va 16).1
      let n := (s.opS 2 w.b).toNat % 2 ^ 16
      let asks := p.asks va (some n)
      let due := s.now + barvCycles
      match b.arrive n (s.cur % 32) with
      | .inl d =>
        .send (asks ++ s.placeAtom p va { b with ovr := min (b.ovr + 1) 0xFFFFFFFF }.bytes ++
          [.barvSent ⟨due, .inr (trapAt 2 cOverrun d va true)⟩])
      | .inr (b', x) =>
        .send (asks ++ p.pins ++ s.placeAtom p va b'.bytes ++ s.acquireEff (s.placeLoc p) scope ++ s.awayDrop p.rank.isSome ++
          s.releaseEff p 16 scope ++
          clampEff clamp ++ [.barvSent ⟨due, .inl (BitVec.ofNat 64 x)⟩])

/-- BARV (R158, R409): the bundle sends its arrival request, holds until the response arrives, and then issues with D, or is void with
the exception. Once a pre-emption has been requested it sends nothing. Log 35, 118. -/
def issueBarv (w : SlotWord) (s : State) : Res :=
  match s.thr.barv with
  | none => if s.core.freezeReq.isSome then .hold {} [] else s.barvRequest w
  | some a =>
    if s.now < a.due then .hold {} []
    else match a.reply with
      | .inl x => .ok [s.giveS 2 w 1 x]
      | .inr t => .trap t []
/-- BARV (R158). -/
def execBarv (w : SlotWord) (s : State) : Ans State := s.runL (.barv w) w (issueBarv w)

/-- BARW (R159): an object in another package is asked for anew in each held cycle. Log 91. -/
def issueBarw (w : SlotWord) (s : State) : Res :=
  let wait : WaitInfo := { limit := (s.opS 2 w.d).toNat % 2 ^ 32, detail := 4, wlim := true }
  match s.placeOf w 16 16 { rd := true } wait with
  | .inr r => r
  | .inl (p, va) =>
    if s.barStall p then stall
    else
      let (scope, clamp) := clampScope s.fw (w.mod.getLsbD 3) (scopeOf w)
      let b := Barrier.ofBytes (s.placeRead p va 16).1
      if b.phase = (s.opS 2 w.b).toNat % 16 then
        .hold wait (p.asks va none)
      else .ok (p.asks va none ++ p.pins ++ s.acquireEff (s.placeLoc p) scope ++ s.awayDrop p.rank.isSome ++ clampEff clamp)
/-- BARW (R159). -/
def execBarw (w : SlotWord) (s : State) : Ans State := s.runL (.barw w) w (issueBarw w)

/-! ### Fences (R160) -/

/-- A load or atomic of the thread has not returned its value (R160). -/
def State.awaits (s : State) : Bool := s.thr.ilocks.any Ilock.mem

/-- FENCE (R160): accesses within the package are performed when their bundle commits or when their value returns. Every ordering holds
until the earlier loads and atomics have returned their values, and REL and AR also until the accesses sent to other packages are
acknowledged. Log 101. -/
def issueFence (w : SlotWord) (s : State) : Res :=
  if s.awaits || isRel w && s.unacked then .hold {} [] else .ok []
/-- FENCE (R160). -/
def execFence (w : SlotWord) (s : State) : Ans State := s.runL (.fence w) w (issueFence w)

/-! ### Copies (R161, R162, R172) -/

/-- The destination space of a copy template as far as issue needs it: whether a provisional CPY writes global memory. -/
def State.tmplGlobal (s : State) (a : DWord) : Bool :=
  match s.agentRead s.ctxOf s.user a 64 with
  | .inl (bs, false) => (bs.getD 1 0).toNat % 4 = 0
  | _ => false

/-- CPY (R161, R162): the template address, the addresses and the counter are fixed at issue. -/
def issueCpy (w : SlotWord) (s : State) : Res :=
  let c := w.fmt.toNat % 4
  let t := s.thr.getS 7 + BitVec.ofNat 64 (64 * w.d.toNat)
  if vget 0 s.thr.w c = 0xFFFF then .hold {} []
  else if s.prov && s.tmplGlobal t then stall
  else .ok [.counter c, .copy
    { who := if s.fw then none else some s.me, core := s.cur, ctx := s.ctxOf, user := s.user, ctr := c,
      src := s.opS 2 w.a, dst := s.opS 2 w.b, tmpl := t, image := none, scope := scopeOf w, rel := isRel w
      step := s.thr.step, pc := s.core.bun.addr, dmbd := s.thr.ctl.dmbd }]
/-- CPY (R162). -/
def execCpy (w : SlotWord) (s : State) : Ans State := s.runL (.cpy w) w (issueCpy w)

/-! ### Streams (R165 to R167, R276) -/

/-- A subscription record from its 64 bytes, where its fields keep the table of R276. -/
def Subscription.ofBytes (size : Nat) (bs : List Byte) : Option Subscription :=
  let f (o n : Nat) : Nat := bytesNat ((bs.drop o).take n)
  let ok := f 0 1 ≤ 1 && f 1 3 = 0 && f 4 4 ≠ 0 && f 8 8 % size = 0 && 1 ≤ f 16 4 && f 16 4 ≤ 65535 && f 20 4 = 0 &&
    f 24 8 % 8 = 0 && f 32 8 % 8 = 0 && f 40 8 = 0 && f 48 8 = 0 && f 56 8 = 0
  if ok then
    some { drain := f 0 1 = 1, count := f 4 4, base := BitVec.ofNat 64 (f 8 8), n1 := f 16 4, s1 := toSigned 64 (f 24 8),
           s2 := toSigned 64 (f 32 8) }
  else none

/-- The address of element i of a subscription (R276). -/
def Subscription.addr (u : Subscription) (i : Nat) : DWord :=
  u.base + BitVec.ofInt 64 ((i / u.n1 : Nat) * u.s2 + (i % u.n1 : Nat) * u.s1)

/-- A stream descriptor from its 32 bytes (R165): its ring and its fields, or none where a field breaks R165 or R166. -/
def State.streamDesc (s : State) (out : Bool) (off : Nat) (bs : List Byte) : Option Stream :=
  let f (o n : Nat) : Nat := bytesNat ((bs.drop o).take n)
  let lines := f 8 4
  let elem := f 12 1
  if elem ≤ 1 && f 13 3 = 0 && f 24 8 = 0 && 1 ≤ lines && lines ≤ 32768 && (elem = 0 || lines % 4 = 0) && f 0 8 % 128 = 0 then
    match s.localAt (BitVec.ofNat 64 (f 0 8)) (128 * lines) true with
    | .inl (_, ring) =>
      some { bound := true, out := out, base := ring, lines := lines, vector := elem = 1, sub := BitVec.ofNat 64 (f 16 8),
             idle := f 16 8 = 0, priv := s.thr.ctl.hnd, desc := off }
    | .inr _ => none
  else none

/-- QBIND (R165, R166, R276): the descriptor is read from the own core's scratchpad, the subscription record through the
launch's context. -/
def issueQbind (w : SlotWord) (s : State) : Res :=
  if (vget {} s.thr.q w.d.toNat).engine.isSome then .hold {} []
  else match s.localAcc (s.opS 2 w.a) 32 32 true false with
  | .inr r => r
  | .inl (_, off) =>
    if s.core.ownedAt off 32 then .hold {} []
    else if (vget {} s.thr.q w.d.toNat).bound then raise 2 cStream 3
    else match s.streamDesc (w.fmt.getLsbD 0) off (s.core.scratch.read off 32) with
      | none => raise 2 cStream 4
      | some b =>
        if b.sub = 0 then .ok [.bind w.d.toNat b]
        else if b.sub.toNat % 64 ≠ 0 then raise 2 cStream 4
        else match s.globalAcc b.sub 64 64 { rd := true } with
          | .inr r => r
          | .inl l => match Subscription.ofBytes b.size (s.loadAt b.sub l).1 with
            | some u => if u.drain = b.out then .ok (.bind w.d.toNat { b with subs := some u } :: (pinEffs l ++ remoteReads b.sub l)) else raise 2 cStream 4
            | none => raise 2 cStream 4
/-- QBIND (R166). -/
def execQbind (w : SlotWord) (s : State) : Ans State := s.runL (.qbind w) w (issueQbind w)

/-- QSTOP (R166): no effect on an unbound stream; it holds while an engine holds the stream (R222). -/
def issueQstop (w : SlotWord) (s : State) : Res :=
  if (vget {} s.thr.q w.d.toNat).engine.isSome then .hold {} [] else .ok [.unbind w.d.toNat]
/-- QSTOP (R166). -/
def execQstop (w : SlotWord) (s : State) : Ans State := s.runL (.qstop w) w (issueQstop w)

/-- QDRN (R166): holds until every ring word is empty; a fault that has stopped the drainer satisfies it (R277). -/
def issueQdrn (w : SlotWord) (s : State) : Res :=
  let b := vget {} s.thr.q w.d.toNat
  if b.engine.isSome then .hold {} []
  else if !b.bound || !b.out then raise 2 cStream 5
  else if b.fault.isNone && (b.flying ≠ 0 || (wordsOf b.base (128 * b.lines)).any fun k => s.core.full.has k) then .hold {} []
  else .ok []
/-- QDRN (R166). -/
def execQdrn (w : SlotWord) (s : State) : Ans State := s.runL (.qdrn w) w (issueQdrn w)

/-! ### Collectives, triggers, signals and prefetch (R168 to R171) -/

/-- CSUB (R168): only address exceptions at issue; a provisional step stalls (R172). -/
def issueCsub (w : SlotWord) (s : State) : Res :=
  match s.globalAcc (s.opS 2 w.a) 128 128 { rd := true } with
  | .inr r => r
  | .inl _ => if s.prov then stall else .ok [.coll (s.opS 2 w.a) (scopeOf w) (isRel w)]
/-- CSUB (R168). -/
def execCsub (w : SlotWord) (s : State) : Ans State := s.runL (.csub w) w (issueCsub w)

/-- TRIG (R169): a handle that names no counter of the job raises PROTECT with DETAIL 6. -/
def issueTrig (w : SlotWord) (s : State) : Res :=
  let h := s.opS 2 w.a
  match s.trigCounter h s.ctxOf with
  | none => raiseL causeProtect 6 h false
  | some _ => if s.prov then stall else .ok [.trig h ((s.opS 2 w.b).setWidth 32)]
/-- TRIG (R169). -/
def execTrig (w : SlotWord) (s : State) : Ans State := s.runL (.trig w) w (issueTrig w)

/-- The new value of a signal (R170). -/
def signalNew (op : Nat) (old b : DWord) : DWord := match op with | 0 => b | 1 => old + b | _ => old - b

/-- SIGOP (R170). -/
def issueSigop (w : SlotWord) (s : State) : Res :=
  let a := s.opS 2 w.a
  let b := s.opS 2 w.b
  match s.globalAcc a 8 8 { rd := true, wr := true } with
  | .inr r => r
  | .inl l =>
    if s.prov then stall
    else match (Place.mem l).rank with
      | some r => .ok [.remoteAtom r (if w.fmt = 0 then .xchg else .add) 8 a (if w.fmt = 2 then 0 - b else b) 0 none, .sent (some a) r]
      | none =>
        let new := signalNew w.fmt.toNat (BitVec.ofNat 64 (bytesNat (s.readData a 8 l).1)) b
        .ok (pinEffs l ++ s.writeEffs a l (natBytes 8 new.toNat) ++ if isRel w then s.releaseEff (.mem l) 8 (scopeOf w) else [])
/-- SIGOP (R170). -/
def execSigop (w : SlotWord) (s : State) : Ans State := s.runL (.sigop w) w (issueSigop w)

/-- PREF (R171): no exception for its address and no architectural effect. -/
def execPref (w : SlotWord) (s : State) : Ans State := s.runL (.pref w) w fun _ => .ok []

end Sys2Proof.Machine
end

