-- ==== Sys2Proof/Machine/Events.lean ====
section
/-! DEFINITION. Events of a core: results that land (R72, R73), traps at a bundle boundary (R77, R254, R255), waits that end
(R117), reports of other packages (R260 to R262), page walks (R283), feeders and drainers (R277), copies (R161 to R164) and
segment copies (R306, R307). -/

namespace Sys2Proof.Machine

/-- A thread stands on the focus core and is not frozen (R259). -/
def State.running (s : State) : Bool := s.core.live && !s.core.frozen && !s.halted s.thr.launch

/-- The thread on the focus core may issue: it has not reached EXIT, and the core is not frozen for a pre-emption (R122, R299). Log 26. -/
def State.canIssue (s : State) : Bool :=
  s.running && !s.core.exiting && s.unfrozen

/-! ### Landing (R72, R73, R300) -/

/-- The last cycle whose results land: the freeze cycle of a core that is being frozen, which a BARV in flight delays (R300, R409). -/
def State.landLimit (s : State) : Nat :=
  match s.core.freezeReq with
  | some (z, _) => if s.thr.barv.isSome then s.now else min s.now z
  | none => s.now

/-- The results of the focus core's thread land, whether or not it issues: a frozen thread's open commands run to completion (R259). -/
def State.lands (s : State) : Bool := s.core.live && !s.halted s.thr.launch

/-- RESULT_LANDING (R73): every exposed result of the focus core that is due lands. Those of the replay buffer, of earlier bundles, have taken
effect before, so that the later bundle's result stays in a register that both reach, as it would without the pre-emption (R81, R303).
Log 115. -/
def execResultLanding (s : State) : Ans State :=
  if s.lands && s.thr.due s.landLimit false && !s.thr.due s.landLimit true then .next (s.ringsMoved (s.core.landDue s.landLimit false))
  else off_ "RESULT_LANDING"

/-- REPLAY_LANDING (R303): the entries of the replay buffer that are due land in their entry order. Log 115. -/
def execReplayLanding (s : State) : Ans State :=
  if s.lands && s.thr.due s.landLimit true then
    .next (s.ringsMoved (s.core.landDue s.landLimit true))
  else off_ "REPLAY_LANDING"

/-- INTERLOCKED_RESULT (R72): result i of the focus core lands and its interlock is released. Log 4. -/
def execInterlockedResult (i : Nat) (s : State) : Ans State :=
  match s.thr.ilocks[i]? with
  | some ⟨_, some l, _, _, _⟩ =>
    if s.lands then
      let c : Core := { s.core with thr := { s.thr with ilocks := s.thr.ilocks.eraseIdx i } }
      .next (s.ringsMoved (c.land l))
    else off_ "INTERLOCKED_RESULT"
  | _ => off_ "INTERLOCKED_RESULT"

/-- The accesses that await an acknowledgement (R122, R154): of each launch in turn, its number and the access's place among its own. -/
def State.awaited (s : State) : List (Nat × Nat) :=
  s.launches.flatMap fun x => (List.range (x.2.elim 0 fun l => l.acks.length)).map fun i => (x.1, i)

/-! ### Traps at a bundle boundary (R77, R78, R80, R255) -/

/-- The exception that fetching and decoding the bundle at the program counter raises, if any (R77, R78, R306, R422). A bundle that
holds has been decoded, and does not take its BRK again while it holds; one that resumes after a suspension is decoded again. Log 25. -/
def State.boundaryTrap (s : State) : Option TrapInfo :=
  if s.thr.barv.isSome then none
  else match s.fetch with
  | .trap t => some t
  | .stall _ => none
  | .bytes _ l =>
    let poison (n : Nat) : Option TrapInfo := (s.fetchPoison n).map fun a => { cause := cPoison, detail := 1, addr := a }
    match decodeBundle s.fw (s.thr.pc.toNat % 64) l with
    | .pad => poison 2
    | .bad d => (poison 2).or (some { cause := cIllegalBundle, detail := BitVec.ofNat 8 d })
    | .bundle b =>
      ((poison b.len).or (if s.core.waitInfo.isSome then none else s.breakErr b.hdr.brk)).or
        (b.err.map fun d => { cause := cIllegalBundle, detail := BitVec.ofNat 8 d })

/-- TRAP_ENTRY (R255): the exception of the bundle at the program counter is taken at the bundle boundary. BREAK has been passed
where conditions 4 to 7 of R78 are reached, so break_skip is then false (R77). -/
def execTrapEntry (t : TrapInfo) (s : State) : Ans State :=
  if s.canIssue && s.thr.deferred.isNone && s.thr.late = [] && s.boundaryTrap = some t then
    let skip := s.thr.breakSkip && !(t.cause = cIllegalBundle && 4 ≤ t.detail)
    let s := s.tableFetched.setCore { s.core with segFails := s.failRaised }
    .next ((s.modThr fun x => { x with breakSkip := skip }).takeTrap t s.thr.pc)
  else off_ "TRAP_ENTRY"

/-! ### Waits (R117) -/

/-- WAIT_TIMEOUT (R117): the held count has reached the wait's limit. -/
def execWaitTimeout (s : State) : Ans State :=
  match s.core.waitInfo with
  | some w =>
    if s.canIssue && w.limit ≠ 0 && w.limit ≤ s.thr.waited then .next (s.timeout w.slot w) else off_ "WAIT_TIMEOUT"
  | none => off_ "WAIT_TIMEOUT"

/-- WAIT_SUSPEND (R117): the held count has reached WLIM, and the limit of the wait has not been reached. Log 82. -/
def execWaitSuspend (s : State) : Ans State :=
  match s.core.waitInfo with
  | some w =>
    let lim := s.thr.wlimF.getD s.thr.ctl.wlim.toNat
    if s.canIssue && w.wlim && lim ≤ s.thr.waited && (w.limit = 0 || s.thr.waited < w.limit) && s.frameFree && !s.fw then
      .next ((s.modThr fun t => { t with wlimF := some lim }).waitOut)
    else off_ "WAIT_SUSPEND"
  | none => off_ "WAIT_SUSPEND"

/-! ### Reports of other packages (R260 to R262) -/

/-- Whether a thread is the one a report names. Log 26. -/
def reportNames (r : LateReport) (t : Thread) : Bool := t.launch = r.launch && t.ctl.tid.toNat = r.tid

/-- The destination keeps its old value and the interlock is released without a result (R260, R261). -/
def Thread.cancel (t : Thread) (token : Option Nat) : Thread :=
  match token with
  | some k => { t with ilocks := t.ilocks.filter fun i => i.token ≠ k || k = 0 }
  | none => t

/-- What a late report can carry (R254): XLATE, PROTECT, RACE, or ATOMIC_LOST, which alone has APPLIED = 1 (R261); the fields of EINFO that
belong to a latency check are zero (R255). -/
def reportOk (x : TrapInfo) : Bool :=
  if x.xcl ≠ 0 || x.xrow ≠ 0 || x.xnum ≠ 0 then false
  else if x.cause = causeXlate then 1 ≤ x.detail && x.detail ≤ 7 && !x.applied
  else if x.cause = causeProtect then 1 ≤ x.detail && x.detail ≤ 5 && !x.applied
  else if x.cause = cRace then 1 ≤ x.detail && x.detail ≤ 3 && !x.applied
  else x.cause = cLost && 1 ≤ x.detail && x.detail ≤ 3 && x.applied

/-- The thread that a report names has committed EXIT and waits for its engine commands (R122, R262). -/
def State.hasExited (s : State) (r : LateReport) : Bool :=
  s.busyCores.any fun n => let c := s.coreAt n; c.live && c.exiting && reportNames r c.thr

/-- A report that its thread cannot take now (R260, R262): kept for the thread, or a launch error entry where the thread has exited. -/
def State.report (s : State) (r : LateReport) : State :=
  if !s.hasExited r && (s.threadsOf r.launch).any (reportNames r) then
    s.onThread ⟨r.launch, r.tid⟩ fun t =>
      { t.cancel r.token with late := if t.late.contains r then t.late else t.late ++ [r] }
  else s.appendError r.launch (reportEntry r)

/-- LATE_REPORT (R260 to R262): delivered at the bundle boundary of the thread it names, which is on the focus core; kept for a
thread that cannot take it yet, because it is frozen or an arrival of its BARV is in flight (R409); a launch error entry where the thread has exited. Log 26, 70. -/
def execLateReport (r : LateReport) (s : State) : Ans State :=
  if (s.launch? r.launch).isNone || !reportOk r.info then off_ "LATE_REPORT"
  else if s.canIssue && s.thr.barv.isNone && reportNames r s.thr then
    .next ((s.modThr fun t => { t.cancel r.token with late := t.late.erase r }).takeTrap
      { r.info with remote := true } s.thr.pc r.pc)
  else .next (s.report r)

/-! ### Page walks (R281, R283) -/

/-- Add an entry to a TLB of a given size, the oldest leaving. Log 27. -/
def tlbAdd (size : Nat) (l : List TlbEntry) (e : TlbEntry) : List TlbEntry := (e :: l.filter (· ≠ e)).take size

/-- The last-level TLB's entry for an address (R283). Log 28. -/
def Die.tlbFind (d : Die) (ctx : Nat) (va : DWord) : Option TlbEntry :=
  d.ltlb.find? fun e => e.ctx = ctx && e.page = va.toNat / 2 ^ e.shift

/-- What the walk of one miss finds: a last-level entry, or the page tables (R281, R283). Log 28. -/
def State.walkFor (s : State) (die : Nat) (w : Walk) : TlbEntry ⊕ BitVec 8 × BitVec 8 :=
  match (s.die die).tlbFind w.ctx w.va with
  | some e => .inl e
  | none => match s.walkCached die w.ctx (s.coreAt w.core).thr.ctl.count.toNat w.va with
    | .leaf sh e => .inl { ctx := w.ctx, page := w.va.toNat / 2 ^ sh, shift := sh, entry := BitVec.ofNat 64 e }
    | .fault c d => .inr (c, d)

/-- The access that waits for a walk passes the checks of the leaf that was found (R281). -/
def State.walkOk (s : State) (e : TlbEntry) (w : Walk) : Bool :=
  match s.through w.ctx (s.coreAt w.core).thr.ctl.count.toNat e.shift e.entry.toNat w.va w.need with
  | .inl _ => true
  | .inr _ => false

/-- The table entries that the walk of a miss has read and that the die's walker cache lacks; none where the last-level TLB had the
translation (R283). -/
def State.walkTables (s : State) (die : Nat) (w : Walk) : List TableEntry :=
  let d := s.die die
  if (d.tlbFind w.ctx w.va).isSome then []
  else (s.tablesFrom w.ctx w.va (s.walkStart die w.ctx w.va).1 (s.walkStart die w.ctx w.va).2).filter fun x =>
    !d.tables.any fun y => y.ctx = x.ctx && y.lvl = x.lvl && y.page = x.page

/-- WALK_COMPLETE (R283): walk i of a die's 64 walkers finishes. Misses of the same page share it: the translation fills the last-level TLB
and the micro-TLBs of the cores whose accesses pass its checks, the others having it for the bundle that holds (R281: a fault fills no
TLB), and the tables read stay in the walker cache; a fault of the walk is what the held bundles raise. -/
def execWalkComplete (die i : Nat) (s : State) : Ans State :=
  if 8 ≤ die then off_ "WALK_COMPLETE"
  else match (s.die die).walks[i]? with
    | none => off_ "WALK_COMPLETE"
    | some w =>
      if 64 ≤ i then off_ "WALK_COMPLETE"
      else match s.walkFor die w with
        | .inl e =>
          let same (x : Walk) : Bool := x.ctx = w.ctx && x.va.toNat / 2 ^ e.shift = e.page
          let waiting := ((s.die die).walks.filter same).map fun x => (x.core, s.walkOk e x)
          let fills := waiting.any Prod.snd
          let path := s.walkTables die w
          let s := s.modDie die fun d =>
            { d with
              walks := d.walks.filter fun x => !same x, ltlb := if fills then tlbAdd 24576 d.ltlb e else d.ltlb, tables := d.tables ++ path }
          .next (waiting.foldl (fun s x => s.modCore x.1 fun c =>
            { c with utlb := if x.2 then tlbAdd 64 c.utlb e else c.utlb, found := e :: c.found }) s)
        | .inr (c, d) =>
          let same (x : Walk) : Bool := x.ctx = w.ctx && x.va.toNat / 16384 = w.va.toNat / 16384
          let cores := ((s.die die).walks.filter same).map Walk.core
          let s := s.modDie die fun x => { x with walks := x.walks.filter fun x => !same x }
          .next (cores.foldl (fun s n => s.modCore n fun k => { k with wfaults := ⟨w.ctx, w.va, c, d⟩ :: k.wfaults }) s)

/-! ### Feeders and drainers (R277) -/

/-- The scratchpad offset of the ring slot of the subscription's next element. -/
def Stream.feedSlot (b : Stream) : Nat := b.base + b.fed * b.size % (128 * b.lines)

/-- The context of a launch. -/
def State.launchCtx (s : State) (launch : Nat) : Nat := match s.launch? launch with | some l => l.ctx | none => 0

/-- No engine command stands in the way of the next element's words (R146, R247). -/
def Core.feedRoom (c : Core) (b : Stream) : Bool := !(if b.out then c.ownedWr b.feedSlot b.size else c.ownedAt b.feedSlot b.size)

/-- The focus core's ring is in reach of its feeder or drainer: the thread is resident, whether or not it issues (R122, R259), no
pre-emption has frozen it but for a chunk command on its way to its next time step (R301, R232), and its claim is resident (R277, R297). -/
def State.feeds (s : State) (b : Stream) (out : Bool) : Bool :=
  s.core.live && !s.halted s.thr.launch && (s.unfrozen || b.engine.isSome) && !s.fw && b.bound && b.out = out && !b.idle &&
    s.core.owner = some s.thr.launch && s.core.feedRoom b

/-- The feeder or drainer that a migrated thread has left with its launch's claim on the focus core, which may be idle or occupied by
another launch (R298). -/
def State.leftOn (s : State) (q : Nat) (out : Bool) : Option (Nat × LeftFeed) :=
  s.launches.findSome? fun y => y.2.bind fun l =>
    if l.frozen || !s.core.hasClaim y.1 then none
    else (l.left.find? fun x => x.core = s.cur && x.q = q && x.b.out = out && (s.core.view y.1).feedRoom x.b).map fun x => (y.1, x)

/-- The subscription moves on by an element and is idle after COUNT (R277). -/
def Stream.fedOne (b : Stream) (u : Subscription) : Stream := { b with fed := b.fed + 1, idle := b.idle || u.count ≤ b.fed + 1 }

/-- Replace a stream binding of the focus core's thread. -/
def State.putStream (s : State) (q : Nat) (b : Stream) : State := s.modThr fun t => { t with q := vset t.q q b }

/-- Replace a feeder or drainer that has been left on the focus core; one that has ended is forgotten (R298). -/
def State.putLeft (s : State) (launch q : Nat) (b : Stream) : State :=
  s.modLaunch launch fun l =>
    { l with left := (l.left.map fun x => if x.core = s.cur && x.q = q then { x with b := b } else x).filter fun x => !x.b.idle }

/-- The words of a ring slot of a launch's claim on the focus core are set full, as a release of the line at DIE scope (R248). Log 103. -/
def State.fill (s : State) (launch : Nat) (b : Stream) (f : Core → Core) : State :=
  let ws := wordsOf b.feedSlot b.size
  let put (c : Core) : Core := { f c with full := c.full.putAll ws true }
  ((s.setCore (s.core.onClaim launch put)).tagSet launch s.cur ws true).release (scratchLoc launch s.cur b.feedSlot) b.size
    ⟨s.cur, scopeDie, none, none⟩

/-- A feeder reads its next element and writes it into its ring slot, whose words are empty (R277). A fault or a poisoned line poisons
the words, and the feeder stops. Log 29. -/
def State.feedInto (s : State) (launch ctx : Nat) (b : Stream) (put : State → Stream → State) : Option State :=
  b.subs.bind fun u =>
    let ws := wordsOf b.feedSlot b.size
    if ws.any (s.core.view launch).full.has then none
    else
      let a := u.addr b.fed
      if s.busHeld ctx a b.size (dieOf s.cur) false then none
      else match s.agentRead ctx (!b.priv) a b.size with
      | .inl (bs, false) =>
        let t := put (s.agentReach ctx a b.size).draw (b.fedOne u)
        some (t.fill launch b fun c => c.putScratch b.feedSlot bs)
      | _ =>
        let t := put s.draw { b with idle := true, fault := some a }
        some (t.fill launch b fun c => { c with spoison := c.spoison.putAll ws true })

/-- FEED_ELEMENT (R277): a feeder of the focus core's thread, or one left on its claim (R298), moves its next element. -/
def execFeedElement (q : Fin 8) (s : State) : Ans State :=
  let b := s.thr.q[q]
  let t := if s.feeds b false then s.feedInto s.thr.launch s.ctxOf b fun s b => s.putStream q b
    else (s.leftOn q false).bind fun x => s.feedInto x.1 (s.launchCtx x.1) x.2.b fun s b => s.putLeft x.1 q b
  match t with
  | some t => .next t
  | none => off_ "FEED_ELEMENT"

/-- Set or clear the poison mark of every backed line that an agent's write of n bytes would reach; a mark for another package travels with
the data (R163, R265, R285). -/
def State.agentMark (s : State) (ctx : Nat) (user : Bool) (va : DWord) (n : Nat) (b : Bool) : State :=
  (pagePieces va n).foldl (fun t p =>
    match s.xlate ctx (s.jobCount ctx) p.2.1 { wr := true, user := user } with
    | .inl (.phys pa _ _ _) => { t with poison := t.poison.putAll (unitsOf 128 pa p.2.2) b }
    | .inl (.away r) => if b then t.send (.remoteMark r p.2.1 p.2.2) else t
    | .inr _ => t) s

/-- Mark poisoned every backed line that an agent's write of n bytes would reach. -/
def State.agentPoison (s : State) (ctx : Nat) (user : Bool) (va : DWord) (n : Nat) : State := s.agentMark ctx user va n true

/-- A drainer writes its next element, a full one, to global memory with its poison, and its words are set empty (R277). A fault appends
a launch error entry, empties the words and stops the drainer. -/
def State.drainFrom (s : State) (who : ThreadRef) (step ctx q : Nat) (b : Stream) (put : State → Stream → State) : Option State :=
  b.subs.bind fun u =>
    let ws := wordsOf b.feedSlot b.size
    let c := s.core.view who.launch
    if !ws.all c.full.has then none
    else
      let a := u.addr b.fed
      let empty (s : State) : State :=
        (s.setCore (s.core.onClaim who.launch fun c => { c with full := c.full.putAll ws false })).tagSet who.launch s.cur ws false
      if s.busHeld ctx a b.size (dieOf s.cur) true then none
      else match s.agentWrite ctx (!b.priv) a (c.scratch.read b.feedSlot b.size) (s.byLaunch who.launch) with
      | some t =>
        let mark (t : State) (w : Nat) : State := t.agentPoison ctx (!b.priv) (a + BitVec.ofNat 64 (8 * w - b.feedSlot)) 8
        some (empty (put ((ws.filter c.spoison.has).foldl mark t) (b.fedOne u)))
      | none =>
        some (empty ((put s { b with idle := true, fault := some a }).appendError who.launch
          { cause := cCopyError, detail := 3, wr := true, slot := 16 + q, tid := who.tid % 2 ^ 32, step := step, addr := a }))

/-- DRAIN_ELEMENT (R277): a drainer of the focus core's thread, or one left on its claim (R298), moves its next element. -/
def execDrainElement (q : Fin 8) (s : State) : Ans State :=
  let b := s.thr.q[q]
  let t := if s.feeds b true then s.drainFrom s.me s.thr.step s.ctxOf q b fun s b => s.putStream q b
    else (s.leftOn q true).bind fun x => s.drainFrom x.2.who x.2.step (s.launchCtx x.1) q x.2.b fun s b => s.putLeft x.1 q b
  match t with
  | some t => .next t
  | none => off_ "DRAIN_ELEMENT"

/-! ### Copies (R161 to R164) -/

/-- A copy template (R161). -/
structure Template where
  ssp  : Nat
  dsp  : Nat
  full : Bool
  wemp : Bool
  row  : Nat
  n1   : Nat
  n2   : Nat
  ss1  : Int
  ss2  : Int
  ds1  : Int
  ds2  : Int
  deriving DecidableEq, Repr

/-- A template from its 64 bytes, where its fields keep R161. -/
def Template.ofBytes (bs : List Byte) : Option Template :=
  let f (o n : Nat) : Nat := bytesNat ((bs.drop o).take n)
  let g (o : Nat) : Int := toSigned 64 (f o 8)
  let ok := f 0 1 ≤ 2 && f 1 1 ≤ 1 && f 2 1 ≤ 3 && (f 2 1 = 0 || f 1 1 = 1) && f 3 1 = 0 && f 4 4 % 8 = 0 && 8 ≤ f 4 4 &&
    f 4 4 ≤ 1048576 && 1 ≤ f 8 4 && f 8 4 ≤ 65535 && 1 ≤ f 12 4 && f 12 4 ≤ 65535 && f 16 8 % 8 = 0 && f 24 8 % 8 = 0 &&
    f 32 8 % 8 = 0 && f 40 8 % 8 = 0 && f 48 8 = 0 && f 56 8 = 0
  if ok then
    some { ssp := f 0 1, dsp := f 1 1, full := f 2 1 % 2 = 1, wemp := f 2 1 / 2 = 1, row := f 4 4, n1 := f 8 4, n2 := f 12 4,
           ss1 := g 16, ss2 := g 24, ds1 := g 32, ds2 := g 40 }
  else none

/-- The number of 8-byte words that a template copies. -/
def Template.words (t : Template) : Nat := t.row / 8 * t.n1 * t.n2

/-- The address of word k in the loop order of R162, from a base and the two strides. -/
def Template.at_ (t : Template) (base : DWord) (d1 d2 : Int) (k : Nat) : DWord :=
  let r := k / (t.row / 8)
  base + BitVec.ofInt 64 ((r / t.n1 : Nat) * d2 + (r % t.n1 : Nat) * d1 + (8 * (k % (t.row / 8)) : Nat))

/-- Source and destination of word k. -/
def Copy.srcAt (c : Copy) (t : Template) (k : Nat) : DWord := t.at_ c.src t.ss1 t.ss2 k
@[inherit_doc Copy.srcAt] def Copy.dstAt (c : Copy) (t : Template) (k : Nat) : DWord := t.at_ c.dst t.ds1 t.ds2 k

/-- The launch of a copy. -/
def Copy.launch (c : Copy) : Nat := match c.who with | some r => r.launch | none => 0

/-- The scratchpad word that an address of a copy names: core and offset, and whether the claim there is resident (R84, R141,
R162, R297); none where the address breaks R84 or R141. -/
def State.copyLocal (s : State) (c : Copy) (a : DWord) : Option (Nat × Nat × Bool) :=
  let k := bits a.toNat 22 5
  let off := a.toNat % 2 ^ 22
  if a.toNat / 2 ^ 27 ≠ 0 then none
  else if isFw c.core then if k ≠ 0 ∨ dataBytes < off + 8 then none else some (c.core, off, true)
  else
    let core := 32 * dieOf c.core + k
    let mine := (s.coreAt core).hasClaim c.launch
    let gone := match s.launch? c.launch with
      | some l => l.conts.any fun x => match x.2.claim with | some i => i.core = core | none => false
      | none => false
    let size := if mine then ((s.coreAt core).view c.launch).claim else match gone, s.launch? c.launch with | true, some l => l.scr | _, _ => 0
    if !c.dmbd.getLsbD k ∨ size < off + 8 then none else some (core, off, mine)

/-- Whether an address of a copy breaks R141 or R142, which is found when the copy starts (R163). -/
def State.copyBad (s : State) (c : Copy) (space : Nat) (a : DWord) : Bool :=
  a.toNat % 8 ≠ 0 || space = 1 && (s.copyLocal c a).isNone

/-- The first word, below n, whose source or destination breaks R141 or R142, with its DETAIL (R163, R164). -/
def State.copyCheck (s : State) (c : Copy) (t : Template) : Nat → Nat → Option (Nat × BitVec 8)
  | 0, _ => none
  | n + 1, k =>
    if t.ssp ≠ 2 && s.copyBad c t.ssp (c.srcAt t k) then some (k, 2)
    else if s.copyBad c t.dsp (c.dstAt t k) then some (k, 3)
    else s.copyCheck c t n (k + 1)

/-- What moving one word of a copy gives: the new state; a wait for an empty word or an evicted claim; a failure with its
DETAIL; a violation of the access windows at an address (R375). -/
inductive Moved where
  | ok (s : State)
  | wait
  | fail (detail : BitVec 8)
  | violation (a : DWord) (reason : Nat)

/-- The source word of a copy and whether it carries poison (R162, R163); it waits for a link that a STOP mark holds (R367). -/
def State.copySource (s : State) (c : Copy) (t : Template) (k : Nat) : (List Byte × Bool) ⊕ Moved :=
  let a := c.srcAt t k
  match t.ssp with
  | 0 =>
    if isFw c.core && c.packet.isNone then
      if !s.firmwareOk true false a.toNat 8 then .inr (.violation a (s.strayReason true false a.toNat 8))
      else if s.lostHome a.toNat then .inr (.fail 2)
      else if deviceBase ≤ a.toNat then .inl (natBytes 8 (s.deviceRead (a.toNat - deviceBase) 8), false)
      else if s.dataHeld a.toNat 8 dieA false then .inr .wait
      else if s.poisonedPA a.toNat 8 then .inr (.fail 4) else .inl (s.readPA 0 a.toNat 8, false)
    else if s.busHeld c.ctx a 8 (dieOf c.core) false then .inr .wait
    else match s.agentRead c.ctx c.user a 8 with
      | .inr _ => .inr (.fail 2)
      | .inl (_, true) => .inr (.fail 4)
      | .inl (bs, false) => .inl (bs, false)
  | 1 => match s.copyLocal c a with
    | some (core, off, true) =>
      let x := (s.coreAt core).view c.launch
      if x.ownedWr off 8 then .inr .wait else .inl (x.scratch.read off 8, x.spoison.has (off / 8))
    | some _ => .inr .wait
    | none => .inr (.fail 2)
  | _ => .inl (List.replicate 8 0, false)

/-- Move word k of a copy (R162): it waits for a word that must be empty, for an owned block (R146), and for a link that a STOP mark holds (R367); a word set full is a release at
DIE scope (R248). The data memory of a firmware core has no full/empty bits (R84). Log 30, 103, 120. -/
def State.copyWord (s : State) (c : Copy) (t : Template) (k : Nat) : Moved :=
  let a := c.dstAt t k
  match s.copySource c t k with
  | .inr m => m
  | .inl (bs, bad) =>
    let s := if t.ssp = 0 && (!isFw c.core || c.packet.isSome) then s.agentReach c.ctx (c.srcAt t k) 8 else s
    if t.dsp = 1 then
      match s.copyLocal c a with
      | some (core, off, true) =>
        let x := (s.coreAt core).view c.launch
        let tagged := !isFw c.core
        if x.ownedAt off 8 || tagged && t.wemp && x.full.has (off / 8) then .wait
        else
          let loc := scratchLoc c.launch core off
          let s := (s.modCore core fun x => x.onClaim c.launch fun x =>
            let x := x.putScratch off bs
            { x with full := if tagged && t.full then x.full.put (off / 8) true else x.full,
                     spoison := if bad then x.spoison.put (off / 8) true else x.spoison }).endSeq loc 8
          .ok (if tagged && t.full then (s.tagSet c.launch core [off / 8] true).release loc 8 ⟨core, scopeDie, none, none⟩ else s).draw
      | some _ => .wait
      | none => .fail 3
    else if isFw c.core && c.packet.isNone then
      if !s.firmwareOk false true a.toNat 8 then .violation a (s.strayReason false true a.toNat 8)
      else if s.lostHome a.toNat then .fail 3
      else if deviceBase ≤ a.toNat then
        .ok { s with inputs := s.inputs ++ [.registerWrite (a.toNat - deviceBase) bs] }
      else if s.dataHeld a.toNat 8 dieA true then .wait
      else
        let s := (s.writePA 0 a.toNat bs).endSeq a.toNat 8
        .ok (if bad then { s with poison := s.poison.put (a.toNat / 128) true } else s)
    else if s.busHeld c.ctx a 8 (dieOf c.core) true then .wait
    else match s.agentWrite c.ctx c.user a bs { s.byPacket c.packet c.launch with copy := some (c.no, k) } with
      | some s' => .ok (if bad then s'.agentPoison c.ctx c.user a 8 else s').draw
      | none => .fail 3

/-- The failing word and every later destination word become poisoned where their addresses translate (R163). -/
def State.copyPoison (s : State) (c : Copy) (t : Template) : Nat → Nat → State
  | 0, _ => s
  | n + 1, k =>
    let a := c.dstAt t k
    let s := if t.dsp = 1 then
        match s.copyLocal c a with
        | some (core, off, true) => s.modCore core fun x => x.onClaim c.launch fun x => { x with spoison := x.spoison.put (off / 8) true }
        | _ => s
      else if isFw c.core && c.packet.isNone then
        if s.firmwareOk false true a.toNat 8 && a.toNat < deviceBase && !s.lostHome a.toNat then
          { s with poison := s.poison.put (a.toNat / 128) true } else s
      else s.agentPoison c.ctx c.user a 8
    s.copyPoison c t n (k + 1)

/-- Whether a scratchpad word among the n from word k on cannot be written poisoned yet: an engine owns its block (R146), or its claim is
evicted (R297). -/
def State.copyHeld (s : State) (c : Copy) (t : Template) : Nat → Nat → Bool
  | 0, _ => false
  | n + 1, k => t.dsp = 1 &&
    ((match s.copyLocal c (c.dstAt t k) with
      | some (core, off, mine) => !mine || ((s.coreAt core).view c.launch).ownedAt off 8
      | none => false) || s.copyHeld c t n (k + 1))

/-- A copy or collective with REL waits, as long as an earlier access of its thread to another package has not been acknowledged or has not
returned its value: `i` is the number it was given at commit (R162, R168). Accesses within the package are performed when their bundle
commits. Log 101. -/
def State.owedBefore (s : State) (who : Option ThreadRef) (i : Nat) : Bool :=
  match who with
  | none => false
  | some r =>
    (match s.launch? r.launch with
      | some l => l.acks.any fun a => a.tid = r.tid && a.va.isSome && a.no ≤ i
      | none => false) ||
      (s.threadsOf r.launch).any fun t =>
        t.ctl.tid.toNat = r.tid && t.ilocks.any fun x => x.mem && x.token ≠ 0 && x.token < i

/-- A wait counter falls in the spill frame of a suspended thread (R162, R302). -/
def State.frameCount (s : State) (r : ThreadRef) (ctr : Nat) : State :=
  match s.launch? r.launch with
  | none => s
  | some l => match (l.conts.find? fun x => x.2.thr.ctl.tid.toNat = r.tid).bind fun x => x.2.thr.frame with
    | none => s
    | some i => match s.frameRead l i (0x7200 + 384 + 2 * ctr) 2 with
      | some bs => s.frameWrite l i (0x7200 + 384 + 2 * ctr) (natBytes 2 (bytesNat bs + 65535))
      | none => s

/-- A packet's work has ended with a completion code (R343). -/
def State.packetCode (s : State) (p code : Nat) : State :=
  { s with packets := tmod none s.packets p (Option.map fun x => { x with code := some code }) }

/-- A copy ends: its counter falls, or its packet has its code (R162, R347). A failure is recorded against the counter; where
the thread has exited, it is a launch error entry (R163, R263). Log 83. -/
def State.copyEnd (s : State) (i : Nat) (c : Copy) (bad : Option (Nat × BitVec 8)) : State :=
  let s := { s with copies := tset none s.copies i none }
  match c.packet with
  | some p => s.packetCode p (if bad.isSome then 11 else 0)
  | none =>
    let done (t : Thread) : Thread :=
      let t := t.counterAdd c.ctr 0xFFFF
      match bad with
      | some (k, d) => { t with fails := t.fails ++ [⟨c.ctr, BitVec.ofNat 64 (8 * k), d, d = 3, c.step, c.pc⟩] }
      | none => t
    match c.who with
    | none => s.modCore c.core fun x => { x with thr := done x.thr }
    | some r =>
      if s.alive r then (s.onThread r done).frameCount r c.ctr
      else match bad with
        | some (k, d) => s.appendError r.launch
            { cause := cCopyError, detail := d, wr := d = 3, late := true, slot := c.ctr, tid := r.tid % 2 ^ 32, step := c.step
              pc := c.pc, addr := BitVec.ofNat 64 (8 * k) }
        | none => s

/-- Words of a copy from its progress on, as long as they lie in the destination line of the first: one line of R162's order. Log 30. -/
def State.copyLine (s : State) (c : Copy) (t : Template) (line : Nat) : Nat → Nat → State × Nat × Option Moved
  | 0, k => (s, k, none)
  | n + 1, k =>
    if k = t.words ∨ (c.dstAt t k).toNat / 128 ≠ line then (s, k, none)
    else match s.copyWord c t k with
      | .ok s' => s'.copyLine c t line n (k + 1)
      | m => (s, k, some m)

/-- Words k to k + 15 of a copy fill one line of global memory in order, none of them poisoned: the line loses its mark (R285). -/
def State.copyWhole (s : State) (c : Copy) (t : Template) (k : Nat) : Bool :=
  t.dsp = 0 && (c.dstAt t k).toNat % 128 = 0 && 16 ≤ t.row / 8 - k % (t.row / 8) &&
    (List.range 16).all fun i => match s.copySource c t (k + i) with | .inl (_, bad) => !bad | .inr _ => false

/-- A line that a copy has written whole loses its poison mark (R285). -/
def State.copyClear (s : State) (c : Copy) (a : DWord) : State :=
  if isFw c.core && c.packet.isNone then { s with poison := s.poison.put (a.toNat / 128) false } else s.agentMark c.ctx c.user a 128 false

/-- The template of a copy, read once when it starts (R161): its bytes, or none where it cannot be read; a firmware core reads it
through its windows (R375). -/
def State.copyImage (s : State) (c : Copy) : Option (List Byte) :=
  match c.image with
  | some bs => some bs
  | none =>
    if isFw c.core && c.packet.isNone then
      if s.firmwareOk true false c.tmpl.toNat 64 && !s.lostHome c.tmpl.toNat && !s.poisonedPA c.tmpl.toNat 64 then some (s.readPA 0 c.tmpl.toNat 64) else none
    else match s.agentRead c.ctx c.user c.tmpl 64 with
      | .inl (bs, false) => some bs
      | _ => none

/-- A firmware copy whose template lies outside the windows is a violation (R375). Log 90. -/
def State.copyStray (s : State) (c : Copy) : Bool :=
  isFw c.core && c.packet.isNone && c.image.isNone && !s.firmwareOk true false c.tmpl.toNat 64

/-- Words that a copy has written in another package have not been acknowledged there. -/
def State.copyAway (s : State) (c : Copy) : Bool := s.away.any fun x => x.whose.copy.any fun y => y.1 = c.no

/-- What a copy does when it starts beside reading its template: the lines it is read from are pinned, and another package is asked for it
(R271, R282). -/
def State.copyBegin (s : State) (c : Copy) : State :=
  if c.image.isSome || isFw c.core && c.packet.isNone then s else s.agentReach c.ctx c.tmpl 64

/-- The master of a copy is frozen: its launch's masters, or the firmware core that issued it (R377, R395). -/
def State.copyFrozen (s : State) (c : Copy) : Bool :=
  s.halted c.launch || isFw c.core && c.packet.isNone && (s.coreAt c.core).frozen

/-- COPY_COMPLETE (R162, R163): the copy engine moves the next destination line of copy i; with the last line, or on a failure,
the copy ends, once the words in another package are acknowledged, and its counter is decremented. It waits at a word that must be empty, and at an evicted claim (R297); with REL it starts once
its thread's earlier accesses are performed; and a failure ends it once its words can be poisoned (R146, R163). Log 30. -/
def execCopyComplete (i : Nat) (s : State) : Ans State :=
  match tget none s.copies i with
  | none => off_ "COPY_COMPLETE"
  | some c =>
    if s.copyFrozen c || c.rel && c.prog = 0 && s.owedBefore c.who i then off_ "COPY_COMPLETE"
    else if s.copyStray c then
      .next ({ s with copies := tset none s.copies i none }.violate c.core c.tmpl
        (s.strayReason true false c.tmpl.toNat 64))
    else match s.copyImage c with
      | none => .next (s.draw.copyEnd i c (some (0, 1)))
      | some bs => match Template.ofBytes bs with
        | none => .next (s.draw.copyEnd i c (some (0, 1)))
        | some t =>
          match (if c.prog = 0 then s.copyCheck c t t.words 0 else none) with
          | some (k, d) => .next (s.draw.copyEnd i c (some (k, d)))
          | none =>
            match (s.draw.copyBegin c).copyLine c t ((c.dstAt t c.prog).toNat / 128) 16 c.prog with
            | (s', k, some (.fail d)) =>
              if s'.copyHeld c t (t.words - k) k then
                if k = c.prog then off_ "COPY_COMPLETE"
                else .next { s' with copies := tset none s'.copies i (some { c with image := some bs, prog := k }) }
              else .next ((s'.copyPoison c t (t.words - k) k).copyEnd i c (some (k, d)))
            | (s', _, some (.violation a r)) => .next ({ s' with copies := tset none s'.copies i none }.violate c.core a r)
            | (s', k, _) =>
              let s' := if k = c.prog + 16 && s.copyWhole c t c.prog then s'.copyClear c (c.dstAt t c.prog) else s'
              if k = t.words && !s'.copyAway c then .next (s'.copyEnd i c none)
              else if k = c.prog then off_ "COPY_COMPLETE"
              else .next { s' with copies := tset none s'.copies i (some { c with image := some bs, prog := k }) }

/-! ### Segments (R305 to R307, R422) -/

/-- SEGMENT_FETCH_MISS (R306): the fetch stalls, and the copy of the segment it needs starts where none is under way. -/
def execSegmentFetchMiss (s : State) : Ans State :=
  match s.fetch with
  | .stall g =>
    if s.canIssue && s.core.copying.isNone then .next (s.tableFetched.setCore (s.core.startCopy g))
    else off_ "SEGMENT_FETCH_MISS"
  | _ => off_ "SEGMENT_FETCH_MISS"

/-- The poisoned 8-byte words of an image read from memory: every word of a poisoned line (R285, R307). -/
def State.imagePoison (s : State) (img : DWord) (len : Nat) : Bits :=
  (List.range (len / 128 + 1)).foldl (fun b j =>
    if 128 * j < len then
      match s.agentRead s.ctxOf s.user (img + BitVec.ofNat 64 (128 * j)) (min 128 (len - 128 * j)) true with
      | .inl (_, true) => b.putAll ((List.range 16).map fun w => 16 * j + w) true
      | _ => b
    else b) []

/-- Put a segment into the idle bank; an older copy of it that had failed leaves the active one (R307). -/
def Core.loadSegment (c : Core) (g : Segment) : Core :=
  let banks := match vget none c.banks c.active.toNat with
    | some h => if h.index = g.index then vset c.banks c.active.toNat none else c.banks
    | none => c.banks
  { c with banks := vset banks (!c.active).toNat (some g), copying := none }

/-- What copying a segment's image gives: the segment, marked failed where a line of it is poisoned, or the fault (R305, R307). -/
def State.segImage (s : State) (g : SegCopy) : Segment ⊕ TrapInfo :=
  match s.agentRead s.ctxOf s.user g.img g.len true with
  | .inr (c, d, va) => .inr { cause := c, detail := d, addr := va }
  | .inl (bs, bad) =>
    .inl { index := g.index, start := g.start, len := g.len, img := g.img, bytes := Mem.write [] 0 bs
           poison := if bad then s.imagePoison g.img g.len else [], failed := bad }

/-- SEGMENT_COPY_DONE (R306, R307, R422): the copy under way ends with the image in the idle bank, or marks the segment failed; it serves
the table entry that was read when it started. -/
def execSegmentCopyDone (s : State) : Ans State :=
  match s.core.copying with
  | none => off_ "SEGMENT_COPY_DONE"
  | some g =>
    if !s.canIssue then off_ "SEGMENT_COPY_DONE"
    else match s.segImage g with
      | .inr t => .next (s.setCore { s.core with copying := none, segFails := (g.index, t) :: s.core.segFails })
      | .inl x => .next ((s.agentReach s.ctxOf g.img g.len).draw.setCore (s.core.loadSegment x))

end Sys2Proof.Machine
end

