-- ==== Sys2Proof/Machine/Spill.lean ====
section
/-! DEFINITION. Freezing a core and the spill frame (R299 to R304): what the state-spill engine writes, the continuation it
makes, and what a resume restores. -/

namespace Sys2Proof.Machine

/-- Run an operation of the focus core on another core. -/
def State.onCore (s : State) (n : Nat) (f : State → State) : State := (f (s.focus n)).focus s.cur

/-! ### The bytes of a spill frame (R300, R302) -/

/-- A loop-stack entry in its 48 bytes (R302). -/
def LoopEntry.bytes (e : LoopEntry) : List Byte :=
  natBytes 8 e.start.toNat ++ natBytes 8 e.stop.toNat ++ natBytes 8 e.remaining ++ natBytes 8 e.started ++
    natBytes 4 e.drainN ++ natBytes 12 (1 + bit e.rot 1)

/-- Which held values are full: C, V0, V1, X, N, F (R302). -/
def HeldSet.mask (h : HeldSet) : Nat :=
  bit h.c.isSome 0 + bit h.v0.isSome 1 + bit h.v1.isSome 2 + bit h.x.isSome 3 + bit h.n.isSome 4 + bit h.f.isSome 5

/-- The held scalars and vectors of a set, in the order of section 4. -/
def HeldSet.scalars (h : HeldSet) : List Byte := [h.c, h.x, h.n, h.f].flatMap fun x => natBytes 8 (x.getD 0).toNat
@[inherit_doc HeldSet.scalars] def HeldSet.vectors (h : HeldSet) : List Byte :=
  (h.v0.getD Vec.zero).bytes ++ (h.v1.getD Vec.zero).bytes

/-- One replay-buffer entry (R300). Log 34. -/
def replayEntry (rem cls num lat fpf row : Nat) (data : List Byte) : List Byte :=
  [rem, cls, num, lat].flatMap (natBytes 1) ++ natBytes 4 data.length ++ natBytes 1 fpf ++ natBytes 1 row ++ natBytes 6 0 ++
    data ++ List.replicate ((16 - data.length % 16) % 16) 0

/-- The class, number, row and data of a register word's entry (R300); a merged write carries the whole register. Log 33. -/
def Core.replayOf (c : Core) (fp32 : Bool) : Write → Option (Nat × Nat × Nat × List Byte)
  | .scalar n x => some (0, n, 0, natBytes 8 x.toNat)
  | .pred n b => some (1, n, 0, natBytes 8 (bit b 0))
  | .mask n x en => some (2, n, 0, natBytes 16 ((c.thr.getK n &&& ~~~en) ||| (x &&& en)).toNat)
  | .vec n x en => some (3, n, 0, ((c.thr.getV n).merge x en).bytes)
  | .scale n x => some (4, n, 0, x.bytes)
  | .units _ _ addr bs =>
    let sb := c.thr.ctl.sbase.toNat
    if fp32 then some (5, addr / 8192 * 2 - sb, addr % 8192 / 512, bs) else some (5, addr / 4096 - sb, addr % 4096 / 256, bs)
  | .streamS q x => some (7, q, 0, natBytes 8 x.toNat)
  | .streamV q x => some (7, q, 0, x.bytes)
  | _ => none

/-- Join the two 256-byte halves of the rows of an FP32 tile. -/
def joinRows : List Write → List Write
  | .units u r a x :: .units _ _ _ y :: ws => .units u r a (x ++ y) :: joinRows ws
  | w :: ws => w :: joinRows ws
  | [] => []

/-- Where in an entry's data a poisoned word lies that a result's mark names, and its length. -/
def Write.markAt (w : Write) (m : PMark) : Option (Nat × Nat) :=
  match w, m.reg with
  | .scalar n _, .s k => if n = k then some (0, 8) else none
  | .mask n .., .k k => if n = k then some (0, 16) else none
  | .vec n .., .v k => if n = k then some (4 * m.lane, 4) else none
  | .scale n _, .e k => if n = k then some (2 * m.lane, 2) else none
  | .streamS n _, .stream k => if n = k then some (0, 8) else none
  | .streamV n _, .stream k => if n = k then some (4 * m.lane, 4) else none
  | _, _ => none

/-- The entries of one result, each with the places of its poisoned words (R300): its register words, the last of which names the latch,
or a latch-only entry; a vector beside state rows alone has a latch-only entry of its own. Log 33. -/
def Core.replayParts (c : Core) (rem : Nat) (l : Landing) : List (List Byte × List (Nat × Nat)) :=
  let rows := (l.writes.filter fun w => match w with | .units .. => true | _ => false).length
  let fp32 : Bool := rows = 2 || rows = 32
  let ws := (if fp32 then joinRows l.writes else l.writes).filterMap fun w => (c.replayOf fp32 w).map fun x => (w, x)
  let lat := match l.latch with | some (k, .scalar _) => 192 + k | some (k, .vector _) => 128 + k | none => 0
  let alone : Bool := ws.all fun x => x.2.1 = 5
  let regs := ws.mapIdx fun i x =>
    (replayEntry rem x.2.1 x.2.2.1 (if i + 1 = ws.length && !alone then lat else 0) l.flags.toNat x.2.2.2.1 x.2.2.2.2,
      l.marks.filterMap x.1.markAt)
  let bad (k : Nat) : List (Nat × Nat) :=
    l.marks.filterMap fun m => match m.reg with | .latch j => if j = k then some (4 * m.lane, 4) else none | _ => none
  regs ++ if !alone then [] else match l.latch with
    | some (k, .scalar x) => [(replayEntry rem 6 0 lat l.flags.toNat 0 (natBytes 8 x.toNat), if bad k = [] then [] else [(0, 8)])]
    | some (k, .vector x) => [(replayEntry rem 6 0 lat l.flags.toNat 0 x.bytes, bad k)]
    | none => []

/-- The bytes of the replay buffer (R300), and the places of its poisoned words, from an offset on. -/
def replaySection (at_ : Nat) : List (List Byte × List (Nat × Nat)) → List Byte × List (Nat × Nat)
  | [] => ([], [])
  | x :: xs =>
    let r := replaySection (at_ + x.1.length) xs
    (x.1 ++ r.1, x.2.map (fun o => (at_ + 16 + o.1, o.2)) ++ r.2)

/-- The replay buffer of the focus core's thread, frozen at cycle z (R300). -/
def Core.replay (c : Core) (z : Nat) : List Byte × List (Nat × Nat) :=
  replaySection 0x8000 ((sortBy Landing.due c.thr.flight).flatMap fun l => c.replayParts (l.due - z) l)

/-- The frame offset of a poisoned register word, and its length (R302, section 12). -/
def markOffset (m : PMark) : Option (Nat × Nat) :=
  match m.reg with
  | .s n => some (0x1000 + 8 * n, 8)
  | .k n => some (0x1000 + 272 + 16 * n, 16)
  | .v n => some (0x1200 + 512 * n + 4 * m.lane, 4)
  | .latch n => some (if m.lane < 128 then (0x5200 + 64 + 512 * n + 4 * m.lane, 4) else (0x5200 + 8 * n, 8))
  | .e n => some (0x48000 + 256 * n + 2 * m.lane, 2)
  | .held 3 => some (0x5200 + 4192 + 4 * m.lane, 4)
  | .held 4 => some (0x5200 + 4704 + 4 * m.lane, 4)
  | .held k => some (0x5200 + 4160 + 8 * (if k = 0 then 0 else k - 4), 8)
  | _ => none

/-- The poisoned words of sections 2 to 9, as offsets and lengths, for a core frozen at cycle z. -/
def Core.markOffsets (c : Core) (z : Nat) : List (Nat × Nat) :=
  (c.thr.marks.filter fun m => match m.reg with | .e _ => false | _ => true).filterMap markOffset ++ (c.replay z).2 ++
    c.leaseImage.marked frameSects

/-- What the open chunk command of a queue gives: the first, as a frame records one (R232, R302). -/
def openChunk {α : Type} (q : List NCmd) (f : NCmd → List α) : List α :=
  match q.find? fun x => x.op.isChunk with | some x => f x | none => []

/-- An open chunk command in section 7 (R232, R302). -/
def NCmd.chunkPieces (x : NCmd) (sb : Nat) : List (Nat × List Byte) :=
  match x.op with
  | .schk u fp32 op d | .sfix u fp32 op d =>
    [(0x48000 + 8192, d.raw ++ natBytes 4 op.toNat ++ natBytes 4 (u - sb) ++ natBytes 4 (x.done / stepPieces fp32)),
      (0x48000 + 16384, x.accs.flatMap fun a => match a with
        | some (p, q) => natBytes 4 p.toNat ++ natBytes 4 q.toNat
        | none => natBytes 8 0)]
  | _ => []

/-- The pieces of sections 2 to 9 of a frame, as offset and bytes (R302). Log 32. -/
def State.framePieces (s : State) (z : Nat) : List (Nat × List Byte) :=
  let c := s.core
  let t := c.thr
  [(0x1000, t.s.toList.flatMap fun x => natBytes 8 x.toNat), (0x1100, natBytes 4 t.p.toNat),
    (0x1110, t.k.toList.flatMap fun x => natBytes 16 x.toNat), (0x1200, t.v.toList.flatMap Vec.bytes),
    (0x5200, t.lS.toList.flatMap fun x => natBytes 8 x.toNat), (0x5240, t.lV.toList.flatMap Vec.bytes),
    (0x5200 + 4160, t.held.scalars), (0x5200 + 4192, t.held.vectors), (0x5200 + 5216, t.heldShadow.scalars),
    (0x5200 + 5248, t.heldShadow.vectors), (0x7200 + 384, t.w.toList.flatMap fun x => natBytes 2 x.toNat)] ++
  ((List.range 8).flatMap fun q =>
    let b := vget {} t.q q
    [(0x7200 + 48 * q, natBytes 8 (s.cur % 32 * 2 ^ 22 + b.base) ++ natBytes 4 b.lines ++ natBytes 4 (bit b.vector 0) ++ natBytes 8 b.sub.toNat ++
      natBytes 8 0 ++ natBytes 4 b.pos ++ natBytes 12 (bit b.bound 0 + bit b.out 1))]) ++
  [(0x8000, (c.replay z).1)] ++ c.leaseImage.pieces frameSects c.acc ++
    openChunk c.nq fun x => x.chunkPieces t.ctl.sbase.toNat

/-- The pieces of sections 10 and 11: the claim's bytes and its tags (R297, R302). -/
def claimPieces (size : Nat) (i : ClaimImage) : List (Nat × List Byte) :=
  [(0x1D0000, (List.range size).map fun a => if i.poison.has (a / 8) then 0 else i.bytes.byte a),
    (0x5D0000, (List.range (size / 32)).map fun k => BitVec.ofNat 8
      ((List.range 4).map fun j => bit (i.full.has (4 * k + j)) (2 * j) + bit (i.poison.has (4 * k + j)) (2 * j + 1)).sum)]

/-- The core of a claim image in the header (R302). -/
def ClaimImage.field (i : ClaimImage) : List Byte := natBytes 1 (i.core % 32 + 128)

/-- The header of a frame (R302). -/
def State.frameHeader (s : State) (gap replen : Nat) (sect : Nat) (claim : Option ClaimImage) : List (Nat × List Byte) :=
  let t := s.thr
  ((List.range 27).map fun i => (8 * i, if i = 0x19 then natBytes 8 0 else natBytes 8 (s.mfc i).toNat)) ++
  [(0xE0, natBytes 4 replen), (0xE4, natBytes 1 (gap + bit t.breakSkip 2)), (0xE8, natBytes 8 t.waited),
    (0xF0, natBytes 4 (t.wlimF.getD t.ctl.wlim.toNat)), (0xF4, natBytes 1 t.held.mask ++ natBytes 1 t.heldShadow.mask),
    (0xF8, natBytes 4 sect), (0x100, t.loops.flatMap LoopEntry.bytes), (0x1C0, t.loopShadow.flatMap LoopEntry.bytes)] ++
  s.core.leaseImage.config s.core.segs 0x280 ++ [(0x2F0, match claim with | some i => i.field | none => natBytes 1 0)]

/-- The ranges of the sections that a save writes (R302). -/
def State.frameSections (s : State) (replen : Nat) (marks : List (Nat × Nat)) (claim : Option ClaimImage) (size : Nat) : List (Nat × Nat) :=
  [(0, 4096), (0x1000, 512), (0x1200, 16384), (0x5200, 8192), (0x7200, 512)] ++
    (if replen = 0 then [] else [(0x8000, replen)]) ++ [(0x48000, 32768)] ++
    (if s.core.acc = 0 then [] else [(0x50000, 65536 * s.core.acc)]) ++
    (if s.thr.ctl.slim.toNat ≤ s.thr.ctl.sbase.toNat then []
      else [(0xD0000, unitBytes * (s.thr.ctl.slim.toNat - s.thr.ctl.sbase.toNat))]) ++
    (if claim.isSome then [(0x1D0000, size), (0x5D0000, size / 32)] else []) ++
    (if marks = [] then [] else [(0x5F0000, 29632)])

/-- SECT: the bit of each section that a save writes, with those of the lease extension, which stays as LEASE wrote it, and bit 16 for
marks in section 12 (R302). -/
def sectWord (sects : List (Nat × Nat)) (lease : Option LeaseImage) : Nat :=
  let starts := [0, 0x1000, 0x1200, 0x5200, 0x7200, 0x8000, 0x48000, 0x50000, 0xD0000, 0x1D0000, 0x5D0000, 0x5F0000]
  (starts.mapIdx fun k o => bit (sects.any fun x => x.1 = o) k).sum + bit lease.isSome 12 +
    bit (sects.any fun x => x.1 = 0x5F0000) 16 + bit (lease.any fun i => i.marked leaseSects ≠ []) 17

/-- Write the frame of the thread on the focus core, frozen at cycle z (R302). Log 31, 32. -/
def State.writeFrame (s : State) (l : Launch) (z gap : Nat) (claim : Option ClaimImage) : State × List (Nat × Nat) :=
  let replen := (s.core.replay z).1.length
  let marks := s.core.markOffsets z
  let sects := s.frameSections replen marks claim l.scr
  let all := s.framePieces z ++ s.frameHeader gap replen (sectWord sects s.thr.leaseSave) claim ++
    (match claim with | some i => claimPieces l.scr i | none => []) ++
    [(0x5F0000, markMap 0x1000 29632 marks)]
  let m := zeroMarked marks (all.foldl (fun (m : Mem) p => m.write p.1 p.2) [])
  (sects.foldl (fun s x => s.frameWrite l (s.thr.frame.getD 0) x.1 (m.read x.1 x.2)) s, sects)

/-! ### Suspending (R29, R296 to R304) -/

/-- An open chunk command that stands at a time-step boundary (R232). -/
def NCmd.atStep (x : NCmd) : Bool :=
  match x.op with
  | .schk _ fp32 _ _ | .sfix _ fp32 _ _ => x.done % stepPieces fp32 = 0
  | _ => false

/-- The claim image of a core (R297). Log 37. -/
def State.claimImage (s : State) (n : Nat) : ClaimImage :=
  let c := s.coreAt n
  { core := n, bytes := c.scratch, full := c.full, poison := c.spoison }

/-- The device may save the thread on the focus core (R301): it is frozen at its freeze cycle, every result that lands by then has
landed, and its open commands have completed or stopped. -/
def State.canSave (s : State) : Bool :=
  match s.core.freezeReq with
  | none => false
  | some (z, _) =>
    s.running && !s.core.exiting && z ≤ s.now && s.thr.barv.isNone && !(s.thr.flight.any fun l => l.due ≤ z) && s.thr.ilocks = [] &&
      s.core.xq = [] && s.core.nq.all NCmd.atStep && s.thr.frame.isSome && s.myLaunch.isSome

/-- The words of the rings of a core's bound streams that are read by the thread or served by its subscription: the elements that have
arrived and not been read (R9, R14). Log 107. -/
def Core.rings (c : Core) : List RingWord :=
  (c.thr.q.toList.filter fun b => b.bound && (!b.out || b.sub ≠ 0)).flatMap fun b => (wordsOf b.base (128 * b.lines)).map fun w =>
    ⟨w, c.full.has w, c.scratch.read (8 * w) 8, c.spoison.has w⟩

/-- Put the words of a thread's rings into the ring of another core that it resumes on. Log 107. -/
def Core.putRings (c : Core) (l : List RingWord) : Core :=
  l.foldl (fun c x =>
    let c := { c with full := c.full.put x.word x.full }
    if x.full then let c := c.putScratch (8 * x.word) x.bytes; { c with spoison := c.spoison.put x.word x.bad } else c) c

/-- The continuation of the thread on the focus core (R28, R300, R302). -/
def State.toCont (s : State) (z reason gap : Nat) (claim : Option ClaimImage) (sects : List (Nat × Nat)) : Cont :=
  let c := s.core
  { thr := { s.thr with
      landed := 0
      flight := (sortBy Landing.due s.thr.flight).map fun l => { l with due := l.due - z, replay := true } }
    core := s.cur, reason := reason, gap := gap, units := c.units, upoison := c.upoison, idn := c.idn, pending := c.pending
    aborted := c.aborted, ncmds := c.nq.map fun x => { x with due := none }, claim := claim, sects := sects, rings := c.rings
    viaBranch := c.viaBranch }

/-- The 64 bytes of a continuation record (R28). -/
def Cont.record (k : Cont) (l : Launch) : List Byte :=
  let t := k.thr
  natBytes 8 t.pc.toNat ++ natBytes 4 t.p.toNat ++
    natBytes 4 (t.ctl.flags + 2 ^ 4 * k.reason + 2 ^ 8 * (k.core % 32) + 2 ^ 13 * dieOf k.core) ++ natBytes 4 t.ctl.launch.toNat ++
    natBytes 4 0 ++ natBytes 8 t.step ++ natBytes 4 t.ctl.phc.toNat ++ natBytes 4 t.ctl.phd.toNat ++ natBytes 4 t.ctl.php.toNat ++
    natBytes 4 t.ctl.phj.toNat ++ natBytes 8 (l.frameAt (t.frame.getD 0)).toNat ++ natBytes 8 0

/-! ### Resuming (R29, R296, R298, R303) -/

/-- Load the segment that holds the program counter into the active bank (R303, R306); a fault is kept for the fetch. -/
def State.loadActive (s : State) : State :=
  match s.fetch with
  | .stall g => match s.segImage g with
    | .inr t => s.setCore { s.core with segFails := (g.index, t) :: s.core.segFails }
    | .inl x => (s.tableFetched.agentReach s.ctxOf g.img g.len).draw.setCore { s.core with banks := vset s.core.banks s.core.active.toNat (some x) }
  | _ => s

/-- Whether a line of the written sections of a frame reads back poisoned (R265). -/
def State.framePoisoned (s : State) (l : Launch) (k : Cont) : Bool :=
  s.poison ≠ [] && k.sects.any fun x =>
    (pagePieces (l.frameAt (k.thr.frame.getD 0) + BitVec.ofNat 64 x.1) x.2).any fun p =>
      match s.xlate l.ctx (s.jobCount l.ctx) p.2.1 { rd := true, user := false } with
      | .inl (.phys pa _ _ _) => s.poisonedPA pa p.2.2
      | _ => false

/-- What reading the written sections of a frame does beside giving them (R271, R282). -/
def State.frameReach (s : State) (l : Launch) (k : Cont) : State :=
  k.sects.foldl (fun s x => s.agentReach l.ctx (l.frameAt (k.thr.frame.getD 0) + BitVec.ofNat 64 x.1) x.2) s

/-- A loop-stack entry of a frame; none where it is not valid. -/
def LoopEntry.ofBytes (bs : List Byte) : Option LoopEntry :=
  let f := recField bs
  if (f 36 1).testBit 0 then
    some { start := BitVec.ofNat 64 (f 0 8), stop := BitVec.ofNat 64 (f 8 8), remaining := f 16 8, started := f 24 8, drainN := f 32 4
           rot := (f 36 1).testBit 1 }
  else none

/-- The loop stack of a frame at an offset of its header. -/
def loopsOf (h : List Byte) (o : Nat) : List LoopEntry :=
  (List.range 4).filterMap fun i => LoopEntry.ofBytes ((h.drop (o + 48 * i)).take 48)

/-- Held values as they stand in section 4, scalars and vectors from two offsets, those that a byte of HELD has as full (R302). -/
def heldOf (bs : List Byte) (o v mask : Nat) : HeldSet :=
  let x (i k : Nat) : Option DWord := if mask.testBit k then some (BitVec.ofNat 64 (recField bs (o + 8 * i) 8)) else none
  let w (i k : Nat) : Option Vec := if mask.testBit k then some (Vec.ofFrame ((bs.drop (v + 512 * i)).take 512)) else none
  { c := x 0 0, x := x 1 3, n := x 2 4, f := x 3 5, v0 := w 0 1, v1 := w 1 2 }

/-! #### The replay buffer read back (R300, R303) -/

/-- The register words of an entry of the replay buffer (R300). -/
def replayWrites (sb cls num row : Nat) (data : List Byte) : List Write :=
  let x : DWord := BitVec.ofNat 64 (bytesNat (data.take 8))
  match cls with
  | 0 => [.scalar num x]
  | 1 => [.pred num (x.getLsbD 0)]
  | 2 => [.mask num (BitVec.ofNat 128 (bytesNat (data.take 16))) (BitVec.allOnes 128)]
  | 3 => [.vec num (Vec.ofFrame data) (BitVec.allOnes 128)]
  | 4 => [.scale num (Scale.ofBytes data)]
  | 5 =>
    let put (u r a : Nat) (bs : List Byte) : Write := .units u r a bs
    if data.length ≤ 256 then let a := unitBytes * (sb + num) + 256 * row; [put (a / unitBytes) (a / 256 % 16) a data]
    else
      let a := unitBytes * (sb + num) + 512 * row
      [put (a / unitBytes) (a / 256 % 16) a (data.take 256),
        put ((a + 256) / unitBytes) ((a + 256) / 256 % 16) (a + 256) ((data.drop 256).take 256)]
  | 7 => if data.length ≤ 8 then [.streamS num x] else [.streamV num (Vec.ofFrame data)]
  | _ => []

/-- The entries of a replay buffer as results (R300, R303); on fuel. -/
def replayRead (sb : Nat) : Nat → List Byte → List Landing
  | 0, _ => []
  | n + 1, bs =>
    let f := recField bs
    if bs.length < 16 then []
    else
      let len := f 4 4
      let data := (bs.drop 16).take len
      let lat := f 3 1
      let latch : Option (Nat × LatchVal) :=
        if lat < 128 then none
        else some (lat % 8, if lat.testBit 6 then .scalar (BitVec.ofNat 64 (bytesNat (data.take 8))) else .vector (Vec.ofFrame data))
      { due := f 0 1, writes := replayWrites sb (f 1 1) (f 2 1) (f 9 1) data, latch := latch, flags := BitVec.ofNat 5 (f 8 1)
        replay := true } :: replayRead sb n (bs.drop (16 + (len + 15) / 16 * 16))

/-- Results as the replay buffer of a frame holds them now: as they were saved where its bytes are unchanged, with a marked word there as
zero; else what its entries say, and the results that have none (R303). Log 31, 33. -/
def Core.replayReload (c : Core) (rd : Nat → Nat → Option (List Byte)) : List Landing :=
  let saved := c.replay 0
  let len := match rd 0xE0 4 with | some bs => bytesNat bs | none => saved.1.length
  if len = 0 ∧ saved.1 = [] then c.thr.flight
  else match rd 0x8000 len with
    | none => c.thr.flight
    | some bs =>
      if bs = (zeroMarked saved.2 (Mem.write [] 0x8000 saved.1)).read 0x8000 saved.1.length then c.thr.flight
      else replayRead c.thr.ctl.sbase.toNat (len / 16) bs ++ c.thr.flight.filter fun l => c.replayParts 0 l = []

/-- The control registers as a header holds them: those that an instruction can write (R20, R302). -/
def Ctl.reload (c : Ctl) (h : List Byte) : Ctl :=
  let c := ([6, 7, 9, 0x0A, 0x0B, 0x0C, 0x0D, 0x0E, 0x0F, 0x10, 0x1A].foldl (fun (c : Ctl) i =>
    c.mtc i (BitVec.ofNat 64 (recField h (8 * i) 8))) c)
  { c with mmst := BitVec.ofNat 3 (recField h 0x40 8) }

/-- A stream binding as its 48 bytes in section 5 hold it; its subscription's progress is as it was saved (R302). -/
def Stream.reload (b : Stream) (bs : List Byte) : Stream :=
  let f := recField bs
  { b with
    base := f 0 8 % 2 ^ 22, lines := f 8 4, vector := (f 12 1).testBit 0, sub := BitVec.ofNat 64 (f 16 8), pos := f 32 4
    bound := (f 36 1).testBit 0, out := (f 36 1).testBit 1 }

/-- A thread as the header and sections 2 to 6 of its frame hold it now (R302, R303); what a section does not carry, or its pages
refuse, is as it was saved. Log 31. -/
def Thread.reload (t : Thread) (rd : Nat → Nat → Option (List Byte)) : Thread :=
  let word (bs : List Byte) (o : Nat) : DWord := BitVec.ofNat 64 (recField bs o 8)
  let full (k : Nat) (h : HeldSet) : Nat := match rd 0xF4 2 with | some bs => recField bs k 1 | none => h.mask
  let t := match rd 0 0x300 with
    | none => t
    | some h =>
      { t with
        ctl := t.ctl.reload h, waited := recField h 0xE8 8, wlimF := t.wlimF.map fun _ => recField h 0xF0 4
        breakSkip := (recField h 0xE4 1).testBit 2, loops := loopsOf h 0x100, loopShadow := loopsOf h 0x1C0
        mcfg := (configOf (h.drop 0x280)).1, mwin := (configOf (h.drop 0x280)).2.1, mctr := (configOf (h.drop 0x280)).2.2 }
  let t := match rd 0x1000 512 with
    | none => t
    | some bs =>
      { t with
        s := Vector.ofFn fun n => word bs (8 * n), p := BitVec.ofNat 24 (recField bs 256 4)
        k := Vector.ofFn fun n => BitVec.ofNat 128 (recField bs (272 + 16 * n) 16) }
  let t := match rd 0x1200 16384 with
    | none => t
    | some bs => { t with v := Vector.ofFn fun n => Vec.ofFrame ((bs.drop (512 * n)).take 512) }
  let t := match rd 0x5200 8192 with
    | none => t
    | some bs =>
      { t with
        lS := Vector.ofFn fun n => word bs (8 * n), lV := Vector.ofFn fun n => Vec.ofFrame ((bs.drop (64 + 512 * n)).take 512)
        held := heldOf bs 4160 4192 (full 0 t.held), heldShadow := heldOf bs 5216 5248 (full 1 t.heldShadow) }
  match rd 0x7200 512 with
  | none => t
  | some bs =>
    { t with
      w := Vector.ofFn fun n => BitVec.ofNat 16 (recField bs (384 + 2 * n) 2)
      q := Vector.ofFn fun n => t.q[n].reload ((bs.drop (48 * n)).take 48) }

/-- The claim image as sections 10 and 11 hold it now. Log 31. -/
def ClaimImage.reload (i : ClaimImage) (rd : Nat → Nat → Option (List Byte)) (size : Nat) : ClaimImage :=
  match rd 0x1D0000 size, rd 0x5D0000 (size / 32) with
  | some bs, some tags =>
    let tag (k w : Nat) : Bool := (tags.getD (w / 4) 0).getLsbD (2 * (w % 4) + k)
    { i with bytes := Mem.write [] 0 bs, full := (List.range (size / 8)).filter (tag 0), poison := (List.range (size / 8)).filter (tag 1) }
  | _, _ => i

/-- An open chunk command as section 7 holds it now: as it was saved where the bytes are unchanged, which do not tell a padding accumulator
from zeros (R302, R303). Log 31. -/
def NCmd.reload (x : NCmd) (sb : Nat) (rd : Nat → Nat → Option (List Byte)) : NCmd :=
  let now := (x.chunkPieces sb).map fun p => (rd p.1 p.2.length, p.2)
  if now.all fun p => p.1.isNone || p.1 = some p.2 then x
  else match now with
    | [(some bs, _), (some ac, _)] =>
      let f := recField bs
      let op (fp : Bool) (mk : Nat → Bool → Word → Chunk → NOp) (old : Chunk) : NOp :=
        mk (sb + f 68 4) fp (BitVec.ofNat 32 (f 64 4))
          (match Chunk.ofBytes fp (bs.take 64) with | some d => { d with init := d.init.map (sb + ·) } | none => old)
      let y : NCmd := match x.op with
        | .schk _ fp _ d => { x with op := op fp .schk d, done := f 72 4 * stepPieces fp }
        | .sfix _ fp _ d => { x with op := op fp .sfix d, done := f 72 4 * stepPieces fp }
        | _ => x
      let pair (i : Nat) : Option Pair := some (BitVec.ofNat 32 (recField ac (8 * i) 4), BitVec.ofNat 32 (recField ac (8 * i + 4) 4))
      { y with accs := (List.range (ac.length / 8)).map pair }
    | _ => x

/-- A thread's marks that section 12 of its frame still has. -/
def Thread.reloadMarks (t : Thread) (map : Option (List Byte)) : Thread :=
  { t with marks := t.marks.filter fun m => match markOffset m with | some o => stillMarked map 0x1000 o.1 | none => true }

/-- A continuation as its frame holds it now (R303). Log 31. -/
def Cont.reload (k : Cont) (rd : Nat → Nat → Option (List Byte)) (l : Launch) : Cont :=
  let c : Core := { thr := k.thr, units := k.units, upoison := k.upoison, idn := k.idn, pending := k.pending }
  let sect := match rd 0xF8 4 with | some bs => bytesNat bs | none => 2 ^ 16
  let map := if k.sects.any (fun x => x.1 = 0x5F0000) then if sect.testBit 16 then rd 0x5F0000 29632 else some [] else none
  let i := (c.leaseImage.reload rd frameSects l.acc).reloadMarks frameSects map 0x1000
  let flight := c.replayReload rd
  let c := c.putImage { i with mcfg := k.thr.mcfg, mwin := k.thr.mwin, mctr := k.thr.mctr }
  let t := (c.thr.reload rd).reloadMarks map
  { k with thr := { t with flight := flight }, gap := match rd 0xE4 1 with | some bs => bytesNat bs % 4 | none => k.gap
           units := c.units, upoison := c.upoison, idn := c.idn, pending := c.pending
           ncmds := k.ncmds.map fun x => x.reload k.thr.ctl.sbase.toNat rd
           claim := if k.sects.any (fun x => x.1 = 0x1D0000) then k.claim.map fun i => i.reload rd l.scr else k.claim }

/-- Put a claim image back (R297). Log 37. -/
def Core.restoreClaim (c : Core) (launch size : Nat) (i : ClaimImage) : Core :=
  { c with scratch := i.bytes, full := i.full, spoison := i.poison, claim := size, owner := some launch }

/-- Restore a continuation on the focus core, which is idle (R303): its registers, replay buffer, engine state and claim image, and
then the segment of its program counter. It is resident from the next cycle on. The claim image is put back where the core does not
hold the claim. Its units outside SBASE to SLIM − 1, which the frame does not carry (R421), are as they were saved; its feeders and
drainers do not follow it to another die (R298). A claim that stayed in place keeps what other agents left in it (R297); on another core of
its die the elements that had arrived come with the thread (R9, R14). Log 31, 37, 107. -/
def State.restore (s : State) (launch : Nat) (l : Launch) (k : Cont) : State :=
  let bad := s.framePoisoned l k
  let s := s.frameReach l k
  let k := k.reload (s.frameRead l (k.thr.frame.getD 0)) l
  let moved := dieOf s.cur ≠ dieOf k.core
  let feeds := if moved then (List.range 8).filterMap fun q =>
      let b := vget {} k.thr.q q
      if b.bound && !b.idle then some (⟨k.core, q, b, ⟨launch, k.thr.ctl.tid.toNat⟩, k.thr.step⟩ : LeftFeed) else none
    else []
  let s := s.modLaunch launch fun l => { l with left := l.left ++ feeds }
  let t := { k.thr with
    q := if moved then k.thr.q.map fun b => { b with idle := true } else k.thr.q
    ctl := { k.thr.ctl with core := BitVec.ofNat 5 s.cur, die := BitVec.ofNat 3 (dieOf s.cur) }
    flight := k.thr.flight.map fun r => { r with due := s.now + 1 + r.due }
    quantum := s.now }
  let c : Core := { s.core with
    live := true, frozen := false, exiting := false, thr := t, units := k.units, upoison := k.upoison, idn := k.idn
    pending := k.pending, aborted := k.aborted, nq := k.ncmds, acc := l.acc, placed := s.now
    nextIssue := s.now + 1 + k.gap
    freezeReq := none, waitInfo := none, wfaults := [], stage := none, viaBranch := k.viaBranch }
  let c := match k.claim with
    | some i => if c.owner = some launch then c else c.restoreClaim launch l.scr i
    | none => c
  let c := if s.cur = k.core || k.claim.isSome then c else c.putRings k.rings
  let s := (s.setCore (c.startN s.now)).loadActive
  if bad then s.doubleFault { cause := cPoison } t.pc else s

end Sys2Proof.Machine
end

