-- ==== Sys2Proof/Machine/Sched.lean ====
section
/-! DEFINITION. Scheduling (R25 to R32, R287 to R298): chunks, the choice of work for a core, step start, resume, quanta,
priorities, gang instances, and the loss of a die. -/

namespace Sys2Proof.Machine

/-! ### Ready work (R291, R296, R297) -/

/-- The cores of a die. -/
def dieCores (die : Nat) : List Nat := (List.range 32).map fun i => 32 * die + i

/-- Whether a launch's steps may be dispatched and resumed: it has started, and neither a queue reset nor a job's freeze holds it
(R329, R349, R377). -/
def State.canRun (s : State) (l : Launch) : Bool :=
  !l.unstarted && !l.dead && !l.frozen && (tget {} s.queues l.queue).st ≠ 3

/-- Whether a launch's claim on a core is in the frame of one of its continuations (R297). Log 39. -/
def State.evictedFor (s : State) (launch : Nat) (l : Launch) (core : Nat) : Bool :=
  !(s.coreAt core).hasClaim launch &&
    l.conts.any fun x => match x.2.claim with | some i => i.core = core | none => false

/-- The continuation into whose frame the claim of a core's occupant is evicted: the last thread that was suspended there; with MIGR its
frame holds an image already, which is saved anew. An occupant's claim of which no thread was suspended there stays beside (R297, R298,
R302). Log 38. -/
def State.evictTo (s : State) (core : Nat) : Option (Nat × Nat) :=
  (s.coreAt core).owner.bind fun o => (s.launch? o).bind fun l =>
    (l.conts.reverse.find? fun x => x.2.core = core && (x.2.claim.isNone || l.migr) && x.2.thr.frame.isSome).map fun x => (o, x.1)

/-- The room for further claims once the occupant's claim is evicted, where it can be. -/
def State.roomOn (s : State) (core : Nat) : Nat :=
  (s.coreAt core).room + if (s.evictTo core).isSome then (s.coreAt core).claim else 0

/-- The priority of a launch's queue. -/
def State.prioOf (s : State) (l : Launch) : Nat := (tget {} s.queues l.queue).prio.toNat

/-- The cores that count as free for work: the idle ones; with those whose threads are of a lower priority, which R293 frees; with those of
other queues of the same priority, which the end of a quantum frees (R292). -/
inductive Freeing where
  | idle | lower | same
  deriving DecidableEq, Repr

/-- Whether a core is idle or its thread can be suspended for a launch's work (R292, R293). -/
def State.freeFor (s : State) (l : Launch) (how : Freeing) (core : Nat) : Bool :=
  let c := s.coreAt core
  !c.live || (how ≠ .idle && !c.frozen && !c.exiting &&
    match s.launch? c.thr.launch with
    | some k => s.prioOf l < s.prioOf k || (how = .same && s.prioOf l = s.prioOf k && l.queue ≠ k.queue)
    | none => false)

/-- Whether a free tile core of the launch's dies holds its claim or can be given it (R291, R297). -/
def State.canGive (s : State) (launch : Nat) (l : Launch) (core : Nat) (how : Freeing := .idle) : Bool :=
  let c := s.coreAt core
  core < 256 && s.freeFor l how core && !(s.die (dieOf core)).fenced && l.dies.getLsbD (dieOf core) &&
    (c.hasClaim launch || l.scr ≤ s.roomOn core)

/-- Evict the claim of a core's occupant (R297): its image goes into the frame of the thread that was suspended there, with SECT and
CLAIMC (R302). Log 38. -/
def State.evict (s : State) (core : Nat) : State :=
  match s.evictTo core with
  | none => s
  | some (o, k) =>
    match s.launch? o with
    | none => s
    | some l =>
      let i := s.claimImage core
      let frame := ((l.conts.find? fun x => x.1 = k).bind fun x => x.2.thr.frame).getD 0
      let sect := s.frameSect l frame
      let low := sect % 2 ^ 9 + sect / 2 ^ 11 * 2 ^ 11
      let s := (claimPieces l.scr i ++ [(0xF8, natBytes 4 (low + 2 ^ 9 + 2 ^ 10)), (0x2F0, i.field)]).foldl
        (fun (s : State) (p : Nat × List Byte) => s.frameWrite l frame p.1 p.2) s
      let s := s.modLaunch o fun l =>
        { l with conts := l.conts.map fun x => if x.1 = k then
            (x.1, { x.2 with claim := some i
                             sects := x.2.sects.filter (fun y => y.1 ≠ 0x1D0000 && y.1 ≠ 0x5D0000) ++
                               [(0x1D0000, l.scr), (0x5D0000, l.scr / 32)] }) else x }
      s.modCore core Core.unclaimed

/-- Turn a core to a launch (R297): the occupant's claim is evicted, or stays beside. -/
def State.vacate (s : State) (launch core : Nat) : State :=
  if (s.coreAt core).owner = some launch then s else (s.evict core).modCore core fun c => c.turn launch

/-- Give a launch's claim to a core: zero and empty when the launch first occupies it (R27, R268). -/
def State.giveClaim (s : State) (launch : Nat) (l : Launch) (core : Nat) : State :=
  (s.vacate launch core).modCore core fun c => if c.owner = some launch then c else { c with claim := l.scr, owner := some launch }

/-- Whether a continuation may resume on a core (R29, R296, R298): without a claim image and an open chunk command on a core of its last
die that holds the claim, the last core first; with one on its last core, and with MIGR also on the core of the same number on another
die that holds no claim of the launch. -/
def State.contFits (s : State) (launch : Nat) (l : Launch) (k : Cont) (core : Nat) (how : Freeing := .idle) : Bool :=
  let holds := (s.coreAt core).hasClaim launch
  let home := s.coreAt k.core
  s.canGive launch l core how &&
    (if core = k.core then holds || k.claim.isSome
    else if dieOf core = dieOf k.core then
      holds && k.claim.isNone && k.ncmds = [] && !(!home.live && home.hasClaim launch)
    else l.migr && k.claim.isSome && core % 32 = k.core % 32 && !holds && !s.evictedFor launch l core)

/-- Whether a launch's steps are placed as gang instances (R32, R294). -/
def Launch.ganged (l : Launch) : Bool := l.gang ≠ 0

/-- Whether a die's dispatcher holds a step that has not started (R289). -/
def Launch.newOn (l : Launch) (die : Nat) : Bool := l.disp.any fun d => d.die = die && d.next < d.stop

/-- The chunk that a launch's next gang instance takes: its first step, its width, and how many chunks that are granted again it uses
up, which come first and run on. A chunk is wholly firm or wholly provisional (R287, R290, R294, R313). Log 40. -/
def Launch.nextGang (l : Launch) : Option (Nat × Nat × Nat) :=
  match l.again with
  | g :: gs =>
    let run := gs.foldl (fun (r : Nat × Nat × Bool) x =>
      if r.2.2 && x.first = g.first + r.1 && r.1 + x.count ≤ l.gw && l.isProv x.first = l.isProv g.first then (r.1 + x.count, r.2.1 + 1, true) else (r.1, r.2.1, false))
      (g.count, 1, true)
    some (g.first, run.1, run.2.1)
  | [] =>
    if l.lost || l.next ≥ l.n then none
    else
      let n := min l.gw (l.n - l.next)
      some (l.next, if l.next < l.f then min n (l.f - l.next) else n, 0)

/-- The dies among which a launch's gang instance is formed: one, or all of the launch's (R294). -/
def Launch.gangDies (l : Launch) (die : Nat) : List Nat :=
  (if l.gang ≤ 1 then [die] else List.range 8).filter fun d => l.dies.getLsbD d

/-- The cores on which members of a gang instance are resident. -/
def State.members (s : State) (launch : Nat) (g : Gang) : List Nat :=
  s.busyCores.filter fun n =>
    let c := s.coreAt n
    c.live && c.thr.launch = launch && g.tids.contains c.thr.ctl.tid.toNat

/-- The continuations of a gang instance's members, in the order of their steps. -/
def Launch.swapped (l : Launch) (g : Gang) : List (Nat × Cont) :=
  g.tids.filterMap fun t => l.conts.find? fun x => x.2.thr.ctl.tid.toNat = t

/-- The gang instances of a launch that wait for cores, each with its members' continuations, none for a step that has not started: those that
are suspended as a whole, the one whose continuations are oldest first, and then a new one (R291, R294). -/
def State.waitingGangs (s : State) (launch : Nat) (l : Launch) : List (Nat × List (Option Cont)) :=
  let old := (l.gangs.filter fun g => g.swapped && !g.dead && s.members launch g = []).map fun g => (g.inst, l.swapped g)
  (sortBy (fun g => (g.2.map Prod.fst).foldl min l.contNo) old).map (fun g => (g.1, g.2.map fun x => some x.2)) ++
    match l.nextGang with
    | some x => [(l.gangs.length, List.replicate x.2.1 none)]
    | none => []

/-- Whether a core can take a member of a gang instance (R294, R296, R297). -/
def State.takesMember (s : State) (launch : Nat) (l : Launch) (how : Freeing) (m : Option Cont) (core : Nat) : Bool :=
  match m with
  | some k => s.contFits launch l k core how
  | none => s.canGive launch l core how && !s.evictedFor launch l core

/-- Seat numbered members on distinct cores, in the order given; those that no core is left for have none. -/
def seatsGo (take : Option Cont → Nat → Bool) (cores : List Nat) : List (Nat × Option Cont) → List Nat → List (Nat × Nat)
  | [], _ => []
  | (i, m) :: ms, used => match cores.find? fun n => !used.contains n && take m n with
    | some n => (i, n) :: seatsGo take cores ms (n :: used)
    | none => seatsGo take cores ms used

/-- The cores of some dies on which the members of a gang instance find room, by member; those with the fewest cores to go to choose first.
Log 41. -/
def State.seats (s : State) (launch : Nat) (l : Launch) (how : Freeing) (dies : List Nat) (ms : List (Option Cont)) : List (Nat × Nat) :=
  let cores := dies.flatMap dieCores
  let take := s.takesMember launch l how
  sortBy Prod.fst (seatsGo take cores
    (sortBy (fun x => (cores.filter (take x.2)).length) (ms.mapIdx fun i (m : Option Cont) => (i, m))) [])

/-- The gang instance of a launch that a die places next (R291, R294, R296): the first that has room for all its members among the cores that
count as free. -/
def State.gangNext (s : State) (launch : Nat) (l : Launch) (how : Freeing) (die : Nat) : Option (Nat × List (Option Cont)) :=
  if !s.canRun l || !l.ganged || !(l.gangDies die).contains die then none
  else (s.waitingGangs launch l).find? fun g => g.2 ≠ [] && (s.seats launch l how (l.gangDies die) g.2).length = g.2.length

/-- A launch has a gang instance that is ready on a die: there is room for it among the cores that are idle or that R293 frees (R294, R296). -/
def State.gangReady (s : State) (launch : Nat) (l : Launch) (die : Nat) (how : Freeing := .lower) : Bool := (s.gangNext launch l how die).isSome

/-- The work of a launch for an idle core, in the order of R291: a continuation, a new step, or its place in a gang instance. -/
inductive Work where
  | cont (k : Nat)
  | step
  | gang
  deriving DecidableEq, Repr

/-- The work of a launch for an idle core (R291, R294). -/
def State.workOf (s : State) (launch : Nat) (l : Launch) (core : Nat) : Option Work :=
  if !s.canRun l then none
  else if l.ganged then
    (s.gangNext launch l .lower (dieOf core)).bind fun g => if g.2.any fun m => s.takesMember launch l .idle m core then some .gang else none
  else
    let fit (wait : Bool) := l.conts.find? fun x => (x.2.reason = 2) = wait && s.contFits launch l x.2 core
    match fit false with
    | some x => some (.cont x.1)
    | none =>
      if l.newOn (dieOf core) && s.canGive launch l core && !s.evictedFor launch l core then some .step
      else (fit true).map fun x => .cont x.1

/-- A queue's virtual time, with the cycles of its resident threads (R291). Log 42. -/
def State.vtime (s : State) (q : Nat) : Rat :=
  let d := tget {} s.queues q
  let live := s.busyCores.filter fun n =>
    let c := s.coreAt n
    c.live && match s.launch? c.thr.launch with | some l => l.queue = q | none => false
  live.foldl (fun x n => x + mkRat (s.now - (s.coreAt n).placed) d.weight.toNat) d.vtime

/-- Whether launch a is chosen before launch b: priority, virtual time, queue number, submission (R291). -/
def State.before (s : State) (a b : Nat × Launch) : Bool :=
  let pa := s.prioOf a.2
  let pb := s.prioOf b.2
  if pa ≠ pb then pa < pb
  else if a.2.queue ≠ b.2.queue then
    let va := s.vtime a.2.queue
    let vb := s.vtime b.2.queue
    va < vb || va = vb && a.2.queue < b.2.queue
  else a.1 < b.1

/-- The launches of the package with their numbers. -/
def State.allLaunches (s : State) : List (Nat × Launch) := s.launches.filterMap fun x => x.2.map fun l => (x.1, l)

/-- The work chosen for an idle core (R291). Log 39. -/
def State.workOn (s : State) (core : Nat) : Option (Nat × Work) :=
  let c := s.allLaunches.filterMap fun x => (s.workOf x.1 x.2 core).map fun w => (x, w)
  (c.foldl (fun best x => match best with
    | none => some x
    | some b => if s.before x.1 b.1 then some x else some b) none).map fun x => (x.1.1, x.2)

/-- Whether a launch has ready work on a die (R291). -/
def State.readyOn (s : State) (launch : Nat) (l : Launch) (die : Nat) (how : Freeing := .lower) : Bool :=
  if l.ganged then s.gangReady launch l die how
  else s.canRun l && (l.newOn die || l.conts.any fun x => dieOf x.2.core = die)

/-- Whether any idle core of a die can take work (R293). -/
def State.idleTakes (s : State) (die : Nat) : Bool :=
  (dieCores die).any fun n => !(s.coreAt n).live && match s.workOn n with | some (_, w) => w ≠ .gang | none => false

/-- A queue that becomes ready takes the largest of its own virtual time and the least virtual time among the ready queues of its
level (R291). Log 42. -/
def State.wakeQueue (s : State) (q : Nat) : State :=
  let d := tget {} s.queues q
  let ready := s.allLaunches.filter fun x =>
    s.canRun x.2 && x.2.queue ≠ q && s.prioOf x.2 = d.prio.toNat && (List.range 8).any fun die => s.readyOn x.1 x.2 die
  let least := ready.foldl (fun (m : Option Rat) x =>
    let v := s.vtime x.2.queue
    some (match m with | some y => if y < v then y else v | none => v)) none
  match least with
  | some v => { s with queues := tset {} s.queues q { d with vtime := if d.vtime < v then v else d.vtime } }
  | none => s

/-- Whether a queue has ready work on some die (R291). -/
def State.queueReady (s : State) (q : Nat) : Bool :=
  s.allLaunches.any fun x => x.2.queue = q && (List.range 8).any fun die => s.readyOn x.1 x.2 die

/-- A change after which a queue that had no ready work may have some: it becomes ready then (R291). Log 42. -/
def State.readying (s : State) (q : Nat) (f : State → State) : State :=
  let t := f s
  if !s.queueReady q && t.queueReady q then t.wakeQueue q else t

/-- SPILL_SAVE (R302): the frame is written and the thread becomes a continuation; its core is idle, and the claim stays on it
(R297). A member of a gang instance is suspended with reason 5 (R294); one of an instance that a lost die keeps from being formed again
leaves no continuation (R290). Log 124. -/
def execSpillSave (s : State) : Ans State :=
  match s.core.freezeReq, s.myLaunch with
  | some (z, reason), some l =>
    if !s.canSave then off_ "SPILL_SAVE"
    else
      let gang := l.gangOf s.thr.ctl.tid.toNat
      let reason := if gang.isSome then 5 else reason
      let gap := min (s.core.nextIssue - z) 3
      let claim := if l.migr then some (s.claimImage s.cur) else none
      let (s, sects) := s.charge.writeFrame l z gap claim
      let k := s.toCont z reason gap claim sects
      if l.lost && 2 ≤ l.gang then .next s.endThread
      else .next (s.readying l.queue fun s => (s.modLaunch s.thr.launch fun l =>
        { l with
          conts := l.conts ++ [(l.contNo, k)]
          contNo := l.contNo + 1
          gangs := l.gangs.map fun g => if some g.inst = gang then { g with swapped := true } else g }).setCore s.core.release)
  | _, _ => off_ "SPILL_SAVE"

/-! ### Starting a step (R9, R25, R26, R289, R421) -/

/-- The index of each nest level of a step (R25). -/
def Launch.level (l : Launch) (step k : Nat) : Nat :=
  let n (i : Nat) : Nat := l.bounds.getD i 1
  step / ((List.range k).map n).foldl (· * ·) 1 % n k

/-- The step-start scalar registers (R26). Log 36. -/
def Launch.startRegs (l : Launch) (step : Nat) (prov : Bool) : Vector DWord 32 :=
  let i := l.level step
  let n (k : Nat) : Nat := l.bounds.getD k 1
  let x (k : Nat) : DWord := BitVec.ofNat 64 k
  let v : Vector DWord 32 := Vector.replicate 32 0
  let v := (((v.set 1 (x (i 0))).set 2 (x (i 1))).set 3 (x (i 2))).set 4 (x (i 3 + n 3 * (i 4 + n 4 * i 5)))
  ((v.set 5 l.param).set 6 (x (bit prov 0 + bit l.idem 1 + bit l.migr 2 + bit l.lchk 3))).set 7 l.tmpl

/-- The launch's pattern image, bank 0 first; zero where there is none (R9, R105, R346). -/
def State.patternsOf (s : State) (l : Launch) : Vector (Vector (BitVec 96) 64) 2 :=
  let bs := if l.pati = 0 then [] else match s.agentRead l.ctx false l.pati 1536 with | .inl (bs, _) => bs | .inr _ => []
  Vector.ofFn fun b => Vector.ofFn fun i => BitVec.ofNat 96 (bytesNat ((bs.drop (768 * b + 12 * i)).take 12))

/-- The control registers of a new thread (R20, R30, R31, R421). DMBD names the cores of its die that hold its gang instance; for a launch
that is not ganged, for which R30 leaves it to the placement, all 32 cores of the die. Log 108. -/
def State.startCtl (s : State) (l : Launch) (step core : Nat) (prov : Bool) (dmbd : BitVec 32) : Ctl :=
  let at_ (k : Nat) : Word := l.phaseAt k (l.instAt step core k)
  let die := dieOf core
  { tid := BitVec.ofNat 48 step, core := BitVec.ofNat 5 core, die := BitVec.ofNat 3 die
    pkg := BitVec.ofNat 16 (s.rankIn l.ctx), launch := BitVec.ofNat 32 l.id, lchk := l.lchk, prov := prov, hbase := l.hb
    slim := BitVec.ofNat 9 l.stu, segt := l.segt, dmbc := BitVec.ofNat 5 core, dmbd := dmbd, dmbp := l.dies
    count := BitVec.ofNat 16 (s.jobCount l.ctx), rank := BitVec.ofNat 16 (s.rankIn l.ctx), phc := at_ 0
    phd := at_ 1, php := at_ 2, phj := at_ 3 }

/-- A new thread for a step on an idle core (R289), whose die instance has the cores of `dmbd`. Log 36, 108. -/
def State.startThread (s : State) (launch : Nat) (l : Launch) (step core : Nat) (dmbd : BitVec 32 := BitVec.allOnes 32) : State :=
  let prov := l.isProv step
  let t : Thread :=
    { launch := launch, step := step, s := l.startRegs step prov, pat := s.patternsOf l, ctl := s.startCtl l step core prov dmbd
      home := core, quantum := s.now }
  (((if l.pati = 0 then s.draw else (s.agentReach l.ctx l.pati 1536).draw).giveClaim launch l core).modCore core fun c =>
    { c.release with live := true, thr := t, acc := l.acc, placed := s.now, nextIssue := s.now })

/-- CHUNK_REQUEST (R287 to R289, R313): a dispatcher whose steps have all started asks the walker, which grants a chunk or tells
it that nothing is left. Log 92. -/
def execChunkRequest (launch die : Nat) (s : State) : Ans State :=
  match s.launch? launch with
  | none => off_ "CHUNK_REQUEST"
  | some l =>
    if !s.canRun l || l.ganged || 8 ≤ die || !l.dies.getLsbD die || (s.die die).fenced || l.newOn die || l.stopped.contains die then
      off_ "CHUNK_REQUEST"
    else match s.grant launch die none with
      | (s, some (first, n)) =>
        .next (s.readying l.queue fun s => s.modLaunch launch fun l =>
          { l with disp := l.disp.filter (fun d => d.die ≠ die) ++ [⟨die, first, first + n⟩] })
      | (s, none) => .next (s.modLaunch launch fun l => { l with stopped := l.stopped ++ [die] })

/-- STEP_START (R289, R291): the dispatcher's next step starts on an idle core for which it is the chosen work. -/
def execStepStart (launch core : Nat) (s : State) : Ans State :=
  if 256 ≤ core then off_ "STEP_START"
  else match s.launch? launch with
    | none => off_ "STEP_START"
    | some l =>
      if s.workOn core ≠ some (launch, .step) then off_ "STEP_START"
      else match l.disp.find? fun d => d.die = dieOf core && d.next < d.stop with
        | none => off_ "STEP_START"
        | some d =>
          let s := s.modLaunch launch fun l =>
            { l with disp := l.disp.map fun x => if x.die = d.die then { x with next := x.next + 1 } else x }
          .next (s.startThread launch l d.next core)

/-- RESUME (R296, R303): a ready continuation is restored on an idle core for which it is the chosen work. -/
def execResume (launch cont core : Nat) (s : State) : Ans State :=
  if 256 ≤ core then off_ "RESUME"
  else match s.launch? launch with
    | none => off_ "RESUME"
    | some l =>
      match l.conts.find? fun x => x.1 = cont with
      | none => off_ "RESUME"
      | some (_, k) =>
        if s.workOn core ≠ some (launch, .cont cont) then off_ "RESUME"
        else
          let s := s.vacate launch core
          let s := s.modLaunch launch fun l => { l with conts := l.conts.filter fun x => x.1 ≠ cont }
          .next (s.onCore core fun s => s.restore launch l k)

/-! ### Pre-emption (R292, R293, R299) -/

/-- The thread on the focus core can be pre-empted: it runs, is not ending, no pre-emption is in progress, and it has or can take a
frame (R293, R302). -/
def State.preemptable (s : State) : Bool :=
  s.running && !s.fw && !s.core.exiting && s.core.freezeReq.isNone && s.frameFree

/-- PREEMPT_REQUEST (R299): a request reaches the focus core at q, and the core freezes at Z = q + 3. -/
def execPreemptRequest (reason : Nat) (s : State) : Ans State :=
  if 3 ≤ reason && reason ≤ 5 && s.preemptable then .next (s.freezeAt (s.now + 3) reason) else off_ "PREEMPT_REQUEST"

/-- Whether a core of a die is idle (R292). -/
def State.idleOn (s : State) (die : Nat) : Bool := !(s.die die).fenced && (dieCores die).any fun n => !(s.coreAt n).live

/-- QUANTUM_EXPIRY (R292): the resident cycles reach QUANT; the thread is pre-empted with reason 3 where ready work of the same
priority from another queue waits on the die and no core is idle, else the count restarts. Log 85. -/
def execQuantumExpiry (s : State) : Ans State :=
  match s.myLaunch with
  | none => off_ "QUANTUM_EXPIRY"
  | some l =>
    let q := tget {} s.queues l.queue
    if !s.running || s.fw || s.now < s.thr.quantum + 1000 * q.quant.toNat then off_ "QUANTUM_EXPIRY"
    else
      let die := dieOf s.cur
      let waits := s.allLaunches.any fun x => x.2.queue ≠ l.queue && s.prioOf x.2 = q.prio.toNat && s.readyOn x.1 x.2 die .same
      let s := s.modThr fun t => { t with quantum := s.now }
      .next (if waits && !s.idleOn die && s.preemptable then s.freezeAt (s.now + 3) 3 else s)

/-- The resident thread of a die that work of a priority pre-empts: the lowest priority, the most recently placed (R293). -/
def State.victim (s : State) (die prio : Nat) : Option Nat :=
  let key (n : Nat) : Nat × Nat :=
    let c := s.coreAt n
    (match s.launch? c.thr.launch with | some l => s.prioOf l | none => 0, c.placed)
  let cs := (dieCores die).filter fun n => (s.coreAt n).live && prio < (key n).1 && (s.focus n).preemptable
  cs.foldl (fun best n => match best with
    | none => some n
    | some b => if (key b).1 < (key n).1 || ((key b).1 = (key n).1 && (key b).2 < (key n).2) then some n else some b) none

/-- The highest priority with ready work on a die. -/
def State.readyPrio (s : State) (die : Nat) : Option Nat :=
  (List.range 4).find? fun p => s.allLaunches.any fun x => s.prioOf x.2 = p && s.readyOn x.1 x.2 die

/-- The cores of some dies on which a pre-emption is in progress (R293). Log 85. -/
def State.freezing (s : State) (dies : List Nat) : Nat :=
  ((dies.flatMap dieCores).filter fun n => (s.coreAt n).freezeReq.isSome).length

/-- Ready work of a priority on a die needs a core that is not idle, and for which no pre-emption is in progress: steps that the
dispatcher holds and continuations, or members of a gang instance (R291, R293, R294). Log 85. -/
def State.lacks (s : State) (die prio : Nat) : Bool :=
  let works := s.allLaunches.filter fun x => s.prioOf x.2 = prio && s.readyOn x.1 x.2 die
  let one := ((works.filter fun x => !x.2.ganged).map fun x =>
    ((x.2.disp.filter fun d => d.die = die).map fun d => d.stop - d.next).sum +
      (x.2.conts.filter fun k => dieOf k.2.core = die).length).sum
  (!s.idleTakes die && s.freezing [die] < one) || works.any fun x =>
    let ds := x.2.gangDies die
    match s.gangNext x.1 x.2 .lower die with
    | some g => (s.seats x.1 x.2 .idle ds g.2).length + s.freezing ds < g.2.length
    | none => false

/-- PRIORITY_PREEMPT (R293): ready work that finds no idle core on its die, and for which no pre-emption is in progress, pre-empts a
thread of lower priority with reason 4. Log 85. -/
def execPriorityPreempt (die : Nat) (s : State) : Ans State :=
  if 8 ≤ die then off_ "PRIORITY_PREEMPT"
  else match s.readyPrio die with
    | none => off_ "PRIORITY_PREEMPT"
    | some p =>
      if !s.lacks die p then off_ "PRIORITY_PREEMPT"
      else match s.victim die p with
        | none => off_ "PRIORITY_PREEMPT"
        | some n => .next (s.onCore n fun s => s.freezeAt (s.now + 3) 4)

/-! ### Gang instances (R32, R294) -/

/-- GANG_SWAP (R294): a member is being suspended, so every other member that is resident and not frozen is suspended with reason
5. With a frozen member, which stays in place, the instance is never resumed. -/
def execGangSwap (launch inst : Nat) (s : State) : Ans State :=
  match (s.launch? launch).bind fun l => l.gangs.find? fun g => g.inst = inst with
  | none => off_ "GANG_SWAP"
  | some g =>
    let ms := s.members launch g
    let stay := ms.filter fun n => !(s.coreAt n).frozen && !(s.coreAt n).exiting && (s.coreAt n).freezeReq.isNone
    let began : Bool := g.swapped || ms.any fun n => (s.coreAt n).freezeReq.isSome
    let dead : Bool := ms.any fun n => (s.coreAt n).frozen
    if !began || (stay = [] && (!dead || g.dead)) then off_ "GANG_SWAP"
    else
      let s := stay.foldl (fun s n => s.onCore n fun s => s.freezeAt (s.now + 3) 5) s
      .next (s.modLaunch launch fun l => { l with gangs := l.gangs.map fun x =>
        if x.inst = inst then { x with swapped := true, dead := x.dead || dead } else x })

/-- Whether cores can take the members of a gang instance (R294): distinct idle cores for which it is the chosen work (R291), of one die
for a die-level gang. Log 41. -/
def State.gangCores (s : State) (launch : Nat) (l : Launch) (cores : List Nat) : Bool :=
  cores.eraseDups.length = cores.length && cores.all (fun n => n < 256 && s.workOn n = some (launch, .gang)) &&
    (l.gang ≠ 1 || cores.all fun n => dieOf n = dieOf (cores.headD 0))

/-- The cores of a die among some, as DMBD names them (R30). -/
def coresOn (die : Nat) (cores : List Nat) : BitVec 32 :=
  BitVec.ofNat 32 ((List.range 32).map fun i => if cores.contains (32 * die + i) then 2 ^ i else 0).sum

/-- The walker's grant of a gang instance (R287, R294, R313): consecutive steps, of which each provisional one is a grant of its own. -/
def Launch.grantGang (l : Launch) (die first n used : Nat) : Launch :=
  let steps := (List.range n).map fun i => first + i
  { l with
    next := max l.next (first + n)
    again := l.again.drop used
    grants := l.grants ++ if l.isProv first then steps.map fun i => ⟨die, i, 1, none, 0⟩ else [⟨die, first, n, none, 0⟩]
    prov := if l.isProv first then l.prov ++ steps.map fun i => { step := i, die := die } else l.prov
    gangs := l.gangs ++ [{ inst := l.gangs.length, first := first, tids := steps }] }

/-- The members that GANG_PLACE seats on cores, one for one: those of the instance that is placed next, each on a core that can take it (R291,
R294). -/
def State.gangFits (s : State) (launch : Nat) (l : Launch) (inst : Nat) (cores : List Nat) : Bool :=
  match s.gangNext launch l .lower (dieOf (cores.headD 0)) with
  | some g => g.1 = inst && g.2.length = cores.length && (g.2.zip cores).all fun x => s.takesMember launch l .idle x.1 x.2
  | none => false

/-- GANG_PLACE (R294): a new instance is granted G consecutive steps and all its members are placed together, or a swapped instance
is restored as a whole. Log 41. -/
def execGangPlace (launch inst : Nat) (cores : List Nat) (s : State) : Ans State :=
  match s.launch? launch with
  | none => off_ "GANG_PLACE"
  | some l =>
    if !s.canRun l || !l.ganged || !s.gangCores launch l cores || !s.gangFits launch l inst cores then off_ "GANG_PLACE"
    else match l.gangs.find? fun g => g.inst = inst with
      | some g =>
        let ks := l.swapped g
        if ks.length ≠ cores.length then off_ "GANG_PLACE"
        else
          let s := (ks.zip cores).foldl (fun s x =>
            let s := s.vacate launch x.2
            s.onCore x.2 fun s => s.restore launch l x.1.2) s
          .next (s.modLaunch launch fun l =>
            { l with conts := l.conts.filter fun x => !(ks.any fun k => k.1 = x.1)
                     grants := l.grants.map fun x =>
                       if g.first ≤ x.first && x.first < g.first + g.tids.length then { x with die := dieOf (cores.headD 0) } else x
                     gangs := l.gangs.map fun x => if x.inst = inst then { x with swapped := false } else x })
      | none =>
        match l.nextGang with
        | none => off_ "GANG_PLACE"
        | some (first, n, used) =>
          if inst ≠ l.gangs.length || cores.length ≠ n then off_ "GANG_PLACE"
          else
            let l := l.grantGang (dieOf (cores.headD 0)) first n used
            let s := s.modLaunch launch fun _ => l
            .next ((cores.mapIdx fun i c => (first + i, c)).foldl
              (fun s x => s.startThread launch l x.1 x.2 (coresOn (dieOf x.2) cores)) s)

/-! ### Trimming (R321) -/

/-- Stop the thread on a core, whose step is trimmed: it issues nothing more, its results in flight are dropped, its subscriptions are
cancelled, the results of its open engine commands are discarded, and the core is released once they have completed (R321). -/
def State.stopThread (s : State) (core : Nat) : State :=
  s.onCore core fun s =>
    let s := match s.thr.frame with
      | some i => s.modLaunch s.thr.launch fun l => { l with frames := l.frames.put i false }
      | none => s
    let s := s.setCore { s.core with
      exiting := true, discard := true, frozen := false, freezeReq := none, waitInfo := none, stage := none
      thr := { s.thr with flight := [], ilocks := [], deferred := none, barv := none, fails := [], frame := none, late := []
                          q := Vector.replicate 8 {} } }
    s.tryExit

/-- A thread runs a step of a launch. -/
def Thread.runs (t : Thread) (launch step : Nat) : Bool := t.launch = launch && t.step = step

/-- TRIM_STEP (R321): a provisional step that lies outside the true shape ends; its buffer entries are squashed, its continuation
and frame are discarded, and so are the subscriptions that it has left on another die. A thread that had taken the step by GRAB has done the
step it started with (R288). -/
def State.trimStep (s : State) (launch step : Nat) : State :=
  let s : State := { s with psb := s.psb.filter fun e => !(e.launch = launch && e.step = step) }
  let s := s.modLaunch launch fun l =>
    let gone := l.conts.filter fun x => x.2.thr.step = step
    let l := gone.foldl (fun l x => let tid := x.2.thr.ctl.tid.toNat; if tid = step then l else l.stepDone tid) l
    { l with
      left := l.left.filter fun x => x.step ≠ step
      prov := l.prov.filter fun p => p.step ≠ step
      grants := l.grants.filter fun g => g.first ≠ step
      disp := l.disp.filter fun d => !(d.next = step && d.next < d.stop)
      frames := l.frames.putAll (gone.filterMap fun x => x.2.thr.frame) false
      conts := l.conts.filter fun x => x.2.thr.step ≠ step }
  (s.busyCores.filter fun n => (s.coreAt n).live && (s.coreAt n).thr.runs launch step).foldl State.stopThread s

/-! ### Loss of a die (R290, R326, R336, R402) -/

/-- What the loss of a die does to a launch (R290, R326): its continuations there are gone; its outstanding chunks there, and the steps whose
buffered stores were there (`redo`), are granted again with IDEM, or nothing more is
granted and the launch ends with DIE_LOST; a gang above die level cannot be formed again, so its continuations are discarded. Log 51. -/
def Launch.loseDie (l : Launch) (die : Nat) (redo : List Nat) : Launch :=
  let gone := l.grants.filter (fun g => g.die = die) ++ redo.map fun i => ⟨die, i, 1, none, 0⟩
  let hit : Bool := gone ≠ []
  let steps := gone.flatMap fun g => (List.range g.count).map fun i => g.first + i
  let dropped (x : Nat × Cont) : Bool := dieOf x.2.core = die || 2 ≤ l.gang
  let lostFrames := (l.conts.filter dropped).filterMap fun x => x.2.thr.frame
  let l : Launch := { l with
    grants := l.grants.filter fun g => g.die ≠ die
    prov := l.prov.filter fun p => !steps.contains p.step
    disp := l.disp.filter fun d => d.die ≠ die
    frames := l.frames.putAll lostFrames false
    conts := l.conts.filter fun x => !dropped x
    left := l.left.filter fun x => dieOf x.core ≠ die
    gangs := l.gangs.filter fun g => !steps.contains g.first }
  if 2 ≤ l.gang || (hit && !l.idem) then { l with lost := true, again := [] }
  else
    { l with again := sortBy Grant.first (l.again ++ gone.map fun g => { g with grab := none, exited := 0 }), stopped := [] }

/-- A returning atomic homed on a die that is fenced (R261): its interlock is released without a result, and its thread takes
ATOMIC_LOST with DETAIL 2, slot L and the bundle of the access (R260). -/
def Thread.loseAtomics (t : Thread) (die : Nat) : Thread :=
  let gone (i : Ilock) : Bool := match i.home with | some h => h.die = some die | none => false
  { t with
    ilocks := t.ilocks.filter fun i => !gone i
    late := t.late ++ (t.ilocks.filter gone).map fun i =>
      { launch := t.launch, tid := t.ctl.tid.toNat, pc := (i.home.map Home.pc).getD t.pc, step := t.step
        info := { cause := cLost, detail := 2, addr := (i.home.map Home.va).getD 0, remote := true, wr := true, slot := 2, applied := true } } }

/-- The threads, scratchpad and claims of a core of a lost die. -/
def State.loseCore (s : State) (n : Nat) : State :=
  let t := (s.coreAt n).thr
  let s := match t.frame with
    | some i => s.modLaunch t.launch fun l => { l with frames := l.frames.put i false }
    | none => s
  s.modCore n fun c =>
    if c.live || c.owner.isSome then { c.release.unclaimed with beside := [] } else c

/-- Abort the open rounds of a launch that have a context on a die (R336). -/
def State.abortOn (s : State) (launch die : Nat) (l : Launch) : State :=
  (List.range l.scans.length).foldl (fun s j =>
    match l.scans[j]? with
    | some c => if c.dies.contains die then s.abortRound launch j else s
    | none => s) s

/-- Remove the copies and the collective records that a test names, with their arming (R349). Log 50. -/
def State.dropWork (s : State) (copy : Copy → Bool) (drop : Record → Bool) : State :=
  let gone (k : Nat) : Bool := match tget none s.records k with | some r => drop r | none => false
  let stays (x : Nat × Option Copy) : Bool := match x.2 with | some c => !copy c | none => true
  { s with copies := s.copies.filter stays
           armed := s.armed.filter (fun a => !gone a.record)
           records := s.records.filter (fun x => !gone x.1) }

/-- Whether a copy goes on when a die is lost. -/
def copyStays (die : Nat) (x : Nat × Option Copy) : Bool :=
  match x.2 with | some c => dieOf c.core ≠ die || c.packet.isSome | none => true

/-- The threads of a launch that wait at DSYNC look again whether their phase is complete: those that were lost no longer keep it open
(R120, R290). -/
def State.retryPhases (s : State) (launch : Nat) : State :=
  (s.threadsOf launch).foldl (fun s u => match u.arrived with
    | some k => if k < 4 then s.tryPhase u k else s
    | none => s) s

/-- The steps of a launch that have buffered stores on a die and whose chunk is not outstanding there (R326). -/
def State.lostStores (s : State) (launch die : Nat) (l : Launch) : List Nat :=
  (((s.psb.filter fun e => e.launch = launch && e.die = die).map PsbEntry.step).eraseDups).filter fun i =>
    (l.prov.any fun p => p.step = i) && !l.grants.any fun g => g.die = die && g.first ≤ i && i < g.first + g.count

/-- The loss of a die for a launch of its domain (R290, R326, R336): steps that have lost stores end as trimmed ones do, before they are granted
again, and no step that is to run again keeps stores on another die. -/
def State.loseLaunch (s : State) (launch die : Nat) (l : Launch) (redo : List Nat) : State :=
  let s := redo.foldl (fun s i => s.trimStep launch i) s
  let s := s.modLaunch launch fun l => l.loseDie die redo
  let open_ (i : Nat) : Bool := match s.launch? launch with | some l => l.prov.any fun p => p.step = i | none => false
  let s : State := { s with psb := s.psb.filter fun e => e.launch ≠ launch || open_ e.step }
  (s.abortOn launch die l).retryPhases launch

/-- A die is fenced (R402): it issues nothing further; its threads, its scratchpads, its buffered stores, its walks and the
collective records that it accepted are lost; the
launches whose domain names it act by R290, atomics homed on it are lost (R261), and scan rounds with a context on it are aborted (R336). -/
def State.fence (s : State) (die : Nat) : State :=
  let redo := s.allLaunches.map fun x => (x.1, s.lostStores x.1 die x.2)
  let s := (s.modDie die fun d => { d with fenced := true, walks := [] }).cause 4
  let s := (dieCores die).foldl State.loseCore s
  let s : State :=
    { s with psb := s.psb.filter fun e => e.die ≠ die
             copies := s.copies.filter (copyStays die)
             races := s.races.filter fun x => homeDie (64 * x.1) ≠ die }
  let s := s.dropWork (fun _ => false) fun r => r.packet.isNone && r.die = die
  s.allLaunches.foldl (fun s x =>
    let s := s.modThreads x.1 fun t => t.loseAtomics die
    if x.2.dies.getLsbD die then s.loseLaunch x.1 die x.2 ((redo.filter fun r => r.1 = x.1).flatMap Prod.snd) else s) s

/-- DIE_FENCE (R402): a fatal error fences a die. -/
def execDieFence (die : Nat) (s : State) : Ans State :=
  if 8 ≤ die then off_ "DIE_FENCE"
  else if (s.die die).fenced then off_ "DIE_FENCE" else .next (s.fence die)

end Sys2Proof.Machine
end

