-- ==== Sys2Proof/Machine/Predict.lean ====
section
/-! DEFINITION. Launches on predicted shapes (R308 to R326): acceptance, the arrival of the true shape, trimming, and the commit of
buffered stores. -/

namespace Sys2Proof.Machine

/-! ### Predictor slots (R310 to R312) -/

/-- The largest of the valid entries of a slot. -/
def Predictor.max4 (p : Predictor) : Nat := (([p.h0, p.h1, p.h2, p.h3].take p.nh).map BitVec.toNat).foldl max 0

/-- The prediction (R311): policy, default, increment, firm count and limit. -/
def Predictor.predict (p : Predictor) (pol dflt pad firm nmax : Nat) : Nat :=
  let x := if pol = 0 ∨ p.nh = 0 then dflt
    else if pol = 1 then p.h0.toNat
    else if pol = 2 then p.max4
    else p.h0.toNat + pad
  min (max (max x firm) 1) nmax

/-- Learning a true shape (R312). -/
def Predictor.learn (p : Predictor) (t : Nat) (pred : Option Nat) : Predictor :=
  let missed : Bool := match pred with | some x => x ≠ t | none => false
  { h0 := BitVec.ofNat 32 t, h1 := p.h0, h2 := p.h1, h3 := p.h2, nh := min (p.nh + 1) 4
    miss := if missed && p.miss ≠ 0xFFFF then p.miss + 1 else p.miss }

/-! ### Pools (R314) -/

/-- The number of the pool that a context and a tag name (R314). -/
def State.poolOf (s : State) (ctx tag : Nat) : Option Nat :=
  (s.pools.find? fun x => x.2.v && x.2.ctx.toNat = ctx && x.2.tag.toNat = tag).map Prod.fst

/-- First fit in ascending address: the offset of n free bytes in a pool, given the taken ranges in ascending order (R314). -/
def firstFit (cap n : Nat) : List (Nat × Nat) → Nat → Option Nat
  | [], at_ => if at_ + n ≤ cap then some at_ else none
  | (b, k) :: l, at_ => if at_ + n ≤ b then some at_ else firstFit cap n l (max at_ (b + k))

/-- Reserve a range of a pool: its base, and the pool with the range taken. -/
def Pool.reserve (p : Pool) (n : Nat) : Option (Nat × Pool) :=
  let base := p.base.toNat * 128
  (firstFit (p.lines.toNat * 128) n p.taken 0).map fun o =>
    (base + o, { p with taken := if n = 0 then p.taken else insertBy Prod.fst (o, n) p.taken })

/-- Return the bytes of an allocation from `keep` upward to its pool (R314, R318); a request of SIZE 0 has taken none. -/
def State.returnTail (s : State) (ctx keep : Nat) (a : Alloc) : State :=
  match (if a.size = 0 then none else s.poolOf ctx a.tag) with
  | none => s
  | some i =>
    { s with pools := tmod {} s.pools i fun p =>
        let o := a.base - p.base.toNat * 128
        { p with taken := p.taken.filterMap fun r =>
            if r.1 = o then (if min keep r.2 = 0 then none else some (o, min keep r.2)) else some r } }

/-! ### Settling a shape (R317, R318, R324) -/

/-- A status to report: the lowest non-zero code (R343). -/
def joinCode (a b : Nat) : Nat := if a = 0 then b else if b = 0 then a else min a b

/-- Mark the leaves of a launch's scans that follow the step count absent, and close the rounds that this completes (R324). -/
def State.markAbsent (s : State) (launch n : Nat) (h : Shape) : State :=
  (List.range 16).foldl (fun s j =>
    if h.scans.testBit j && h.spl ≠ 0 then
      (s.modScan launch j fun c => { c with absent := (n + h.spl - 1) / h.spl }).closeRound launch j
    else s) s

/-- SHAPE_SETTLE (R317, R318): the true shape T, or none where the time limit passed. Trims, confirms, sets N, F and NEXT, wakes the
dispatchers, returns the allocation tails, marks absent leaves and learns. -/
def State.settle (s : State) (launch : Nat) (t : Option Nat) : State :=
  match s.launch? launch with
  | none => s
  | some l =>
    match l.shape with
    | none => s
    | some h =>
      let fo := l.f
      let c := match t with | some x => if h.nmax < x then fo else x * h.inner | none => fo
      let code := match t with
        | some x => if h.nmax < x then 7 else if x < h.firm then 8 else 0
        | none => 6
      let n := max c fo
      let trims := (l.prov.filter fun p => n ≤ p.step).map ProvStep.step
      let s := trims.foldl (fun s p => s.trimStep launch p) s
      let s := s.modLaunch launch fun l =>
        { l with
          n := n, f := n, next := min l.next n
          again := l.again.filter fun g => g.first < n
          stopped := if l.n < n then [] else l.stopped
          prov := l.prov.map fun p => { p with st := .committing }
          status := joinCode l.status code
          shape := some { h with settled := true, deadline := none } }
      let s := h.allocs.foldl (fun s a => s.returnTail l.ctx (n * a.size) a) s
      let s := s.markAbsent launch n h
      match t with
      | some x =>
        if h.learn && x ≤ h.nmax then { s with preds := tmod {} s.preds h.slot fun p => p.learn x h.pred } else s
      | none => s

/-- A shape cell's value: T, above NMAX where a bit of [62:32] is set; none while VALID is 0 (R315). -/
def cellShape (nmax : Nat) (x : Nat) : Option Nat :=
  if !x.testBit 63 then none else if bits x 32 31 ≠ 0 then some (nmax + 1) else some (x % 2 ^ 32)

/-- The shape of a launch that is still open: not settled, not frozen and not being reset. -/
def State.openShape (s : State) (launch : Nat) : Option (Launch × Shape) :=
  match s.launch? launch with
  | some l => match l.shape with
    | some h => if h.settled || l.dead || l.frozen then none else some (l, h)
    | none => none
  | none => none

/-- SHAPE_CELL_ARRIVAL (R315): the cell reads VALID, and its T is accepted. -/
def execShapeCellArrival (launch : Nat) (s : State) : Ans State :=
  match s.openShape launch with
  | none => off_ "SHAPE_CELL_ARRIVAL"
  | some (l, h) =>
    if h.cell = 0 then off_ "SHAPE_CELL_ARRIVAL"
    else match s.agentRead l.ctx false h.cell 8 with
      | .inl (bs, _) => match cellShape h.nmax (bytesNat bs) with
        | some t => .next ((s.agentReach l.ctx h.cell 8).draw.settle launch (some t))
        | none => off_ "SHAPE_CELL_ARRIVAL"
      | .inr _ => off_ "SHAPE_CELL_ARRIVAL"

/-- SHAPE_TIMEOUT (R318): no arrival was accepted within TLIM. -/
def execShapeTimeout (launch : Nat) (s : State) : Ans State :=
  match s.openShape launch with
  | some (_, h) => match h.deadline with
    | some d => if d ≤ s.now then .next (s.settle launch none) else off_ "SHAPE_TIMEOUT"
    | none => off_ "SHAPE_TIMEOUT"
  | none => off_ "SHAPE_TIMEOUT"

/-! ### Commit (R320) -/

/-- The thread that runs a step of a launch, as records name it, and the core it is on; where it has exited, a core of the die. -/
def State.stepAgent (s : State) (launch step die : Nat) : ThreadRef × Nat :=
  match s.busyCores.find? fun n => (s.coreAt n).live && (s.coreAt n).thr.runs launch step with
  | some n => (⟨launch, (s.coreAt n).thr.ctl.tid.toNat⟩, n)
  | none => (⟨launch, step⟩, 32 * die)

/-- The launch scope of R252: PKG for a launch within one package, SYS otherwise. -/
def State.launchScope (s : State) (launch : Nat) : BitVec 3 := if s.jobCount (s.launchCtx launch) = 1 then 3 else 4

/-- A committed line is a write performed at the launch scope and a release of every line committed before it (R252). -/
def State.commitLine (s : State) (e : PsbEntry) (pa n : Nat) : State :=
  let (who, core) := s.stepAgent e.launch e.step e.die
  s.release pa n ⟨core, s.launchScope e.launch, some who, none⟩

/-- An access of a committed line to another package, which its launch waits for (R122, R320). -/
def State.commitAway (s : State) (e : PsbEntry) (rank : Nat) (va : DWord) (o : Out) : State :=
  (s.send o).modLaunch e.launch fun l =>
    { l with acks := l.acks ++
        [{ tid := (s.stepAgent e.launch e.step e.die).1.tid, va := some va, no := s.tokens, rank := rank, step := e.step }] }

/-- A buffered line whose home has been fenced since it was stored (R402): it is not written, and its fault is a launch error entry. Log 131. -/
def State.commitLost (s : State) (e : PsbEntry) (pa : Nat) : State :=
  s.appendError e.launch
    { cause := causeXlate, detail := 4, wr := true, late := true, slot := 2, step := e.step, addr := BitVec.ofNat 64 pa
      tid := (s.stepAgent e.launch e.step e.die).1.tid % 2 ^ 32 }

/-- Perform one buffered item of an entry: in memory, at another package, or as a contribution to a reduction window (R154, R319, R320). -/
def State.commitItem (s : State) (e : PsbEntry) : ProvItem → State
  | .bytes pa key bs => if s.lostHome pa then s.commitLost e pa else ((s.writePA key pa bs).endSeq pa bs.length).commitLine e pa bs.length
  | .red pa key op n b =>
    if s.lostHome pa then s.commitLost e pa else
    let old := bytesNat (s.readPA key pa n)
    (s.writePA key pa (natBytes n (atomNew op (8 * n) old b.toNat 0).1)).commitLine e pa n
  | .away r va bs => s.commitAway e r va (.remote r true va bs)
  | .awayRed r va op n b => s.commitAway e r va (.remoteAtom r op n va b 0 none)
  | .tree _ c own => if own then { s with inputs := .reduceArrival c :: s.inputs } else s.sendPart c

/-- The confirmed step that commits next: the lowest (R320). -/
def Launch.commitNext (l : Launch) : Option ProvStep :=
  (l.prov.filter fun p => p.st = .committing).foldl (fun best p => match best with
    | none => some p
    | some b => if p.step < b.step then some p else some b) none

/-- PROVISIONAL_COMMIT (R320): the lowest confirmed step's buffered lines are performed, and its PROV clears. -/
def execProvisionalCommit (launch : Nat) (s : State) : Ans State :=
  match s.launch? launch with
  | none => off_ "PROVISIONAL_COMMIT"
  | some l =>
    match l.commitNext with
    | none => off_ "PROVISIONAL_COMMIT"
    | some p =>
      if l.dead || l.frozen then off_ "PROVISIONAL_COMMIT"
      else
        let s := (s.psbOf launch p.step).foldl (fun s e => e.items.foldl (fun s i => s.commitItem e i) s) s
        let s : State := { s with psb := s.psb.filter fun e => !(e.launch = launch && e.step = p.step) }
        let s := s.modThreads launch fun t =>
          if t.step = p.step then { t with ctl := { t.ctl with prov := false } } else t
        .next (s.modLaunch launch fun l =>
          { l with prov := l.prov.filter fun q => q.step ≠ p.step, commit := p.step + 1 })

/-! ### Acceptance (R308 to R311, R314) -/

/-- What reading a shape descriptor gives: the descriptor's fields, or none where a field breaks the table (R308, R309). -/
structure ShapeDesc where
  cell  : DWord
  dflt  : Nat
  firm  : Nat
  nmax  : Nat
  slot  : Nat
  pol   : Nat
  learn : Bool
  pad   : Nat
  quota : Nat
  tlim  : Nat
  scans : Nat
  spl   : Nat
  reqs  : List (Nat × Nat × Nat)
  deriving DecidableEq, Repr

/-- A shape descriptor from its 64 bytes (R308); each used request gives its tag, OFF and SIZE. Log 43. -/
def ShapeDesc.ofBytes (bs : List Byte) : Option ShapeDesc :=
  let f (o n : Nat) : Nat := bytesNat ((bs.drop o).take n)
  let reqs := [40, 48, 56].map fun o => (f o 1, f (o + 1) 1, f (o + 2) 2, f (o + 4) 4)
  let ok := f 0 8 % 8 = 0 && f 8 4 ≠ 0 && f 16 4 ≠ 0 && f 12 4 ≤ f 16 4 && f 21 1 < 8 && f 34 2 = 0 &&
    (f 32 2 = 0 || (1 ≤ f 36 4 && f 36 4 ≤ 2 ^ 24)) &&
    reqs.all fun r => r.1 ≤ 15 && r.2.1 = 0 && r.2.2.1 % 8 = 0 && r.2.2.2 % 128 = 0
  if ok then
    some { cell := BitVec.ofNat 64 (f 0 8), dflt := f 8 4, firm := f 12 4, nmax := f 16 4, slot := f 20 1, pol := f 21 1 % 4
           learn := (f 21 1).testBit 2, pad := f 22 2, quota := f 24 4, tlim := f 28 4, scans := f 32 2, spl := f 36 4
           reqs := (reqs.filter fun r => r.1 ≠ 0).map fun r => (r.1, r.2.2.1, r.2.2.2) }
  else none

/-- The 8-byte word at an address can be accessed by the front end in a context (R342). Log 46. -/
def State.canReach (s : State) (ctx : Nat) (va : DWord) (n : Nat) (rd wr : Bool) (user : Bool := false) : Bool :=
  (pagePieces va n).all fun p => match s.xlate ctx (s.jobCount ctx) p.2.1 { rd := rd, wr := wr, user := user } with
    | .inl _ => true
    | .inr _ => false

/-- Reserve every request of a predicted launch and write the bases into its parameter block: the state and the allocations, or none
where one fails (R314). -/
def State.reserveAll (s : State) (q ctx steps : Nat) (param : DWord) : List (Nat × Nat × Nat) → Option (State × List Alloc)
  | [] => some (s, [])
  | (tag, off, size) :: rs =>
    match s.poolOf ctx tag with
    | none => none
    | some i =>
      match (tget {} s.pools i).reserve (steps * size) with
      | none => none
      | some (base, p) =>
        let s : State := { s with pools := tset {} s.pools i p }
        let s := (s.agentWrite ctx false (param + BitVec.ofNat 64 off) (natBytes 8 base) { queue := some q }).getD s
        (s.reserveAll q ctx steps param rs).map fun x => (x.1, ⟨tag, base, size⟩ :: x.2)

/-- Accept the shape side of a predicted launch (R309, R311, R313, R314): the state, the shape and the
true shape where the cell already holds one; or the completion code. `inner` is the product of the inner bounds. A descriptor that reads
poisoned counts as one that is not valid. Log 43, 134. -/
def State.acceptShape (s : State) (q ctx : Nat) (addr param : DWord) (inner : Nat) : (State × Shape × Option Nat) ⊕ Nat :=
  match s.agentRead ctx false addr 64 with
  | .inr _ => .inr 4
  | .inl (_, true) => .inr 4
  | .inl (bs, false) =>
    match ShapeDesc.ofBytes bs with
    | none => .inr 4
    | some d =>
      let reqOk := d.reqs.all fun r => (s.poolOf ctx r.1).isSome && r.2.1 + 8 ≤ 4096 &&
        s.canReach ctx (param + BitVec.ofNat 64 r.2.1) 8 false true
      if addr.toNat % 64 ≠ 0 || 2 ^ 40 < d.nmax * inner || !(d.cell = 0 || s.canReach ctx d.cell 8 true false) || !reqOk then .inr 4
      else match s.reserveAll q ctx (d.nmax * inner) param d.reqs with
        | none => .inr 5
        | some (s', allocs) =>
          let now_ := if d.cell = 0 then none
            else match s.agentRead ctx false d.cell 8 with
              | .inl (bs, _) => cellShape d.nmax (bytesNat bs)
              | .inr _ => none
          let p := (tget {} s.preds d.slot).predict d.pol d.dflt d.pad d.firm d.nmax
          .inl (((s'.agentReach ctx addr 64).agentReach ctx d.cell (if d.cell = 0 then 0 else 8)).draw,
            { cell := d.cell, firm := d.firm, nmax := d.nmax, slot := d.slot, learn := d.learn, quota := d.quota
              deadline := if d.tlim = 0 then none else some (s.now + d.tlim * s.host.clk.toNat)
              scans := d.scans, spl := d.spl, pred := if now_.isSome then none else some p, inner := inner, allocs := allocs }, now_)

end Sys2Proof.Machine
end

