-- ==== Sys2Proof/Machine/Queues.lean ====
section
/-! DEFINITION. Queues, packets and launches (R338 to R353, R325 to R329): fetching and validating a packet, starting it, and its
completion. -/

namespace Sys2Proof.Machine

/-! ### Rings (R338, R339) -/

/-- The ring size in granules. -/
def Queue.ring (q : Queue) : Nat := 2 ^ q.lsz.toNat

/-- The address of the granule at an index (R339). -/
def Queue.granule (q : Queue) (i : Nat) : DWord := q.base + BitVec.ofNat 64 (32 * (i % q.ring))

/-- Granules notified and not started. -/
def Queue.avail (q : Queue) : Nat := (q.widx - q.ridx).toNat

/-- A field of a packet. -/
def pktField (bs : List Byte) (o n : Nat) : Nat := bytesNat ((bs.drop o).take n)

/-- LEN without a successor list of each packet type; 0 where it varies or the type is unknown (R342, R345 to R348). -/
def typeLen : Nat → Nat
  | 1 => 6 | 2 => 2 | 3 => 2 | 4 => 2 | 5 => 2 | 6 => 2 | 8 => 2 | _ => 0

/-- A well-formed handle: its bits outside V, index and queue are zero (R344). -/
def handleOk (h : Nat) : Bool := bits h 10 6 = 0 && bits h 48 15 = 0

/-- The start index and queue of a handle (R344). -/
def handleKey (h : Nat) : Nat × Nat := (bits h 16 32, bits h 0 10)

/-- A queue of a number. -/
abbrev State.queue (s : State) (q : Nat) : Queue := tget {} s.queues q

/-- What the granules at a queue's start index hold (R339, R340, R350). -/
inductive Head where
  | idle
  | fault
  | poisoned
  | packet (len : Nat) (bytes : List Byte)
  deriving DecidableEq, Repr

/-- Fetch the packet at the start index (R339, R340): it must be notified as a whole, and written. Of one whose LEN is refused (R342), only
the header is read. Log 47. -/
def State.head (s : State) (q : Queue) : Head :=
  if q.avail = 0 then .idle
  else match s.agentRead q.ctx.toNat false (q.granule q.ridx.toNat) 32 with
    | .inr _ => .fault
    | .inl (_, true) => .poisoned
    | .inl (h, false) =>
      let w0 := pktField h 0 4
      let len := bits w0 8 8
      if w0 % 2 = 0 ∨ q.avail < len then .idle
      else if q.ring < q.ridx.toNat % q.ring + len || 8 < len then .packet len h
      else match s.agentRead q.ctx.toNat false (q.granule q.ridx.toNat) (32 * max len 1) with
        | .inr _ => .fault
        | .inl (_, true) => .poisoned
        | .inl (bs, false) => .packet len bs

/-- The fetchers deliver a packet's granules into the data memory of the queue's firmware core (R351, R376), in a place that the spec leaves
open. Log 129. -/
def State.granulesTo (s : State) (qn : Nat) (bs : List Byte) : State :=
  s.modCore (256 + qn % 4) fun c => c.putScratch (8 * (Config.granuleAt qn % 65504)) (bs.take 256)

/-- What fetching the packet at a queue's start index does beside giving it (R271, R282, R376): the lines of its granules, and their
delivery. -/
def State.headReach (s : State) (qn : Nat) : State :=
  let q := s.queue qn
  match (if q.seen.isSome then .idle else s.head q) with
  | .packet len bs =>
    (s.agentReach q.ctx.toNat (q.granule q.ridx.toNat) (32 * min (max len 1) (q.ring - q.ridx.toNat % q.ring))).granulesTo qn bs
  | _ => s

/-! ### Validation (R342, R345 to R348) -/

/-- Bytes a to b − 1 of a packet are zero. -/
def zeroBytes (bs : List Byte) (a b : Nat) : Bool := ((bs.drop a).take (b - a)).all (· = 0)

/-- The checks of the LAUNCH body (R25, R346). Log 40, 44. -/
def launchBodyOk (bs : List Byte) (pred : Bool) : Bool :=
  let f := pktField bs
  let d := f 90 1
  let nb := (List.range 6).map fun i => f (96 + 4 * i) 4
  let lv := (nb.mapIdx fun i x => (i, x)).filter fun p => !(pred && p.1 + 1 = d)
  let dies := ((List.range 8).filter fun i => (f 127 1).testBit i).length
  1 ≤ d && d ≤ 6 && lv.all (fun p => 1 ≤ p.2 && (p.1 < d || p.2 = 1)) &&
    (lv.map Prod.snd).foldl (· * ·) 1 ≤ 2 ^ 48 && f 88 1 ≤ 16 && (f 88 1 ≠ 0 || f 80 8 = 0) && f 89 1 < 4 && bits (f 91 1) 4 4 = 0 &&
    (f 91 1) % 2 = 0 && 1 ≤ f 92 2 && f 92 2 ≤ 32 * (if f 89 1 ≤ 1 then 1 else dies) && 1 ≤ f 94 2 && f 120 4 % 1024 = 0 &&
    f 120 4 ≤ 2 ^ 22 && f 124 2 ≤ 256 && f 126 1 ≤ 8 && f 127 1 ≠ 0 && (pred || f 128 8 = 0) && f 136 4 % 64 = 0 && 1 ≤ f 140 2 &&
    zeroBytes bs 142 192 && f 32 8 % 128 = 0 && f 40 8 % 8 = 0 && f 48 8 % 64 = 0 && f 64 8 % 32 = 0 && f 72 8 % 4096 = 0

/-- The checks of a packet's body by type, apart from its addresses (R345 to R348). Log 45. -/
def bodyOk (typ q : Nat) (bs : List Byte) (pred : Bool) : Bool :=
  let f := pktField bs
  match typ with
  | 1 => launchBodyOk bs pred
  | 2 => zeroBytes bs 56 64
  | 3 => f 32 1 ≤ 3 && zeroBytes bs 33 40 && f 48 8 % 8 = 0 && zeroBytes bs 56 64
  | 4 => f 32 1 ≤ 2 && zeroBytes bs 33 40 && f 48 8 % 8 = 0 && zeroBytes bs 56 64
  | 5 => f 32 8 % 128 = 0 && zeroBytes bs 40 64
  | 6 => handleOk (f 32 8) && zeroBytes bs 44 64
  | 8 => match f 32 1 with
    | 1 => zeroBytes bs 33 34 && f 34 2 < 1024 && f 34 2 ≠ q && zeroBytes bs 36 64
    | 2 => zeroBytes bs 34 40 && f 40 8 % 16384 = 0 && f 48 8 % 16384 = 0 && zeroBytes bs 56 64
    | 3 => zeroBytes bs 34 36 && zeroBytes bs 37 40 && f 40 8 % 128 = 0 && f 48 8 % 128 = 0 && zeroBytes bs 56 64
    | _ => false
  | _ => true

/-- The template of a COPY packet as read at validation: 64 bytes, invalid ones where a line is poisoned; none where it does not
translate (R161, R347). -/
def State.packetTemplate (s : State) (ctx : Nat) (va : DWord) : Option (List Byte) :=
  match s.agentRead ctx true va 64 with
  | .inr _ => none
  | .inl (_, true) => some (List.replicate 64 0xFF)
  | .inl (bs, false) => some bs

/-- The checks of the addresses in a packet's body (R342, R347). Log 46. -/
def State.bodyReach (s : State) (ctx typ : Nat) (bs : List Byte) : Bool :=
  let at_ (o : Nat) : DWord := BitVec.ofNat 64 (pktField bs o 8)
  let ok (o : Nat) (rd wr : Bool) (user : Bool := false) : Bool := s.canReach ctx (at_ o) 1 rd wr user
  match typ with
  | 1 => ok 32 true false && ok 40 true false && ok 48 true false && (at_ 56 = 0 || ok 56 true false) && ok 64 false true &&
      ok 72 false true
  | 2 => match s.packetTemplate ctx (at_ 32) with
    | none => false
    | some t => pktField t 0 1 % 4 ≠ 1 && pktField t 1 1 % 4 ≠ 1 && (pktField t 0 1 % 4 = 2 || ok 40 true false true) && ok 48 false true true
  | 3 => ok 48 true false
  | 4 => ok 48 true true
  | 5 => ok 32 true false true
  | _ => true

/-- Whether a range of a pool is allocated as a whole (R348). -/
def allocated (taken : List (Nat × Nat)) : Nat → Nat → Bool
  | o, n => (taken.foldl (fun at_ r => if r.1 ≤ at_ && at_ < r.1 + r.2 then r.1 + r.2 else at_) o) ≥ o + n

/-- The pool and the offset that a POOLFREE names, where all of its range is allocated (R348). -/
def State.poolFree (s : State) (bs : List Byte) : Option (Nat × Nat × Nat) :=
  match s.poolOf (pktField bs 33 1) (pktField bs 36 1) with
  | none => none
  | some i =>
    let p := tget {} s.pools i
    let base := pktField bs 40 8
    if base < p.base.toNat * 128 then none
    else
      let o := base - p.base.toNat * 128
      if allocated p.taken o (pktField bs 48 8) then some (i, o, pktField bs 48 8) else none

/-- A packet from its bytes, or none for BAD_PACKET (R341, R342). -/
def State.validate (s : State) (qn : Nat) (q : Queue) (len : Nat) (bs : List Byte) : Option Packet :=
  let f := pktField bs
  let w0 := f 0 4
  let typ := bits w0 1 7
  let held := w0.testBit 16
  let pred := w0.testBit 17
  let cmode := bits w0 18 2
  let succ := w0.testBit 20
  let ctx := q.ctx.toNat
  let lenOk := if typ = 7 then 1 + 2 * succ.toNat ≤ len && len ≤ 8 else typeLen typ ≠ 0 && len = typeLen typ + 2 * succ.toNat && len ≤ 8
  let sig : DWord := BitVec.ofNat 64 (f 8 8)
  let stat : DWord := BitVec.ofNat 64 (f 24 8)
  let hs := if succ then (List.range 8).map fun i => f (32 * len - 64 + 8 * i) 8 else []
  let ok := lenOk && q.ridx.toNat % q.ring + len ≤ q.ring && bits w0 21 11 = 0 && f 5 1 = 0 && cmode ≠ 3 && (typ = 1 || !pred) &&
    (if held then 1 ≤ f 4 1 && f 4 1 ≤ 8 else f 4 1 = 0) && (typ ≠ 8 || q.priv) &&
    (if cmode = 0 then sig = 0 else sig.toNat % 8 = 0 && s.canReach ctx sig 8 true true) &&
    (stat = 0 || (stat.toNat % 8 = 0 && s.canReach ctx stat 8 false true)) && hs.all handleOk && bodyOk typ qn bs pred &&
    s.bodyReach ctx typ bs && (typ ≠ 8 || f 32 1 ≠ 3 || (s.poolFree bs).isSome)
  if ok then
    some { queue := qn, index := q.ridx.toNat, typ := typ, cmode := cmode, ivec := f 6 2, sig := sig, amt := BitVec.ofNat 64 (f 16 8)
           stat := stat, succ := (hs.filter fun h => h.testBit 63).map handleKey, body := bs
           image := if typ = 2 then s.packetTemplate ctx (BitVec.ofNat 64 (f 32 8)) else none }
  else none

/-- The releases that a held packet still lacks: none where it is not held (R344). -/
def State.heldFor (s : State) (p : Packet) : Bool :=
  (pktField p.body 0 4).testBit 16 && tget 0 s.releasesQ (p.queue + 1024 * p.index) < pktField p.body 4 1

/-- Change a queue. -/
def State.modQueue (s : State) (q : Nat) (f : Queue → Queue) : State := { s with queues := tmod {} s.queues q f }

/-- A queue whose packets may start: queues are enabled, it is enabled and running, and no WAITSIG blocks it (R338, R343, R400). -/
def State.serves (s : State) (q : Nat) : Bool :=
  q < 1024 && s.host.qen && (s.queue q).en && (s.queue q).st = 0 && (s.queue q).wait.isNone && !(s.coreAt (256 + q % 4)).frozen

/-- A rejected packet (R342): the status word is written where STAT translates, and the queue stops with RIDX at the packet. -/
def State.reject (s : State) (qn : Nat) (bs : List Byte) : State :=
  let q := s.queue qn
  let stat : DWord := BitVec.ofNat 64 (pktField bs 24 8)
  let s := if stat = 0 ∨ stat.toNat % 8 ≠ 0 then s else (s.agentWrite q.ctx.toNat false stat (natBytes 8 1) { queue := some qn }).getD s
  s.modQueue qn fun q => { q with st := 1 }

/-! ### Signals (R345) -/

/-- An update of a signal by the front end at SYS scope (R343, R345): a release. One in another package is sent there, to be acknowledged
(R282, R349). -/
def State.signal (s : State) (ctx : Nat) (va : DWord) (op : Nat) (b : DWord) (whose : AwayBy) : State :=
  match s.xlate ctx (s.jobCount ctx) va { rd := true, wr := true, user := false } with
  | .inl (.phys pa key _ pool) =>
    let old : DWord := BitVec.ofNat 64 (bytesNat (s.readPA key pa 8))
    let s := if pool = 0 then s else s.pin pa 8
    ((s.writePA key pa (natBytes 8 (signalNew op old b).toNat)).endSeq pa 8).release pa 8 ⟨260, 4, none, none⟩
  | .inl (.away r) =>
    ({ s with away := s.away ++ [⟨ctx, va, r, whose⟩] } : State).send
      (.remoteAtom r (if op = 0 then .xchg else .add) 8 va (if op = 2 then 0 - b else b) 0 none)
  | .inr _ => s

/-- A packet has sent something to another package that is not acknowledged. -/
def State.packetAway (s : State) (pn : Nat) : Bool := s.away.any fun x => x.whose.packet = some pn

/-- Whether a signal's value meets a WAITSIG's condition: EQ, NE, LT, GE, signed (R345). -/
def signalMeets (cond : Nat) (x y : DWord) : Bool :=
  match cond with
  | 0 => x = y | 1 => x ≠ y | 2 => x.slt y | _ => !x.slt y

/-- Whether the signal of a started WAITSIG meets its condition now. -/
def State.waitMet (s : State) (p : Packet) : Bool :=
  match s.agentRead (s.queue p.queue).ctx.toNat false (BitVec.ofNat 64 (pktField p.body 48 8)) 8 with
  | .inl (bs, false) =>
    signalMeets (pktField p.body 32 1) (BitVec.ofNat 64 (bytesNat bs)) (BitVec.ofNat 64 (pktField p.body 40 8))
  | _ => false

/-- What reading the signal of a WAITSIG does beside giving it (R271, R282). -/
def State.waitReach (s : State) (p : Packet) : State :=
  s.agentReach (s.queue p.queue).ctx.toNat (BitVec.ofNat 64 (pktField p.body 48 8)) 8

/-! ### Launches (R346, R327 to R329) -/

/-- A scan record (R327, R328), checked against the launch's dies and the number of packages of its job. -/
def scanRecord (bs : List Byte) (dies : BitVec 8) (count : Nat) : Option Scan :=
  let f := pktField bs
  let opw : Word := BitVec.ofNat 32 (f 0 4)
  let n := f 4 4
  let dsh := f 8 1
  let psh := f 9 1
  let slots := 2 ^ psh
  let ds := (List.range slots).map fun i => bits (f 12 4) (3 * i) 3
  let pk := (n + 2 ^ (dsh + psh) - 1) / 2 ^ (dsh + psh)
  let ok := f 0 4 % 8 < 6 && f 0 4 < 2 ^ 7 && 1 ≤ n && n ≤ 2 ^ 24 && dsh ≤ 24 && psh ≤ 3 && f 10 2 = 0 && f 12 4 < 2 ^ 24 && f 18 2 = 0 &&
    zeroBytes bs 24 64 && ds.eraseDups.length = slots && ds.all (fun d => dies.getLsbD d) && f 16 2 + pk ≤ count &&
    (if pk ≤ 1 then f 20 4 = 0 else f 20 4 ≠ 0)
  if ok then
    some { opw := opw, leaves := n, dsh := dsh, psh := psh, dies := ds, rbase := f 16 2, tag := f 20 4, absent := n }
  else none

/-- The scans of a launch from its scan table, or none for BAD_SCAN (R328). -/
def State.scanTable (s : State) (ctx : Nat) (va : DWord) (dies : BitVec 8) (n : Nat) : Option (List Scan) :=
  if n = 0 then some []
  else if va.toNat % 64 ≠ 0 then none
  else match s.agentRead ctx false va (64 * n) with
    | .inl (bs, false) =>
      (List.range n).foldr (fun j acc =>
        match acc, scanRecord ((bs.drop (64 * j)).take 64) dies (s.jobCount ctx) with
        | some l, some c => some (c :: l)
        | _, _ => none) (some [])
    | _ => none

/-- The scan contexts of a die that started launches hold (R329). -/
def State.contextsUsed (s : State) (die : Nat) : Nat :=
  ((s.allLaunches.filter fun x => !x.2.unstarted).map fun x => (x.2.scans.filter fun c => c.dies.contains die).length).sum

/-- Whether the contexts that a launch needs are free on every die, and no earlier launch waits for contexts (R329). -/
def State.contextsFree (s : State) (n : Nat) (scans : List Scan) : Bool :=
  (List.range 8).all (fun d =>
    let need := (scans.filter fun c => c.dies.contains d).length
    need = 0 || s.contextsUsed d + need ≤ 16) &&
    (scans = [] || !(s.allLaunches.any fun x => x.1 < n && x.2.unstarted))

/-- Give a core a launch's claim, zero and empty, where it has room for it (R27, R267, R268). Log 38. -/
def Core.addClaim (c : Core) (launch size : Nat) : Core :=
  if c.hasClaim launch || c.room < size then c
  else if c.owner.isNone then { c.unclaimed with claim := size, owner := some launch }
  else { c with beside := c.beside ++ [{ launch := launch, size := size }] }

/-- A launch that starts takes its claim on every core of its dies that has room for it (R27, R268, R287). Log 38. -/
def State.claimAll (s : State) (launch : Nat) (l : Launch) : State :=
  ((List.range 8).filter fun d => l.dies.getLsbD d && !(s.die d).fenced).foldl (fun s d =>
    (dieCores d).foldl (fun s n => s.modCore n fun c => c.addClaim launch l.scr) s) s

/-- The launch that a LAUNCH packet describes (R346). The packet's bound of a predicted launch's outermost level is ignored (R308): that
level is as long as the steps make it. -/
def launchOf (p : Packet) (pn : Nat) (q : Queue) (scans : List Scan) (steps firm : Nat) (shape : Option Shape) : Launch :=
  let f := pktField p.body
  let at_ (o : Nat) : DWord := BitVec.ofNat 64 (f o 8)
  { id := p.queue * 2 ^ 22 + p.index % 2 ^ 22, queue := p.queue, ctx := q.ctx.toNat, segt := at_ 32, param := at_ 40, tmpl := at_ 48
    pati := at_ 56, erec := at_ 64, frame := at_ 72, gang := f 89 1, idem := (f 91 1).testBit 1, migr := (f 91 1).testBit 2
    lchk := (f 91 1).testBit 3, gw := f 92 2, minc := f 94 2, scr := f 120 4
    bounds := (List.range 6).map fun i => if shape.isSome && i + 1 = f 90 1 then 2 ^ 64 else f (96 + 4 * i) 4
    stu := f 124 2, acc := f 126 1, dies := BitVec.ofNat 8 (f 127 1), hb := BitVec.ofNat 64 (f 136 4), nfr := f 140 2, packet := pn
    n := steps, f := firm, scans := scans, shape := shape }

/-- The product of the bounds of a LAUNCH packet below a level. -/
def boundProduct (bs : List Byte) (k : Nat) : Nat := ((List.range k).map fun i => pktField bs (96 + 4 * i) 4).foldl (· * ·) 1

/-- Accept a LAUNCH packet (R309, R311, R313, R327 to R329, R346): the launch starts, or waits for scan contexts; or it is refused,
and its packet has its code at once. -/
def State.acceptLaunch (s : State) (pn : Nat) (p : Packet) : State :=
  let q := s.queue p.queue
  let ctx := q.ctx.toNat
  let pred := (pktField p.body 0 4).testBit 17
  let d := pktField p.body 90 1
  let inner := boundProduct p.body (d - 1)
  let scans := s.scanTable ctx (BitVec.ofNat 64 (pktField p.body 80 8)) (BitVec.ofNat 8 (pktField p.body 127 1)) (pktField p.body 88 1)
  let shape : Option ((State × Shape × Option Nat) ⊕ Nat) :=
    if pred then some (s.acceptShape p.queue ctx (BitVec.ofNat 64 (pktField p.body 128 8)) (BitVec.ofNat 64 (pktField p.body 40 8)) inner)
    else none
  let n := s.tokens
  let s := s.agentReach ctx (BitVec.ofNat 64 (pktField p.body 80 8)) (64 * pktField p.body 88 1)
  let go (s : State) (scans : List Scan) (steps firm : Nat) (h : Option Shape) (now_ : Option Nat) : State :=
    let l := launchOf p pn q scans steps firm h
    let l := { l with unstarted := !s.contextsFree n scans }
    let s := s.readying p.queue fun s =>
      let s : State := { s.takeToken with launches := tset none s.launches n (some l) }
      if l.unstarted then s else s.claimAll n l
    match now_ with
    | some t => s.settle n (some t)
    | none => s
  match scans, shape with
  | some c, none => go s.draw c (boundProduct p.body 6) (boundProduct p.body 6) none none
  | some c, some (.inl (s', h, now_)) =>
    go s'.draw c (match h.pred with | some x => x * inner | none => h.firm * inner) (h.firm * inner) (some h) now_
  | none, some (.inr 4) => s.draw.packetCode pn 4
  | none, some (.inr c) => s.draw.packetCode pn (min c 10)
  | none, _ => s.draw.packetCode pn 10
  | some _, some (.inr c) => s.draw.packetCode pn c

/-- LAUNCH_CONTEXT_START (R329): a launch held for scan contexts takes them, in submission order. -/
def execLaunchContextStart (launch : Nat) (s : State) : Ans State :=
  match s.launch? launch with
  | none => off_ "LAUNCH_CONTEXT_START"
  | some l =>
    if l.unstarted && !l.dead && s.contextsFree launch l.scans then
      .next (s.readying l.queue fun s => (s.modLaunch launch fun l => { l with unstarted := false }).claimAll launch l)
    else off_ "LAUNCH_CONTEXT_START"

/-! ### Queue control (R284, R348, R349) -/

/-- Whether a TLB entry's page overlaps a range of a context. -/
def TlbEntry.within (e : TlbEntry) (ctx base len : Nat) : Bool :=
  e.ctx = ctx && e.page * 2 ^ e.shift < base + len && base < (e.page + 1) * 2 ^ e.shift

/-- Whether a walker's cached table entry lies on the path of an address of a range of a context (R283, R284). -/
def TableEntry.within (e : TableEntry) (ctx base len : Nat) : Bool :=
  let size := 2 ^ (14 + 11 * (3 - e.lvl))
  e.ctx = ctx && e.page * size < base + len && base < (e.page + 1) * size

/-- Drop the TLB entries, and the walkers' cached entries, of a range on every core and die, and the faults of walks that read dropped entries (R284). -/
def State.shoot (s : State) (ctx base len : Nat) : State :=
  let s := s.busyCores.foldl (fun s n => s.modCore n fun c =>
    { c with utlb := c.utlb.filter (fun e => !e.within ctx base len)
             found := c.found.filter (fun e => !e.within ctx base len)
             wfaults := c.wfaults.filter fun w => !(w.ctx = ctx && base ≤ w.va.toNat + 16384 && w.va.toNat < base + len) }) s
  (List.range 8).foldl (fun s d => s.modDie d fun x =>
    { x with ltlb := x.ltlb.filter fun e => !e.within ctx base len
             tables := x.tables.filter fun e => !e.within ctx base len }) s

/-- Whether an access of a context translated through a range is still under way (R284): an engine command that holds the translation, a
returning access whose result is due, or one that another package has not acknowledged. -/
def State.shootBusy (s : State) (ctx base len : Nat) : Bool :=
  let meets (va : DWord) (n : Nat) : Bool := va.toNat < base + len && base < va.toNat + n
  (s.away.any fun x => x.ctx = ctx && meets x.va 1) ||
    s.allLaunches.any fun x => x.2.ctx = ctx && ((x.2.acks.any fun a => match a.va with | some va => meets va 1 | none => false) ||
    (s.threadsOf x.1).any (fun t => t.ilocks.any fun i => match i.home with | some h => meets h.va 1 | none => false) ||
    s.busyCores.any fun n =>
      let c := s.coreAt n
      c.live && c.thr.launch = x.1 && c.nq.any fun y => match y.op with
        | .sspl _ _ _ (.inr ps) | .sfil _ _ _ (.inr ps) => ps.any fun p => meets p.va p.len
        | _ => false)

/-- Take a range out of a pool's allocated ranges (R348). -/
def freeRange (o n : Nat) (taken : List (Nat × Nat)) : List (Nat × Nat) :=
  taken.flatMap fun r =>
    ([(r.1, min (r.1 + r.2) o - r.1), (max r.1 (o + n), r.1 + r.2 - max r.1 (o + n))] : List (Nat × Nat)).filter fun x => x.2 ≠ 0

/-- A core without a launch's thread and claim. -/
def Core.vacant (c : Core) (launch : Nat) : Core := c.release.dropClaim launch

/-- The returning atomics and loads of a launch's threads that other packages have not answered, which a reset goes on waiting for once the
threads are gone (R349). -/
def State.asked (s : State) (launch : Nat) : List AwayAck :=
  match s.launch? launch with
  | none => []
  | some l => (s.threadsOf launch).flatMap fun t => t.ilocks.filterMap fun i =>
      i.home.bind fun h => if h.die.isNone then some { ctx := l.ctx, va := h.va, rank := h.rank, whose := { queue := some l.queue } } else none

/-- A launch's cores after a queue reset (R349): threads, frozen ones too, are stopped, and its claims are gone. -/
def State.dropCores (s : State) (launch : Nat) : State :=
  s.busyCores.foldl (fun s n =>
    let c := s.coreAt n
    if c.live && c.thr.launch = launch then (s.onCore n State.charge).modCore n fun c => c.vacant launch
    else if c.hasClaim launch then s.modCore n fun c => c.dropClaim launch
    else s) s

/-- The pool bytes of a launch whose shape is not settled: its provisional steps are trimmed, and theirs return (R323, R326). -/
def State.dropAllocs (s : State) (l : Launch) : State :=
  match l.shape with
  | some h => if h.settled then s else h.allocs.foldl (fun s a => s.returnTail l.ctx (l.f * a.size) a) s
  | none => s

/-- Stop a launch's work for a queue reset (R349): its threads, continuations, buffered stores, copies and collective records end
without a trace, its provisional steps are trimmed (R326), and its cores are free. What it has sent is still to be acknowledged. Log 50. -/
def State.dropLaunch (s : State) (launch : Nat) : State :=
  let s := match s.launch? launch with | some l => s.dropAllocs l | none => s
  let s : State := { s with away := s.away ++ s.asked launch }
  let s := (s.dropCores launch).dropWork (fun c => c.who.isSome && c.launch = launch) (fun r => r.packet.isNone && r.launch = launch)
  let s : State := { s with psb := s.psb.filter (fun e => e.launch ≠ launch), races := s.races.filter (fun x => x.2.launch ≠ launch) }
  s.modLaunch launch fun l => { l with dead := true, conts := [], prov := [], disp := [], again := [], grants := [], gangs := [], left := [] }

/-- Steps 1 and 2 of a RESET of a queue (R349): it is stopped, and the work of its packets and launches ends. Log 48. -/
def State.resetQueue (s : State) (q : Nat) : State :=
  let ls := (s.allLaunches.filter fun x => x.2.queue = q).map Prod.fst
  let s := ls.foldl State.dropLaunch s
  let ofQueue (x : Nat × Option Packet) : Bool := match x.2 with | some p => p.queue = q | none => false
  let mine := (s.packets.filter ofQueue).map Prod.fst
  let hit (p : Option Nat) : Bool := match p with | some k => mine.contains k | none => false
  let s := s.dropWork (fun c => hit c.packet) (fun r => hit r.packet)
  let s : State := { s with packets := s.packets.filter (fun x => !mine.contains x.1) }
  s.modQueue q fun d => { d with st := 3, wait := none, seen := none }

/-- Step 3 of a RESET (R349): something that the queue's work has sent is not acknowledged. -/
def State.resetWaits (s : State) (q : Nat) : Bool :=
  (s.away.any fun x => x.whose.queue = some q) || s.allLaunches.any fun x => x.2.queue = q && x.2.dead && x.2.acks ≠ []

/-- Step 4 of a RESET (R349): the queue starts anew at its write index. A second RESET finds this done. Log 48. -/
def State.resetEnd (s : State) (q : Nat) : State :=
  if (s.queue q).st ≠ 3 then s
  else
    let stays (x : Nat × Option Launch) : Bool := match x.2 with | some l => !(l.queue = q && l.dead) | none => true
    let s : State := { s with launches := s.launches.filter stays }
    let s := s.modQueue q fun d => { d with ridx := d.widx, pend := false, st := 0 }
    let d := s.queue q
    let keeps (x : Nat × Nat) : Bool := x.1 % 1024 ≠ q || (BitVec.ofNat 32 (x.1 / 1024) - d.ridx).toNat < d.ring
    { s with releasesQ := s.releasesQ.filter keeps }

/-! ### Starting packets (R340, R343, R345 to R348) -/

/-- The launch that a handle names: the one whose packet started at that index of that queue, and is not complete. -/
def State.launchNamed (s : State) (h : Nat) : Option Nat :=
  let (i, q) := handleKey h
  if !h.testBit 63 then none
  else (s.allLaunches.find? fun x => x.2.queue = q &&
    match tget none s.packets x.2.packet with | some p => p.index = i | none => false).map Prod.fst

/-- The work of a packet that has started (R345 to R348); `pn` is its number. A SHAPE packet whose handle names no predicted launch in progress
completes with SHAPE_LATE. Log 49, 133. -/
def State.startWork (s : State) (pn : Nat) (p : Packet) : State :=
  let f := pktField p.body
  let at_ (o : Nat) : DWord := BitVec.ofNat 64 (f o 8)
  let ctx := (s.queue p.queue).ctx.toNat
  match p.typ with
  | 1 => s.acceptLaunch pn p
  | 2 =>
    let c : Copy := { who := none, core := 256 + p.queue % 4, ctx := ctx, user := true, ctr := 0, src := at_ 40, dst := at_ 48,
                      tmpl := at_ 32, image := p.image, scope := 0, packet := some pn, no := s.tokens }
    { (s.agentReach ctx (at_ 32) 64).draw.takeToken with copies := tset none s.copies s.tokens (some c) }
  | 3 =>
    let s := s.waitReach p
    if s.waitMet p then s.draw.packetCode pn 0 else s.draw.modQueue p.queue fun q => { q with wait := some pn }
  | 4 =>
    let t := s.signal ctx (at_ 48) (f 32 1) (at_ 40) { queue := some p.queue, packet := some pn }
    if t.packetAway pn then t else t.packetCode pn 0
  | 5 =>
    let r : Record := { launch := 0, ctx := ctx, user := true, packet := some pn, addr := at_ 32, die := 0 }
    { s.takeToken with records := tset none s.records s.tokens (some r) }
  | 6 =>
    match s.launchNamed (f 32 8) with
    | some n => match s.openShape n with
      | some _ => (s.settle n (some (f 40 4))).packetCode pn 0
      | none => s.packetCode pn 9
    | none => s.packetCode pn 9
  | 7 => s
  | _ => match f 32 1 with
    | 1 => s.resetQueue (f 34 2)
    | 2 => s.shoot (f 33 1) (f 40 8) (f 48 8)
    | _ => match s.poolFree p.body with
      | some (i, o, n) =>
        ({ s with pools := tmod {} s.pools i fun x => { x with taken := freeRange o n x.taken } } : State).packetCode pn 0
      | none => s.packetCode pn 0

/-- What a queue's head allows now. -/
inductive Start where
  | nothing
  | fault (poisoned : Bool)
  | bad (bytes : List Byte)
  | held (seen : Option (Packet × Nat))
  | packet (p : Packet) (len : Nat)
  deriving DecidableEq, Repr

/-- Look at the packet at the start index of a queue (R339 to R344, R350); a held packet is read once, when it is first fetched (R340). -/
def State.nextPacket (s : State) (qn : Nat) : Start :=
  if !s.serves qn then .nothing
  else match (s.queue qn).seen with
  | some (p, len) => if s.heldFor p then .held none else .packet p len
  | none => match s.head (s.queue qn) with
    | .idle => .nothing
    | .fault => .fault false
    | .poisoned => .fault true
    | .packet len bs => match s.validate qn (s.queue qn) len bs with
      | none => .bad bs
      | some p => if s.heldFor p then .held (some (p, len)) else .packet p len

/-- Take a packet from its queue (R340, R344): its first word is written zero, the start index moves past it, and its release entry is
freed. -/
def State.takePacket (s : State) (qn : Nat) (p : Packet) (len : Nat) : State :=
  let q := s.queue qn
  let pn := s.tokens
  let s := (s.agentWrite q.ctx.toNat false (q.granule q.ridx.toNat) (natBytes 4 0) { queue := some qn }).getD s
  let s := s.draw.takeToken.modQueue qn fun q => { q with ridx := q.ridx + BitVec.ofNat 32 len, seen := none }
  { s with packets := tset none s.packets pn (some p), releasesQ := tset 0 s.releasesQ (qn + 1024 * p.index) 0 }

/-- Start a packet (R343): it is taken from its queue, and its work begins. -/
def State.startPacket (s : State) (qn : Nat) (p : Packet) (len : Nat) : State := (s.takePacket qn p len).startWork s.tokens p

/-- A granule fault (R350): STATE 2 and a request to the host for the page of the first granule that cannot be read, which waits while the FIFO of 16 is full (R403); a poisoned
granule counts as a failed answer. Log 79. -/
def State.granuleFault (s : State) (qn : Nat) (poisoned : Bool) : State :=
  if poisoned then s.modQueue qn fun q => { q with st := 4 }
  else
    let q := s.queue qn
    let bad (i : Nat) : Bool := match s.agentRead q.ctx.toNat false (q.granule (q.ridx.toNat + i)) 32 with | .inr _ => true | .inl _ => false
    let va := q.granule (q.ridx.toNat + ((List.range 8).find? bad).getD 0)
    let e : DWord × Nat := (va >>> 12 <<< 12, qn)
    let s := s.modQueue qn fun q => { q with st := 2 }
    let s : State :=
      if s.host.pgrq.length < 16 then { s with host := { s.host with pgrq := s.host.pgrq ++ [e] } }
      else { s with host := { s.host with pgWait := s.host.pgWait ++ [e] } }
    s.cause 5

/-- Serve the head of a queue: start a packet, reject it, or meet its fault; none where nothing can be done. -/
def State.serveHead (s : State) (qn : Nat) : Option State :=
  match s.nextPacket qn with
  | .packet p len => some ((s.headReach qn).startPacket qn p len)
  | .bad bs => some ((s.headReach qn).draw.reject qn bs)
  | .fault b => some (s.granuleFault qn b)
  | .held (some x) => some ((s.headReach qn).draw.modQueue qn fun q => { q with seen := some x })
  | _ => none

/-- Serve up to n heads of a queue in order. -/
def State.serveUpTo (qn : Nat) : Nat → State → State
  | 0, s => s
  | n + 1, s => match s.serveHead qn with
    | some t => State.serveUpTo qn n t
    | none => s

/-- QUEUE_VISIT (R351): the visit clears PEND and starts, in order, up to four packets. -/
def execQueueVisit (q : Nat) (s : State) : Ans State :=
  if 1024 ≤ q then off_ "QUEUE_VISIT"
  else if !s.host.qen || (s.coreAt (256 + q % 4)).frozen then off_ "QUEUE_VISIT"
  else .next (State.serveUpTo q 4 (s.modQueue q fun d => { d with pend := false }))

/-- Start the packet at the head of a queue where it has a type and a condition of its body holds. -/
def State.startTyped (s : State) (event : String) (qn typ : Nat) (ok : List Byte → Bool) : Ans State :=
  match s.nextPacket qn with
  | .packet p len => if p.typ = typ && ok p.body then .next ((s.headReach qn).startPacket qn p len) else off_ event
  | _ => off_ event

/-- LAUNCH (R346). -/
def execLaunch (q : Nat) (s : State) : Ans State := s.startTyped "LAUNCH" q 1 fun _ => true
/-- COPY (R347). -/
def execCopy (q : Nat) (s : State) : Ans State := s.startTyped "COPY" q 2 fun _ => true
/-- WAITSIG (R345). -/
def execWaitsig (q : Nat) (s : State) : Ans State := s.startTyped "WAITSIG" q 3 fun _ => true
/-- SETSIG (R345). -/
def execSetsig (q : Nat) (s : State) : Ans State := s.startTyped "SETSIG" q 4 fun _ => true
/-- COLL (R347). -/
def execColl (q : Nat) (s : State) : Ans State := s.startTyped "COLL" q 5 fun _ => true
/-- SHAPE (R316, R347). -/
def execShape (q : Nat) (s : State) : Ans State := s.startTyped "SHAPE" q 6 fun _ => true
/-- MARK (R347). -/
def execMark (q : Nat) (s : State) : Ans State := s.startTyped "MARK" q 7 fun _ => true
/-- QCTL RESET (R349). -/
def execQctlReset (q : Nat) (s : State) : Ans State := s.startTyped "QCTL_RESET" q 8 fun bs => pktField bs 32 1 = 1
/-- QCTL SHOOT (R284, R348). -/
def execQctlShoot (q : Nat) (s : State) : Ans State := s.startTyped "QCTL_SHOOT" q 8 fun bs => pktField bs 32 1 = 2
/-- QCTL POOLFREE (R348). -/
def execQctlPoolfree (q : Nat) (s : State) : Ans State := s.startTyped "QCTL_POOLFREE" q 8 fun bs => pktField bs 32 1 = 3

/-- HELD_PACKET_START (R344): a held packet at a queue's head whose releases have all arrived starts. -/
def execHeldPacketStart (q : Nat) (s : State) : Ans State :=
  match s.nextPacket q with
  | .packet p len =>
    if (pktField p.body 0 4).testBit 16 then .next ((s.headReach q).startPacket q p len) else off_ "HELD_PACKET_START"
  | _ => off_ "HELD_PACKET_START"

/-- FETCH_FAULT (R350): a granule of the packet at the head cannot be read. -/
def execFetchFault (q : Nat) (s : State) : Ans State :=
  match s.nextPacket q with
  | .fault b => .next (s.granuleFault q b)
  | _ => off_ "FETCH_FAULT"

/-- SIGNAL_REPORT (R345): the signal is read again; where it meets the condition, the WAITSIG completes. -/
def execSignalReport (q : Nat) (s : State) : Ans State :=
  match (s.queue q).wait with
  | none => off_ "SIGNAL_REPORT"
  | some pn =>
    match tget none s.packets pn with
    | none => off_ "SIGNAL_REPORT"
    | some p =>
      let s := s.waitReach p
      if p.typ = 3 && s.waitMet p then
        .next ((s.draw.modQueue q fun d => { d with wait := none }).packetCode pn 0)
      else .next s.draw

/-! ### Completion (R122, R325, R343, R344) -/

/-- Whether a launch is complete (R122, R264, R290, R325): its shape is settled, every step has exited, its buffered stores are
performed, and its copies, collectives and reductions have ended. Log 51. -/
def State.launchDone (s : State) (n : Nat) (l : Launch) : Bool :=
  !l.unstarted && !l.dead && !l.frozen && (match l.shape with | some h => h.settled | none => true) && s.threadsOf n = [] &&
    l.disp.all (fun d => d.stop ≤ d.next) && (l.lost || (l.n ≤ l.next && l.again = [] && l.grants = [])) && l.prov = [] && l.acks = [] &&
    !(s.psb.any fun e => e.launch = n) && !(s.copies.any fun x => match x.2 with | some c => c.who.isSome && c.launch = n | none => false) &&
    !(s.records.any fun x => match x.2 with | some r => r.packet.isNone && r.launch = n | none => false)

/-- A launch's completion code (R290, R343): error entries alone give ERROR. -/
def Launch.code (l : Launch) : Nat :=
  let c := joinCode l.status (if l.lost then 3 else 0)
  if c = 0 && l.errs ≠ 0 then 2 else c

/-- The completed launch leaves the package: its claims, its contexts, the carries still held and its race entries go (R245, R329). -/
def State.retireLaunch (s : State) (n : Nat) : State :=
  let s := s.busyCores.foldl (fun s k =>
    if (s.coreAt k).hasClaim n then s.modCore k fun c => c.dropClaim n else s) s
  { s with races := s.races.filter fun x => x.2.launch ≠ n, launches := tset none s.launches n none }

/-- The code of a started packet whose work has ended; none while it goes on (R343, R347, R348). -/
def State.packetDone (s : State) (pn : Nat) (p : Packet) : Option Nat :=
  match p.code with
  | some c => some c
  | none =>
    if p.typ = 1 then
      (s.allLaunches.find? fun x => x.2.packet = pn).bind fun x => if s.launchDone x.1 x.2 then some x.2.code else none
    else if p.typ = 7 then
      if s.packets.any fun x => x.1 < pn && match x.2 with | some p' => p'.queue = p.queue | none => false then none else some 0
    else if p.typ = 8 && pktField p.body 32 1 = 1 then
      if s.resetWaits (pktField p.body 34 2) then none else some 0
    else if p.typ = 8 && pktField p.body 32 1 = 2 then
      if s.shootBusy (pktField p.body 33 1) (pktField p.body 40 8) (pktField p.body 48 8) then none else some 0
    else none

/-- The errors that a packet's status word reports: those of its launch's error record (R264, R343). -/
def State.packetErrs (s : State) (pn : Nat) : Nat :=
  match s.allLaunches.find? fun x => x.2.packet = pn with | some x => x.2.errs | none => 0

/-- Send one release: a handle below its queue's start index is discarded; none where the table of 4,096 is full (R344). Log 93. -/
def State.sendRelease (s : State) (h : Nat × Nat) : Option State :=
  let q := s.queue h.2
  let key := h.2 + 1024 * h.1
  if q.ring ≤ (BitVec.ofNat 32 h.1 - q.ridx).toNat then some s
  else if tget 0 s.releasesQ key = 0 && 4096 ≤ s.releasesQ.length then none
  else some { s with releasesQ := tmod 0 s.releasesQ key (· + 1) }

/-- Send the releases of a completion in order, as far as the table takes them: the state and those left (R344). Log 93. -/
def State.sendReleases (s : State) : List (Nat × Nat) → State × List (Nat × Nat)
  | [] => (s, [])
  | h :: hs => match s.sendRelease h with
    | some t => t.sendReleases hs
    | none => (s, h :: hs)

/-- A completion that can only wait for room in the release table (R344). -/
def State.releaseStuck (s : State) (p : Packet) : Bool :=
  p.code.isSome && p.stat = 0 && p.cmode = 0 && match p.succ with | h :: _ => (s.sendRelease h).isNone | [] => false

/-- PACKET_COMPLETION (R343, R344): the status word, the signal, the interrupt and the releases, in this order; a completion whose
releases find the table full goes on with them later. A completed launch leaves the package. Log 93. -/
def execPacketCompletion (i : Nat) (s : State) : Ans State :=
  match tget none s.packets i with
  | none => off_ "PACKET_COMPLETION"
  | some p =>
    if s.releaseStuck p then off_ "PACKET_COMPLETION"
    else match s.packetDone i p with
    | none => off_ "PACKET_COMPLETION"
    | some code =>
      let s := if p.typ = 8 && pktField p.body 32 1 = 1 then s.resetEnd (pktField p.body 34 2) else s
      let ctx := (s.queue p.queue).ctx.toNat
      let word := code + 2 ^ 32 * s.packetErrs i
      let s := if p.stat = 0 then s else (s.agentWrite ctx false p.stat (natBytes 8 word) { queue := some p.queue }).getD s
      let s := if p.cmode = 0 then s else s.signal ctx p.sig 2 p.amt { queue := some p.queue }
      let s := if p.cmode = 2 then s.interrupt p.ivec else s
      let s := match s.allLaunches.find? fun x => x.2.packet = i with
        | some x => s.retireLaunch x.1
        | none => s
      let (s, left) := s.sendReleases p.succ
      let p' : Packet := { p with stat := 0, cmode := 0, succ := left, code := some code }
      .next { s with packets := tset none s.packets i (if left = [] then none else some p') }

end Sys2Proof.Machine
end

