-- ==== Sys2Proof/Machine/Collectives.lean ====
section
/-! DEFINITION. Collectives and die links (R354 to R367, R369, R415): acceptance of a record, its walker, the canonical reduction
tree at the home of a window, completion, and the pause marks. -/

namespace Sys2Proof.Machine

/-! ### Values of the tree (R355, R358) -/

/-- Comb on two values (R358): SUM wraps on integers and rounds to FP32 in RNE; MIN and MAX are signed on integers and R39's on
floating values. -/
def comb (afmt rop l r : Nat) : Nat :=
  if 3 ≤ afmt then
    let w := 8 * collSize afmt
    if rop = 0 then (l + r) % 2 ^ w
    else if (toSigned w l ≤ toSigned w r) = (rop = 1) then l else r
  else if rop = 0 then (FFmt.fp32.add .rne (FFmt.fp32.decode l) (FFmt.fp32.decode r)).val
  else (FFmt.fp32.minmax (rop = 2) l r).val

/-- The root's one conversion to OFMT (R358). -/
def rootValue (ofmt x : Nat) : Nat :=
  if 3 ≤ ofmt then x % 2 ^ (8 * collSize ofmt) else ((collFloat ofmt).ofNum .rne (FFmt.fp32.decode x)).val

/-- m = ⌈log2 G⌉ (R358). -/
def treeDepth (g : Nat) : Nat := if g ≤ 1 then 0 else (g - 1).log2 + 1

/-! ### The order signature (R365) -/

/-- One bit of the reflected CRC-64 of ECMA-182. -/
def crcBit (c : DWord) : DWord := if c.getLsbD 0 then (c >>> 1) ^^^ 0xC96C5795D7870F42 else c >>> 1

/-- One byte of the CRC. -/
def crcByte (c : DWord) (b : Byte) : DWord :=
  crcBit (crcBit (crcBit (crcBit (crcBit (crcBit (crcBit (crcBit (c ^^^ b.setWidth 64))))))))

/-- The CRC-64 of ECMA-182, reflected, with initial value and final XOR all ones (R365). -/
def crc64 (bs : List Byte) : DWord := bs.foldl crcByte (BitVec.allOnes 64) ^^^ BitVec.allOnes 64

/-- The node ids of the formed nodes, in ascending d and then j (R358, R365): a node is formed when its right child holds a leaf. -/
def formedNodes (g : Nat) : List Nat :=
  (List.range (treeDepth g)).flatMap fun d =>
    ((List.range (2 ^ (treeDepth g - d - 1))).filter fun j => (2 * j + 1) * 2 ^ d < g).map fun j => (d + 1) * 2 ^ 24 + j

/-- OSIG (R365): it depends only on G. -/
def orderSignature (g : Nat) : DWord := crc64 (natBytes 4 g ++ (formedNodes g).flatMap (natBytes 4))

/-! ### Acceptance (R354 to R356, R361, R362) -/

/-- An agent can access n bytes at an address (R281). -/
def State.reach (s : State) (ctx : Nat) (user : Bool) (va : DWord) (n : Nat) (rd wr : Bool) : Bool :=
  (pagePieces va n).all fun p => match s.agentTo ctx p.2.1 p.2.2 { rd := rd, wr := wr, user := user } with
    | .inl _ => true
    | .inr _ => false

/-- A violation of the access windows by a collective of a firmware core freezes that core (R375). Log 109. -/
def State.stray (s : State) (ctx : Nat) (va : DWord) (n : Nat) (rd wr : Bool) : State :=
  if ctx < 256 || s.firmwareOk rd wr va.toNat n then s else s.violate ctx va (s.strayReason rd wr va.toNat n)

/-- The master of a record is frozen, so none of its work goes on (R259, R377). -/
def State.heldBack (s : State) (r : Record) : Bool := s.halted r.launch || (256 ≤ r.ctx && (s.coreAt r.ctx).frozen)

/-- Change a collective record. -/
def State.modRecord (s : State) (i : Nat) (f : Record → Record) : State :=
  { s with records := tmod none s.records i (Option.map f) }

/-- The failure of a CSUB's record as a launch error entry (R264, R356, R364). Log 56. -/
def State.recordError (s : State) (r : Record) (detail : BitVec 8) (wr : Bool) (addr : DWord) : State :=
  match r.who with
  | none => s
  | some w => s.appendError r.launch
      { cause := cCopyError, detail := detail, wr := wr, late := !s.alive w, tid := w.tid % 2 ^ 32, step := r.step, pc := r.pc,
        addr := addr }

/-- A record leaves the device; a COLL packet has its code (R347, R363). -/
def State.endRecord (s : State) (i code : Nat) : State :=
  match tget none s.records i with
  | none => s
  | some r =>
    let s : State := { s with records := tset none s.records i none, armed := s.armed.filter fun a => a.record ≠ i }
    match r.packet with
    | some p => s.packetCode p code
    | none => s

/-- The format set of a record (R355). -/
def formatsOk (op ifmt ofmt afmt rop : Nat) : Bool :=
  if op = 2 then
    rop < 3 && (ifmt < 3 && afmt = 0 && ofmt < 3 || (ifmt = 3 || ifmt = 4) && afmt = ifmt && ofmt = ifmt)
  else ifmt = 0 && ofmt = 0 && afmt = 0 && rop < 3

/-- A level of the loop nest from its 12 bytes (R354). -/
def levelOf (bs : List Byte) (k : Nat) : Level :=
  let f (o n : Nat) : Nat := pktField bs (40 + 12 * k + o) n
  { bound := f 0 2, coef := toSigned 16 (f 2 2), sstr := toSigned 32 (f 4 4), dstr := toSigned 32 (f 8 4) }

/-- The record that 128 bytes describe, without its rank table, and whether its fields keep R354 and R355. -/
def Record.ofBytes (r : Record) (bs : List Byte) : Record × Bool :=
  let f := pktField bs
  let at_ (o : Nat) : DWord := BitVec.ofNat 64 (f o 8)
  let op := f 0 1
  let depth := f 3 1
  let cfl := f 28 4
  let lv := (List.range (min depth 4)).map (levelOf bs)
  let r : Record := { r with
    loaded := true, op := op % 4, ifmt := f 1 1 % 16, ofmt := f 1 1 / 16, afmt := f 2 1 % 16, rop := bits (f 2 1) 4 2
    tlen := f 4 4, src := at_ 8, dst := at_ 16, gsize := f 24 2, pbase := f 26 2, arm := cfl.testBit 0, irq := cfl.testBit 1
    cinc := cfl.testBit 2, cqlsz := bits cfl 8 5, rid := bits cfl 16 16, levels := lv, wbase := at_ 88, wlines := f 96 4
    chdl := f 100 2, cq := at_ 104, armh := f 112 8, thr := f 120 8
    total := (lv.map Level.bound).foldl (· * ·) 1 }
  let n := r.tlen
  let ok := op ≤ 2 && f 2 1 < 64 && formatsOk op r.ifmt r.ofmt r.afmt r.rop && 1 ≤ depth && depth ≤ 4 && 8 ≤ n && n ≤ 65536 &&
    n % 8 = 0 && n % collSize r.ifmt = 0 && n % collSize r.ofmt = 0 && f 8 8 % 8 = 0 && f 16 8 % 8 = 0 && f 32 8 % 8 = 0 &&
    1 ≤ r.gsize && r.pbase < r.gsize && bits cfl 3 5 = 0 && bits cfl 13 3 = 0 && r.cqlsz ≤ 16 && zeroBytes bs (40 + 12 * depth) 88 &&
    lv.all (fun l => 1 ≤ l.bound && l.sstr % 8 = 0 && l.dstr % 8 = 0) &&
    (if op = 2 then f 88 8 % 128 = 0 && 1 ≤ r.wlines && r.wlines ≤ 2 ^ 24 else f 88 8 = 0 && r.wlines = 0) &&
    zeroBytes bs 102 104 && f 104 8 % 32 = 0 && f 112 8 < 2 ^ 11
  (r, ok)

/-- The rank table of a record (R354): the ranks by group index; none where it cannot be read. Log 57. -/
def State.rankTable (s : State) (r : Record) (rtab : DWord) : Option (List Nat) :=
  if rtab = 0 then some (List.range r.gsize)
  else match s.agentRead r.ctx r.user rtab (2 * r.gsize) with
    | .inl (bs, false) => some ((List.range r.gsize).map fun g => pktField bs (2 * g) 2)
    | _ => none

/-- The further conditions of R356 and R361 on a record with its rank table. Log 113. -/
def State.recordOk (s : State) (r : Record) : Bool :=
  let rank := s.rankIn r.ctx
  r.ranks.contains rank && (r.op ≠ 2 || r.ranks.eraseDups.length = r.ranks.length) && r.ranks.all (· < s.jobCount r.ctx) &&
    (!r.arm || (s.trigCounter (BitVec.ofNat 64 r.armh) (trigCtx r.ctx)).isSome) &&
    (!r.cinc || (s.trigCounter (BitVec.ofNat 64 r.chdl) (trigCtx r.ctx)).isSome)

/-- Arm a record (R362, R415): it starts at once where VAL ≥ THR. -/
def State.armRecord (s : State) (i : Nat) (r : Record) : State :=
  if !r.arm then s.startRecord i
  else if r.thr ≤ (tget {} s.triggers r.armh).val.toNat then s.startRecord i
  else { s with armed := s.armed ++ [⟨r.armh, i, r.thr⟩] }

/-- Whether a die can take one more armed record (R362). -/
def State.armRoom (s : State) (die : Nat) : Bool := (s.armed.filter fun a => a.counter / 256 = die).length < 1024

/-- COLL_ACCEPT (R356): the accepting die reads and validates record i, and arms it or starts it. Log 56, 57. -/
def execCollAccept (i : Nat) (s : State) : Ans State :=
  match tget none s.records i with
  | none => off_ "COLL_ACCEPT"
  | some r =>
    if r.loaded || s.heldBack r || (s.die r.die).fenced then off_ "COLL_ACCEPT"
    else match s.agentRead r.ctx r.user r.addr 128 with
      | .inl (bs, false) =>
        let (r, ok) := r.ofBytes bs
        let rtab : DWord := BitVec.ofNat 64 (pktField bs 32 8)
        let ranks := s.rankTable r rtab
        let s := (s.agentReach r.ctx r.addr 128).agentReach r.ctx rtab (if rtab = 0 then 0 else 2 * r.gsize)
        let r : Record := { r with ranks := ranks.getD [], g0 := ((ranks.getD []).findIdx? (· = s.rankIn r.ctx)).getD 0 }
        if !s.reach r.ctx r.user r.cq 1 false true then
          .next (((s.draw.stray r.ctx r.cq 1 false true).recordError r 1 true r.cq).endRecord i 2)
        else
          let good := ok && ranks.isSome && s.recordOk r
          let s := if ranks.isSome then s.draw else s.draw.stray r.ctx rtab (2 * r.gsize) true false
          if !good then .next (s.modRecord i fun _ => { r with status := 1, started := true, total := 0 })
          else if r.arm && !s.armRoom (r.armh / 256) then off_ "COLL_ACCEPT"
          else .next ((s.modRecord i fun _ => r).armRecord i r)
      | _ => .next (((s.draw.stray r.ctx r.addr 128 true false).recordError r 2 false r.addr).endRecord i 2)

/-! ### Reductions at the home (R358, R359) -/

/-- Two values belong to one window element of one collective (R359). -/
def sameElement (a b : Contribution) : Bool := a.job = b.job && a.rid = b.rid && a.home = b.home && a.addr = b.addr

/-- The leaves below G that a node spans (R358). -/
def nodeLeaves (c : Contribution) : List Nat :=
  (List.range (2 ^ c.level)).filterMap fun k => if c.index * 2 ^ c.level + k < c.group then some (c.index * 2 ^ c.level + k) else none

/-- Two nodes share a leaf. Log 54. -/
def nodesMeet (a b : Contribution) : Bool :=
  a.index * 2 ^ a.level < (b.index + 1) * 2 ^ b.level && b.index * 2 ^ b.level < (a.index + 1) * 2 ^ a.level

/-- The failures of a record's transfers: STATUS is the lowest non-zero code among them (R364). -/
def Record.fail (r : Record) (code : Nat) : Record :=
  { r with status := if r.status = 0 then code else min r.status code }

/-- A window element is settled: its root is written or never will be (R363); a root that could not be written counts against the
contributing records. Log 94. -/
def State.settleRoot (s : State) (c : Contribution) (code : Nat) : State :=
  let f (r : Record) : Record :=
    if r.roots.contains c.addr && r.rid = c.rid && s.jobKey r.ctx = c.job then
      let r : Record := { r with roots := r.roots.filter (· ≠ c.addr) }
      if code = 0 then r else r.fail code
    else r
  { s with records := s.records.map fun x => (x.1, x.2.map f) }

/-- The context in which a window of this package is written: the job's remote context, or that of a context without a job
(R282). Log 55. -/
def State.windowCtx (s : State) (job : Nat) : Nat :=
  match tget none s.trust.jobs job with
  | some j => j.ctxs.foldl min 255
  | none => job - 8

/-- A value moves up the tree of its element (R358): past an empty sibling, into its parent with a waiting sibling, to the root, which
is written, or into the pairing buffer. -/
def State.climb (s : State) : Nat → Contribution → State
  | 0, _ => s
  | n + 1, c =>
    if c.level = treeDepth c.group then
      let x := rootValue c.ofmt c.value.toNat
      match s.agentWrite (s.windowCtx c.job) true c.addr (natBytes (collSize c.ofmt) x) with
      | some t => t.settleRoot c 0
      | none => s.settleRoot c 2
    else
      let sib := if c.index % 2 = 0 then c.index + 1 else c.index - 1
      let up (v : DWord) : Contribution := { c with level := c.level + 1, index := c.index / 2, value := v }
      if c.group ≤ sib * 2 ^ c.level then s.climb n (up c.value)
      else
        let isSib (p : Partial) : Bool := sameElement p.val c && p.val.level = c.level && p.val.index = sib && !p.dead
        match s.partials.find? isSib with
        | none => { s with partials := s.partials ++ [⟨c, false⟩] }
        | some p =>
          let (l, r) := if c.index < sib then (c.value, p.val.value) else (p.val.value, c.value)
          let s : State := { s with partials := s.partials.filter fun q => !isSib q }
          s.climb n (up (BitVec.ofNat 64 (comb c.afmt c.rop l.toNat r.toNat)))

/-- The values held for an element. -/
def State.held (s : State) (c : Contribution) : List Partial := s.partials.filter fun p => sameElement p.val c

/-- An element whose root can no longer be written (R357): it is forgotten once every leaf has arrived. -/
def State.deadElement (s : State) (c : Contribution) : State :=
  let marks := ((⟨c, true⟩ : Partial) :: s.held c).map fun (p : Partial) => { p with dead := true }
  let seen := (marks.flatMap fun p => nodeLeaves p.val).eraseDups
  let rest := s.partials.filter fun p => !sameElement p.val c
  ({ s with partials := if seen.length < c.group then rest ++ marks else rest } : State).settleRoot c 0

/-- A contribution or partial arrives at its element's home (R357 to R359): false where it repeats a node and is dropped. Log 54. -/
def State.arrive (s : State) (c : Contribution) : State × Bool :=
  let held := s.held c
  let again := held.any fun p => nodesMeet p.val c
  if c.failed then (s.deadElement c, true)
  else if again then (s, false)
  else if held.any Partial.dead then (s.deadElement c, true)
  else (s.climb (treeDepth c.group + 1) c, true)

/-- Whether a value has a node of its tree. -/
def nodeOk (c : Contribution) : Bool :=
  1 ≤ c.group && c.group ≤ 65535 && c.level ≤ treeDepth c.group && c.index * 2 ^ c.level < c.group &&
    formatsOk 2 c.ifmt c.ofmt c.afmt c.rop

/-- The rank of this package under the key of a contribution. -/
def State.rankOfJob (s : State) (job : Nat) : Nat := match tget none s.trust.jobs job with | some j => j.rank | none => 0

/-- REDUCE_ARRIVAL (R154, R359): a value of another package, or of a reduction of this one, arrives at the receive-reduce unit of this
home. Log 69, 100. -/
def execReduceArrival (c : Contribution) (s : State) : Ans State :=
  if nodeOk c && c.home = s.rankOfJob c.job && ((tget none s.trust.jobs c.job).isSome || 8 ≤ c.job) then .next (s.arrive c).1
  else off_ "REDUCE_ARRIVAL"

/-- The ranks at the leaves below a node, as far as a record of this package names them (R354, R358). -/
def State.leafRanks (s : State) (c : Contribution) : List Nat :=
  match s.records.findSome? fun x => x.2.bind fun r => if r.op = 2 && r.rid = c.rid && s.jobKey r.ctx = c.job then some r else none with
  | some r => (nodeLeaves c).map fun g => r.ranks.getD g 0
  | none => []

/-- An attested switch that holds the job's reduction key can form a node (R360): for a home in this package, one on the attested paths of all
the ranks below it, none of which is the home; for another, one on the attested path to it. -/
def State.switchFor (s : State) (c : Contribution) : Bool :=
  match tget none s.trust.jobs c.job with
  | none => false
  | some j =>
    let att (k : Nat) : Bool := (tget {} s.routes k).att
    j.switches.any fun x =>
      if c.home = j.rank then (s.leafRanks c).all fun k => k ≠ j.rank && att k && (j.path k).contains x.sw
      else att c.home && (j.path c.home).contains x.sw

/-- SWITCH_REDUCE (R360): an attested switch of the job forms the parent of two siblings and forwards it towards the home. Log 69. -/
def execSwitchReduce (l r : Contribution) (s : State) : Ans State :=
  if s.switchFor { l with level := l.level + 1, index := l.index / 2 } && nodeOk l && nodeOk r && sameElement l r && l.level = r.level && l.index % 2 = 0 && r.index = l.index + 1 && !l.failed &&
      !r.failed && l.group = r.group && l.afmt = r.afmt && l.rop = r.rop then
    let c : Contribution := { l with level := l.level + 1, index := l.index / 2
                                     value := BitVec.ofNat 64 (comb l.afmt l.rop l.value.toNat r.value.toNat) }
    if l.home = s.rankOfJob l.job then .next (s.arrive c).1 else .next (s.send (.contribution c none))
  else off_ "SWITCH_REDUCE"

/-! ### The walker (R357) -/

/-- The loop indices of iteration n, level 0 fastest. -/
def loopIndex : List Level → Nat → List Nat
  | [], _ => []
  | l :: ls, n => n % l.bound :: loopIndex ls (n / l.bound)

/-- The group index, source and destination of an iteration (R357). -/
def Record.transfer (r : Record) (n : Nat) : Nat × DWord × DWord :=
  let ix := r.levels.zip (loopIndex r.levels n)
  let sum (f : Level → Int) : Int := (ix.map fun x => x.2 * f x.1).sum
  let g := (sum Level.coef + r.pbase) % (r.gsize : Int)
  (g.toNat, r.src + BitVec.ofInt 64 (sum Level.sstr), r.dst + BitVec.ofInt 64 (sum Level.dstr))

/-- Whether a local destination cannot be written, as a failure code: it faults, or a line of it is poisoned (R357). Log 52. -/
def State.badTarget (s : State) (r : Record) (va : DWord) (n : Nat) : Option Nat :=
  (pagePieces va n).findSome? fun p =>
    match s.agentTo r.ctx p.2.1 p.2.2 { wr := true, user := r.user } with
    | .inr _ => some 2
    | .inl (.phys pa _ _ _) => if s.poisonedPA pa p.2.2 then some 3 else none
    | .inl (.away _) => none

/-- The local source of a transfer, or its failure code (R357). -/
def State.sourceOf (s : State) (r : Record) (va : DWord) : List Byte ⊕ Nat :=
  match s.agentRead r.ctx r.user va r.tlen with
  | .inr _ => .inr 2
  | .inl (_, true) => .inr 3
  | .inl (bs, false) => .inl bs

/-- A performed put or get: its bytes count (R364). -/
def State.counted (s : State) (i : Nat) (code n : Nat) : State :=
  s.modRecord i fun r => if code = 0 then { r with count := r.count + n } else r.fail code

/-- A transfer to another package waits for what that reports (R357, R363). Log 53. -/
def State.awaitSent (s : State) (i : Nat) (x : Sent) : State := s.modRecord i fun r => { r with sent := r.sent ++ [x] }

/-- The local write of a get's bytes (R357). -/
def State.getInto (s : State) (i : Nat) (r : Record) (d : DWord) (bs : List Byte) : State :=
  match s.badTarget r d r.tlen with
  | some code => s.counted i code 0
  | none => ((s.agentWrite r.ctx r.user d bs (s.byPacket r.packet r.launch)).getD s).counted i 0 r.tlen

/-- A put's transfer to a rank (R357). Log 53. -/
def State.putTo (s : State) (i : Nat) (r : Record) (rank : Nat) (a d : DWord) : State :=
  match s.sourceOf r a with
  | .inr code => s.counted i code 0
  | .inl bs =>
    if rank = s.rankIn r.ctx then
      match s.badTarget r d r.tlen with
      | some code => s.counted i code 0
      | none => ((s.agentWrite r.ctx r.user d bs (s.byPacket r.packet r.launch)).getD s).counted i 0 r.tlen
    else (s.send (.transfer rank false d bs r.tlen)).awaitSent i .put

/-- A get's transfer from a rank (R357). Log 53. -/
def State.getFrom (s : State) (i : Nat) (r : Record) (rank : Nat) (a d : DWord) : State :=
  if rank ≠ s.rankIn r.ctx then (s.send (.transfer rank true a [] r.tlen)).awaitSent i (.get d)
  else match s.sourceOf r a with
    | .inr code => s.counted i code 0
    | .inl bs => s.getInto i r d bs

/-- The contribution of a record for element k of a transfer, as leaf g0 (R357, R359). -/
def State.contributionOf (s : State) (r : Record) (rank : Nat) (d : DWord) (bs : List Byte) (failed : Bool) (k : Nat) : Contribution :=
  let n := collSize r.ifmt
  { s.leafValue r rank (d + BitVec.ofNat 64 (k * collSize r.ofmt)) (bytesNat ((bs.drop (n * k)).take n)) with failed := failed }

/-- A contribution goes to its element's home: this package's unit, or another package (R357, R359). -/
def State.deliver (s : State) (i : Nat) (c : Contribution) (own : Bool) : State :=
  if !own then s.sendPart c
  else
    let s := if c.failed then s else s.modRecord i fun r => { r with roots := c.addr :: r.roots.filter (· ≠ c.addr) }
    match s.arrive c with
    | (t, true) => if c.failed then t else t.counted i 0 1
    | (t, false) => t.counted i 5 0

/-- A put-reduce's transfer (R357): every element inside the window is contributed, or, where the transfer is not performed, sends a
failure notice. -/
def State.reduceTo (s : State) (i : Nat) (r : Record) (rank : Nat) (a d : DWord) (routed : Bool) : State :=
  let own : Bool := rank = s.rankIn r.ctx
  let n := r.tlen / collSize r.ifmt
  let src := s.sourceOf r a
  let bs : List Byte := match src with | .inl bs => bs | .inr _ => []
  let inside (k : Nat) : Bool := r.inWindow (d + BitVec.ofNat 64 (k * collSize r.ofmt))
  let fails := (match src with | .inl _ => [] | .inr c => [c]) ++ (if routed then [] else [2]) ++
    (if own then (s.badTarget r d (n * collSize r.ofmt)).toList else []) ++
    (if (List.range n).all inside then [] else [4])
  let s := s.modRecord i fun r => fails.foldl Record.fail r
  let cs := (List.range n).filter inside
  let s := cs.foldl (fun s k => s.deliver i (s.contributionOf r rank d bs (fails ≠ []) k) own) s
  if own || fails ≠ [] then s else s.awaitSent i (.parts (cs.map fun k => d + BitVec.ofNat 64 (k * collSize r.ofmt)))

/-- The record that the walker of a die serves next: the started one whose turn comes first (R357); with REL it waits
for the earlier accesses of its thread (R168). Log 58. -/
def State.walkerNext (s : State) (die : Nat) : Option (Nat × Record) :=
  let open_ := s.records.filterMap fun x => match x.2 with
    | some r => if r.started && r.die = die && r.iter < r.total && !s.heldBack r && !(r.rel && s.owedBefore r.who x.1) then
        some (x.1, r) else none
    | none => none
  open_.foldl (fun best x => match best with
    | some b => if x.2.order < b.2.order then some x else some b
    | none => some x) none

/-- COLL_TRANSFER (R357): the walker of a die, die A among them, emits the next transfer of the record whose turn it is; the records take
turns. Log 122. -/
def execCollTransfer (die : Nat) (s : State) : Ans State :=
  if dieA < die then off_ "COLL_TRANSFER"
  else match s.walkerNext die with
    | none => off_ "COLL_TRANSFER"
    | some (i, r) =>
      let (g, a, d) := r.transfer r.iter
      let rank := r.ranks.getD g 0
      let own : Bool := rank = s.rankIn r.ctx
      let routed := own || (tget {} s.routes rank).v
      if (s.die die).fenced || (!own && s.routeStopped rank) || (r.op ≠ 1 || own) && s.busHeld r.ctx a r.tlen die false then
        off_ "COLL_TRANSFER"
      else
        let s := (s.modRecord i fun r => { r with iter := r.iter + 1, order := s.tokens }).takeToken.draw
        let s := if r.op ≠ 1 || own then (s.stray r.ctx a r.tlen true false).agentReach r.ctx a r.tlen else s
        let n := if r.op = 2 then r.tlen / collSize r.ifmt * collSize r.ofmt else r.tlen
        let s := if r.op = 1 || own then s.stray r.ctx d n false true else s
        if r.op = 2 then .next (s.reduceTo i r rank a d routed)
        else if !routed then .next (s.counted i 2 0)
        else if r.op = 0 then .next (s.putTo i r rank a d)
        else .next (s.getFrom i r rank a d)

/-! ### What other packages report (R154, R357, R363) -/

/-- What a record has sent to other packages and what has not come back: the record's number and the place in its list. -/
def State.sentAway (s : State) : List (Nat × Nat) :=
  s.records.flatMap fun x => (List.range (x.2.elim 0 fun r => r.sent.length)).map fun i => (x.1, i)

/-- Another package's report on something that a record has sent (R357, R363): 0 performed, 1 a fault, 2 poison, and above that the elements
of a transfer that repeat a node, as the bits of the report less 2. A transfer that is not performed delivers nothing. Log 53. -/
def State.reported (s : State) (i : Nat) (r : Record) (k report : Nat) : State :=
  let s := s.modRecord i fun r => { r with sent := r.sent.eraseIdx k }
  let fail : Nat := if report = 0 then 0 else if report = 1 then 2 else 3
  match r.sent[k]? with
  | none => s
  | some .put => s.counted i fail r.tlen
  | some (.get d) => if fail = 0 then s.draw.getInto i r d ((List.range r.tlen).map (Config.freeByte s.freeCtr)) else s.counted i fail 0
  | some (.root _) => s.counted i fail 0
  | some (.parts es) =>
    if report = 1 || report = 2 then s.counted i fail 0
    else
      let took := (List.range es.length).filter fun j => report = 0 || !(report - 2).testBit j
      let s := s.modRecord i fun r =>
        { r with
          count := r.count + took.length
          sent := r.sent ++ ((took.map fun j => es.getD j 0).eraseDups.map Sent.root).filter fun x => !r.sent.contains x }
      if report = 0 then s else s.modRecord i fun r => r.fail 5

/-- Another package answers a word that a copy has sent it with a fault: the copy stops there (R163, R164), once its words can be
poisoned; none before that. A copy that has ended is not concerned. -/
def State.copyRefused (s : State) (no k : Nat) : Option State :=
  match tget none s.copies no with
  | none => some s
  | some c => match c.image.bind Template.ofBytes with
    | none => some (s.copyEnd no c (some (k, 3)))
    | some t => if s.copyHeld c t (t.words - k) k then none else some ((s.copyPoison c t (t.words - k) k).copyEnd no c (some (k, 3)))

/-- Another package acknowledges an access that an agent has sent it: with the last one of a SETSIG its packet completes (R345). A fault
there (any report but 0) stops a copy, and completes a SETSIG with ERROR; none where a copy cannot be stopped yet. Log 130. -/
def State.awayAcked (s : State) (x : AwayAck) (report : Nat) : Option State :=
  match x.whose.copy, x.whose.packet with
  | some (no, k), _ => if report = 0 then some s else s.copyRefused no k
  | none, some p => some (if s.packetAway p then s else s.packetCode p (if report = 0 then 0 else 2))
  | none, none => some s

/-- REDUCTION_ACK (R154, R363): the home acknowledges a reduction of a launch, or an access sent to another package, which then counts against
the launch no longer (R122); the numbers after those are the answers of other packages to what agents have sent (R162, R284, R345) and their
reports on what collective records have sent: the k-th of these n comes with report (number div n). Log 53, 91, 130. -/
def execReductionAck (access : Nat) (s : State) : Ans State :=
  match s.awaited[access]? with
  | some (k, i) => .next (s.modLaunch k fun l => { l with acks := l.acks.eraseIdx i })
  | none =>
    let ps := s.sentAway
    let n := s.away.length + ps.length
    let x := access - s.awaited.length
    match s.away[x % n]? with
    | some a => match ({ s with away := s.away.eraseIdx (x % n) } : State).awayAcked a (x / n) with
      | some t => .next t
      | none => off_ "REDUCTION_ACK"
    | none => match ps[x % n - s.away.length]? with
      | none => off_ "REDUCTION_ACK"
      | some (i, k) => match tget none s.records i with
        | some r => .next (s.reported i r k (x / n))
        | none => off_ "REDUCTION_ACK"

/-! ### Completion (R363, R364) -/

/-- Bytes of a completion queue's header, translated with W = 1; none where it does not translate. -/
def State.cqHeader (s : State) (r : Record) : Option (List Byte) :=
  match s.agentTo r.ctx r.cq 32 { wr := true, user := r.user } with
  | .inl (.phys pa key _ _) => some (s.readPA key pa 32)
  | .inl (.away _) => some ((List.range 32).map (Config.freeByte s.freeCtr))
  | .inr _ => none

/-- The completion record (R364). -/
def State.completionBytes (s : State) (r : Record) : List Byte :=
  natBytes 2 r.status ++ [BitVec.ofNat 8 r.op, 1] ++ natBytes 2 r.rid ++ natBytes 2 0 ++ natBytes 8 r.count ++
    natBytes 8 (if r.op = 2 then (orderSignature r.gsize).toNat else 0) ++ natBytes 8 s.cyc.toNat

/-- A release of the first word of a slot at SYS scope (R253, R364). -/
def State.releaseAt (s : State) (r : Record) (va : DWord) : State :=
  match s.agentTo r.ctx va 8 { wr := true, user := r.user } with
  | .inl (.phys pa _ _ _) => s.release pa 8 ⟨260, 4, none, none⟩
  | _ => s

/-- Steps 2 to 4 of R363: the counter, the interrupt, the packet. `vec` is the queue's vector where its header was read. -/
def State.afterRecord (s : State) (i : Nat) (r : Record) (vec : Option Nat) (written : Bool) : State :=
  let s := if r.cinc then
      (match s.trigCounter (BitVec.ofNat 64 r.chdl) (trigCtx r.ctx) with | some c => s.trigAdd c 1 | none => s) else s
  let s := if r.irq then (match vec with | some v => s.interrupt v | none => s) else s
  s.endRecord i (if !written then 2 else if r.status = 0 then 0 else if r.status = 7 then 12 else 2)

/-- The write of a completion record into its slot (R364): all but word 0, then word 0, then WIDX. -/
def State.writeSlot (s : State) (r : Record) (slot : DWord) (widx : Nat) : Option State :=
  let bs := s.completionBytes r
  let by_ := s.byPacket r.packet r.launch
  match s.agentWrite r.ctx r.user (slot + 8) (bs.drop 8) by_ with
  | none => none
  | some t => match t.agentWrite r.ctx r.user slot (bs.take 8) by_ with
    | none => none
    | some t => (t.releaseAt r slot).agentWrite r.ctx r.user r.cq (natBytes 4 ((widx + 1) % 2 ^ 32)) by_

/-- COLL_COMPLETE (R363, R364): record i, all of whose transfers are acknowledged or failed and whose roots are settled, writes its completion record, increments its
counter, sends its vector and completes its packet. It waits while the completion queue is full. Log 56. -/
def execCollComplete (i : Nat) (s : State) : Ans State :=
  match tget none s.records i with
  | none => off_ "COLL_COMPLETE"
  | some r =>
    if !r.started || r.iter < r.total || r.roots ≠ [] || r.sent ≠ [] || s.heldBack r then off_ "COLL_COMPLETE"
    else match s.cqHeader r with
      | none => .next (((s.stray r.ctx r.cq 32 false true).recordError r 3 true r.cq).afterRecord i r none false)
      | some h =>
        let widx := pktField h 0 4
        let slot := r.cq + 32 + BitVec.ofNat 64 (32 * (widx % 2 ^ r.cqlsz))
        if (BitVec.ofNat 32 widx - BitVec.ofNat 32 (pktField h 4 4)).toNat = 2 ^ r.cqlsz then off_ "COLL_COMPLETE"
        else
          let vec := some (pktField h 8 2)
          match s.writeSlot r slot widx with
          | none => .next ((((s.draw.stray r.ctx slot 32 false true).stray r.ctx r.cq 4 false true).recordError r 3 true slot).afterRecord i r vec
              false)
          | some t => .next (t.draw.afterRecord i r vec true)

/-- Records that a test names finish with a failure (R360, R364, R387, R392, R394): no further transfer is made and no root is waited
for. -/
def State.failRecords (s : State) (code : Nat) (hit : Record → Bool) : State :=
  let f (r : Record) : Record :=
    if r.loaded && hit r then { (r.fail code) with started := true, iter := r.total, roots := [], sent := [] } else r
  let gone (k : Nat) : Bool := match tget none s.records k with | some r => r.loaded && hit r | none => false
  { s with armed := s.armed.filter fun a => !gone a.record, records := s.records.map fun x => (x.1, x.2.map f) }

/-! ### Pause marks (R367) -/

/-- The links that pause marks control: fabric ports 0 to 15, and from 16 on the directions of the die links, in the order of `dieHops`. -/
def linkCount : Nat := 16 + dieHops.length

/-- Hold or free the sender of a link. What a stopped port's sender already has in its buffer when RESUME arrives leaves then. -/
def State.setStop (s : State) (l : Nat) (b : Bool) : State :=
  if l < 16 then
    { s with ports := tmod {} s.ports l fun p => { p with stopped := b, since := if p.stopped then p.since else s.outbox.length } }
  else { s with links := s.links.put (l - 16) b }

/-- Whether a link's sender is held. -/
def State.linkHeld (s : State) (l : Nat) : Bool := if l < 16 then (tget {} s.ports l).stopped else s.links.has (l - 16)

/-- The rank to which bulk traffic goes; none for what does not cross the fabric's bulk plane (R251, R334, R368). -/
def Out.bulkTo : Out → Option Nat
  | .remote r _ _ _ | .remoteMark r _ _ | .remoteAtom r _ _ _ _ _ _ | .remoteDone r _ _ _ _ | .remoteFault r _ _ _ _ | .transfer r _ _ _ _ =>
    some r
  | .contribution c _ => some c.home
  | _ => none

/-- What has been sent out and has not left the package, because a STOP mark holds its egress port, oldest first (R367). Log 128. -/
def State.waiting (s : State) : List Out :=
  ((List.range s.outbox.length).zip s.outbox).filterMap fun x => x.2.bulkTo.bind fun r =>
    let p := tget {} s.ports (tget {} s.routes r).port.toNat
    if p.stopped && p.since ≤ x.1 then some x.2 else none

/-- LINK_STOP (R367): a STOP mark halts the sender at the next flit boundary. -/
def execLinkStop (l : Nat) (s : State) : Ans State :=
  if l < linkCount then .next (s.setStop l true) else off_ "LINK_STOP"

/-- LINK_RESUME (R367): a RESUME mark restarts the sender. -/
def execLinkResume (l : Nat) (s : State) : Ans State :=
  if l < linkCount then .next (s.setStop l false) else off_ "LINK_RESUME"

end Sys2Proof.Machine
end

