-- ==== Sys2Proof/Machine/Trust.lean ====
section
/-! DEFINITION. Boot, attestation and encrypted links (R370 to R395): the boot check, measurements, the enclave controller's SPDM
exchanges, job binding and revocation, IDE streams and TDIs, channels and their keys, and attested switches. -/

namespace Sys2Proof.Machine

/-! ### Bytes of digests and keys -/

/-! ### Measurements (R373) -/

/-- Extend a measurement: MEAS_i := SHAKE256(MEAS_i ‖ d) (R373). -/
def State.extend (s : State) (i : Nat) (d : List Byte) : State :=
  { s with trust := { s.trust with meas := s.trust.meas.modify i fun m => Config.shake512 (bvBytes m ++ d) } }

/-! ### The boot check (R370, R371, R374, R375) -/

/-- A field of the staged image. -/
def State.image (s : State) (o n : Nat) : Nat := s.trust.staging.le o n

/-- A section entry of the image at index k: core, space, offset, length, place of its data, and whether it keeps R370. -/
def State.section_ (s : State) (len k : Nat) : Nat × Nat × Nat × Nat × Nat × Bool :=
  let f (o n : Nat) : Nat := s.image (0x820 + 16 * k + o) n
  (f 0 1, f 1 1, f 4 4, f 8 4, f 12 4,
    f 0 1 ≤ 3 && f 1 1 ≤ 1 && f 2 2 = 0 && f 4 4 + f 8 4 ≤ 2 ^ 19 && f 12 4 + f 8 4 ≤ len - 1280)

/-- A window entry of the image (R374). -/
def windowOf (x y : Nat) : Window :=
  { v := x.testBit 63, w := x.testBit 62, rd := x.testBit 61, base := BitVec.ofNat 40 (bits x 12 40), last := BitVec.ofNat 40 (bits y 12 40) }

/-- The reserved bits of a window entry are zero (R374). -/
def windowFields (x y : Nat) : Bool := bits x 0 12 = 0 && bits x 52 9 = 0 && bits y 0 12 = 0 && bits y 52 12 = 0

/-- The BAR0 ranges that no window may overlap (R375, R398): the context table, the route table, the enclave controller's mailbox
buffers and the staging memory. Log 59. -/
def forbidden : List (Nat × Nat) := [(0x10000, 0x11000), (0x100000, 0x120000), (0x200000, 0x220000), (0x400000, 0x800000)]

/-- Whether a window keeps R375. Log 59. -/
def Window.ok (w : Window) : Bool :=
  !w.v || (w.base.toNat ≤ w.last.toNat && forbidden.all fun r =>
    (w.last.toNat + 1) * 4096 ≤ deviceBase + r.1 || deviceBase + r.2 ≤ w.base.toNat * 4096)

/-- The words of window entry k of the image. -/
def State.winWords (s : State) (k : Nat) : Nat × Nat := (s.image (0x720 + 16 * k) 8, s.image (0x728 + 16 * k) 8)

/-- The checks of R371 on the staged image, in order: the code of the first that fails, else 1. Log 60, 61. -/
def State.bootCheck (s : State) : Nat :=
  let len := s.image 8 4
  let nsec := s.image 12 4
  let key := s.trust.staging.read 0x10 1793
  let d := bvBytes (Config.shake512 (s.trust.staging.read 0 (len - 1280)))
  if s.image 0 4 ≠ 0x00384A41 ∨ len % 16 ≠ 0 ∨ 2 ^ 22 < len ∨ nsec = 0 ∨ 64 < nsec ∨ len < 0x820 + 16 * nsec + 1280 ∨
      !(List.range nsec).all (fun k => (s.section_ len k).2.2.2.2.2) then 2
  else if Config.shake512 key ≠ Config.rootH then 3
  else if !Config.falconVerify key d (s.trust.staging.read (len - 1280) 1280) then 4
  else if s.image 4 4 < s.trust.svn.toNat then 5
  else if !(List.range 16).all (fun k => windowFields (s.winWords k).1 (s.winWords k).2 && (windowOf (s.winWords k).1 (s.winWords k).2).ok) then 6
  else 1

/-- The sections of the staged image. -/
def State.imageSections (s : State) : List FwSection :=
  (List.range (s.image 12 4)).map fun k =>
    let x := s.section_ (s.image 8 4) k
    { core := x.1, data := x.2.1 = 1, off := x.2.2.1, bytes := s.trust.staging.read x.2.2.2.2.1 x.2.2.2.1 }

/-- Load the accepted sections and release the four firmware cores at instruction address 0 (R371, R400): their data memory holds the
data sections and zeros. Log 74. -/
def State.startFirmware (s : State) : State :=
  let part (k : Nat) (data : Bool) : Mem :=
    (s.fwSecs.filter fun x => x.core = k && x.data = data).foldl (fun m x => Mem.write m x.off x.bytes) []
  (List.range 4).foldl (fun s k =>
    let t : Thread := { ctl := { core := BitVec.ofNat 5 k } }
    { (s.modCore (256 + k) fun _ => { live := true, thr := t, scratch := part k true, nextIssue := s.now }) with
      fwImem := tset [] s.fwImem (256 + k) (part k false) }) s

/-- The words that MEAS2 takes (R373): DCAP of each die, then SVN. -/
def State.capWords (s : State) : List Byte :=
  (List.range 8).flatMap (fun d => natBytes 8 ((s.die d).reg 0) ++ natBytes 8 ((s.die d).reg 8)) ++ natBytes 8 s.trust.svn.toNat

/-- A write of GO (R371, R372): BUSY reads 1 until the boot ROM's check has ended. After CODE = 1 it is ignored. -/
def State.bootAsk (s : State) : State :=
  if s.trust.bootCode = 1 then s else { s with trust := { s.trust with bootBusy := true } }

/-- The boot check (R371): the boot ROM measures itself once, checks the staged image and, where it accepts it, measures it, loads its sections,
locks the window table and releases the firmware cores. After CODE = 1 it is ignored. Log 60, 61. -/
def State.boot (s : State) : State :=
  if s.trust.bootCode = 1 then s
  else
    let s := if s.trust.meas.getD 0 0 = 0 then s.extend 0 (bvBytes Config.bootRomDigest) else s
    let code := s.bootCheck
    let s : State := { s with trust := { s.trust with bootCode := code, bootBusy := false } }
    if code ≠ 1 then s
    else
      let d := Config.shake512 (s.trust.staging.read 0 (s.image 8 4 - 1280))
      let ws := (List.range 16).map fun k => windowOf (s.winWords k).1 (s.winWords k).2
      let s := ((s.extend 1 (bvBytes d)).extend 2 s.capWords).extend 3 (s.trust.staging.read 0x720 256)
      ({ s with trust := { s.trust with bootVer := BitVec.ofNat 16 (s.image 4 4), windows := ws }
                fwSecs := s.imageSections } : State).startFirmware

/-- BOOT_GO (R371, R372): the check that a GO has asked for, or GO and the check at once. Log 60. -/
def execBootGo (s : State) : Ans State := .next s.boot

/-! ### The mailbox and SPDM (R379, R380) -/

/-- The controller's answer to the request in the mailbox (R379, R380). Log 64, 65. -/
def State.answer (s : State) (bs : List Byte) : State :=
  ({ s with trust := { s.trust with mbResp := s.trust.mbResp.write 0 (bs.take 65536), slen := BitVec.ofNat 16 bs.length, mbDone := true
                                    mbBusy := false } } : State).send (.spdm bs)

/-- The SPDM error codes InvalidRequest, Unspecified and UnsupportedRequest. Log 64. -/
def spdmInvalid : Byte := 0x01
@[inherit_doc spdmInvalid] def spdmUnspecified : Byte := 0x05
@[inherit_doc spdmInvalid] def spdmUnsupported : Byte := 0x07

/-- The controller answers a request with an SPDM ERROR, in the 4 bytes of SPDM 1.3. Log 64. -/
def State.answerError (s : State) (code : Byte) : State :=
  ({ s with trust := { s.trust with mbResp := s.trust.mbResp.write 0 [0x13, 0x7F, code, 0], slen := 4, mbDone := true
                                    mbBusy := false } } : State).send (.spdmError code)

/-- The bytes of the request in the mailbox (R379). -/
def State.requestBytes (s : State) : List Byte := s.trust.mbReq.read 0 s.trust.rlen.toNat

/-- Whether the controller can take a request now (R379): the one that the mailbox holds after a GO; with no GO pending, the request comes
with its GO. Log 65. -/
def State.takesRequest (s : State) (i : MailRequest) : Bool := !s.trust.mbBusy || decide (Config.requestOf s.requestBytes = some i)

/-- A request to the controller has the outcome `t`, where it can be taken (R379). -/
def State.request (s : State) (event : String) (i : MailRequest) (t : State) : Ans State :=
  if s.takesRequest i then .next t else off_ event

/-- GO of EMBC (R379): the request in the buffer is processed next; one that makes no request is answered with an SPDM ERROR. A GO while a
request is processed is ignored. Log 65. -/
def State.mailboxGo (s : State) : State :=
  if s.trust.mbBusy then s
  else if (Config.requestOf s.requestBytes).isNone then s.answerError spdmInvalid
  else { s with trust := { s.trust with mbBusy := true } }

/-- The capabilities that the controller advertises (R380), by their bits in SPDM's capability flags: CERT, CHAL, MEAS with signature,
ENCRYPT, MAC, MUT_AUTH and KEY_EX. Log 64. -/
def spdmCaps : List Nat := [1, 2, 4, 6, 7, 8, 9]

/-- The algorithms that the controller chooses (R380): SHA-384 and AES-256-GCM, by their bits in SPDM's tables, and those of Falcon-1024 and
ML-KEM-1024 that the requester offers. Log 64. -/
def spdmAlgorithms (falcon mlkem : Bool) : List Byte :=
  natBytes 4 (spdmCaps.map fun i => 2 ^ i).sum ++ natBytes 4 2 ++ natBytes 2 2 ++ [BitVec.ofNat 8 (flag falcon 0 + flag mlkem 1)]

/-- NEGOTIATE_ALGORITHMS (R380): the capabilities, and the algorithms chosen; with neither post-quantum algorithm offered, UnsupportedRequest.
Log 64. -/
def execNegotiateAlgorithms (falcon mlkem : Bool) (s : State) : Ans State :=
  s.request "NEGOTIATE_ALGORITHMS" (.algorithms falcon mlkem)
    (if falcon || mlkem then s.answer (spdmAlgorithms falcon mlkem) else s.answerError spdmUnsupported)

/-- SPDM_CERT (R379, R380): slot 0 of the certificate chain. -/
def execSpdmCert (s : State) : Ans State := s.request "SPDM_CERT" .cert (s.answer Config.deviceCert)

/-- SPDM_CHALLENGE (R380): the digest of the chain and the nonce, signed under the device identity key. Log 64. -/
def execSpdmChallenge (nonce : List Byte) (s : State) : Ans State :=
  let body := bvBytes (Config.sha384 Config.deviceCert) ++ nonce
  s.request "SPDM_CHALLENGE" (.challenge nonce) (s.answer (body ++ Config.falconSign body))

/-- SPDM_MEASUREMENTS (R380): measurement blocks 1 to 16 are MEAS0 to MEAS15 as raw 64-byte streams, with a signature. Log 64. -/
def execSpdmMeasurements (nonce : List Byte) (s : State) : Ans State :=
  let blocks := s.trust.meas.flatMap bvBytes
  s.request "SPDM_MEASUREMENTS" (.measurements nonce) (s.answer (blocks ++ Config.falconSign (blocks ++ nonce)))

/-- SPDM_KEY_EXCHANGE (R380): a session opens; with mutual authentication the requester's key becomes the verifier key of jobs it
binds. Log 64. -/
def execSpdmKeyExchange (m : KeyExchange) (s : State) : Ans State :=
  s.request "SPDM_KEY_EXCHANGE" (.keyExchange m)
    (if m.mutualAuth && !Config.falconVerify m.key m.transcript m.sig then s.answerError spdmInvalid
    else
      let body := Config.kemEncapsulate m.kem s.freeCtr
      let s : State := { s with trust := { s.trust with session := some ⟨m.mutualAuth, m.key⟩ } }
      s.draw.answer (body ++ Config.falconSign (body ++ m.transcript)))

/-- HOST_MEAS_EXTEND (R373): the host extends MEAS4 to MEAS7 with a 64-byte value; no other write to a measurement exists. -/
def execHostMeasExtend (i : Nat) (v : List Byte) (s : State) : Ans State :=
  s.request "HOST_MEAS_EXTEND" (.extend i v)
    (if 4 ≤ i && i ≤ 7 && v.length = 64 then (s.extend i v).answer [] else s.answerError spdmInvalid)

/-! ### Job binding (R381, R382) -/

/-- The job of a slot. -/
def State.job (s : State) (j : Nat) : Option Job := tget none s.trust.jobs j

/-- Change the job of a slot. -/
def State.modJob (s : State) (j : Nat) (f : Job → Job) : State :=
  { s with trust := { s.trust with jobs := tmod none s.trust.jobs j (Option.map f) } }

/-- Job key ids that are free, ascending (R274, R382). Log 63. -/
def State.freeKeys (s : State) : List Nat :=
  ((List.range 63).map (· + 1)).filter fun k => !(tget {} s.trust.keys k).installed

/-- The contexts of a policy's bitmap (R381). -/
def JobPolicy.contexts (p : JobPolicy) : List Nat := (List.range 256).filter p.ctxs.getLsbD

/-- A policy that the controller accepts (R381). -/
def State.policyOk (s : State) (m : SignedPolicy) (verifier : List Byte) : Bool :=
  Config.falconVerify verifier m.policy.raw m.sig && ((List.range 8).any fun j => (s.job j).isNone) &&
    1 ≤ m.policy.nkey && m.policy.nkey ≤ s.freeKeys.length && (JobPolicy.contexts m.policy).all (fun c => !(s.context c).job) &&
    m.policy.rank < m.policy.count

/-- Install drawn keys in free key ids: each installation raises the id's generation (R274, R382). -/
def State.installKeys (s : State) (ids : List Nat) : State :=
  ids.foldl (fun s k =>
    let f (x : MemKey) : MemKey := { installed := true, gen := (x.gen + 1) % 2 ^ 16, key := Config.drawKey s.freeCtr }
    { s.draw with trust := { s.trust with keys := tmod {} s.trust.keys k f } }) s

/-- The KIND 0x05 flits that carry SPDM bytes to a switch (R384): a header, and the bytes in clear from byte 16 on. Log 67. -/
def switchFlits (rank sw : Nat) (bs : List Byte) : List (List Byte) :=
  (List.range ((bs.length + 239) / 240)).map fun i =>
    let body := (bs.drop (240 * i)).take 240
    flitHeader 0 5 0 (BitVec.ofNat 16 rank) (BitVec.ofNat 16 sw) ++ body ++ List.replicate (240 - body.length) 0

/-- Send SPDM bytes to a switch (R384, R391). -/
def State.sendSwitch (s : State) (rank sw : Nat) (bs : List Byte) : State :=
  (switchFlits rank sw bs).foldl (fun s f => s.send (.spdmToSwitch sw f)) s.draw

/-- Ask a switch to attest itself (R391, R392). -/
def State.askSwitch (s : State) (rank sw : Nat) : State := s.sendSwitch rank sw (Config.switchAsk s.freeCtr)

/-- The switches on the routes of a job. -/
def pathSwitches (paths : List (Nat × List Nat)) : List Nat := (paths.flatMap Prod.snd).eraseDups

/-- Bind a job to a slot (R382): the TDI of its host requests is the slot's (R383, R396), and the switches of its paths are asked to attest
themselves (R391). Log 62. -/
def State.bindJob (s : State) (slot : Nat) (m : SignedPolicy) (verifier : List Byte) : State :=
  let p := m.policy
  let ids := s.freeKeys.take p.nkey
  let cs := JobPolicy.contexts p
  let s := s.installKeys ids
  let mask := (0 :: ids).foldl (fun k i => k + 2 ^ i) 0
  let f (c : Context) : Context := { c with job := true, keymask := BitVec.ofNat 64 mask }
  let s : State := { s with contexts := cs.foldl (fun t c => tmod {} t c f) s.contexts }
  let j : Job := { jobid := p.jobid, rank := p.rank, count := p.count, ctxs := cs, keys := ids, swd := p.swd, paths := p.paths
                   swid := p.swid, rechk := p.rechk, tdi := slot, ilim := s.linkLimits.1, margin := s.linkLimits.2
                   red := ⟨0, 0, s.linkLimits.1, s.linkLimits.2⟩
                   ekeys := [(0, m.keys)], verifier := verifier }
  let s : State := { s with trust := { s.trust with jobs := tset none s.trust.jobs slot (some j) } }
  let s := s.extend (8 + slot) (bvBytes (Config.sha384 (p.raw ++ m.sig)))
  (pathSwitches p.paths).foldl (fun s w => s.askSwitch p.rank w) s

/-- JOB_POLICY (R381, R382): within a mutually authenticated session, an accepted policy binds the job to the first free slot; any
other is refused with an SPDM ERROR. Log 63. -/
def execJobPolicy (m : SignedPolicy) (s : State) : Ans State :=
  s.request "JOB_POLICY" (.policy m) (match s.trust.session with
    | some ⟨true, verifier⟩ =>
      match (if s.policyOk m verifier then (List.range 8).find? fun j => (s.job j).isNone else none) with
      | some slot => (s.bindJob slot m verifier).answer []
      | none => s.answerError spdmInvalid
    | _ => s.answerError spdmInvalid)

/-! ### Freezing and unbinding (R377, R378, R382, R395) -/

/-- Freeze every master that acts for a job's contexts, with reason 4 (R395): its threads, the engines that have commands of theirs open, its
copies and its collectives. Log 66. -/
def State.freezeJob (s : State) (j : Job) : State :=
  let cores := s.busyCores.filter fun n =>
    let c := s.coreAt n
    c.live && !isFw n && match s.launch? c.thr.launch with | some l => j.ctxs.contains l.ctx | none => false
  let s := cores.foldl (fun s n =>
    let s := s.freezeLog 2 4 n 0
    if (s.coreAt n).enginesIdle then s else s.freezeLog 3 4 n 0) s
  let f (l : Launch) : Launch := if j.ctxs.contains l.ctx then { l with frozen := true } else l
  let s : State := { s with launches := s.launches.map fun x => (x.1, x.2.map f) }
  s.dropWork (fun c => c.packet.isSome && j.ctxs.contains c.ctx) (fun r => r.packet.isSome && j.ctxs.contains r.ctx)

/-- Clear ATT in the route entries that a test names (R391, R392). Log 67. -/
def State.clearAtt (s : State) (hit : Nat → Bool) : State :=
  let ranks := (s.routes.map Prod.fst).filter hit
  let f (r : Route) : Route := { r with att := false }
  { s with routes := ranks.foldl (fun t r => tmod {} t r f) s.routes }

/-- Unbind a job (R382): its key ids are zeroized, its channels and keys are erased, its contexts lose JOB and KEYMASK, and the slot is
free. Log 67. -/
def State.unbindJob (s : State) (slot : Nat) (j : Job) : State :=
  let zero (x : MemKey) : MemKey := { x with installed := false, key := 0 }
  let f (c : Context) : Context := { c with job := false, keymask := 0 }
  let s := s.clearAtt fun r => (j.paths.any fun p => p.1 = r)
  { s with contexts := j.ctxs.foldl (fun t c => tmod {} t c f) s.contexts
           trust := { s.trust with keys := j.keys.foldl (fun t k => tmod {} t k zero) s.trust.keys
                                   jobs := tset none s.trust.jobs slot none
                                   channels := s.trust.channels.filter fun x => x.1 / 65536 ≠ slot } }

/-- The slot of a locked job. -/
def State.jobSlot (s : State) (id : BitVec 128) : Option (Nat × Job) :=
  s.trust.jobs.findSome? fun x => x.2.bind fun j => if j.jobid = id then some (x.1, j) else none

/-- What an END object does (R373, R382, R395): a signed END of a locked job extends its measurement, freezes its masters and unbinds it;
any other is dropped. Log 62. -/
def State.endJob (s : State) (m : SignedEnd) : State :=
  match s.jobSlot m.jobid with
  | some (slot, j) =>
    if Config.falconVerify j.verifier m.raw m.sig then ((s.extend (8 + slot) (m.raw ++ m.sig)).freezeJob j).unbindJob slot j else s
  | none => s

/-- END_OBJECT (R379, R382): the object comes through the mailbox; the answer to it is empty. Log 62. -/
def execEndObject (m : SignedEnd) (s : State) : Ans State := s.request "END_OBJECT" (.endJob m) ((s.endJob m).answer [])

/-! ### Channels and their keys (R384 to R389) -/

/-- The number of the channels with a peer of a job slot. -/
def channelNo (slot peer : Nat) : Nat := 65536 * slot + peer

/-- A key slot of an end. -/
def Channel.tx (c : Channel) (b : Bool) : Option KeySlot := if b then c.tx1 else c.tx0
@[inherit_doc Channel.tx] def Channel.rx (c : Channel) (b : Bool) : Option KeySlot := if b then c.rx1 else c.rx0
@[inherit_doc Channel.tx] def Channel.setTx (c : Channel) (b : Bool) (k : Option KeySlot) : Channel :=
  if b then { c with tx1 := k } else { c with tx0 := k }
@[inherit_doc Channel.tx] def Channel.setRx (c : Channel) (b : Bool) (k : Option KeySlot) : Channel :=
  if b then { c with rx1 := k } else { c with rx0 := k }

/-- The transmitter's idle slot still holds the key it used before (R388). -/
def Channel.idleOld (c : Channel) : Bool :=
  match c.tx (!c.cur), c.tx c.cur with
  | some a, some b => a.epoch < b.epoch || (a.epoch = b.epoch && a.gen < b.gen)
  | _, _ => false

/-- The next key of the receiver goes into its idle slot, or waits for it while that slot drains (R388): an epoch's key that waits already,
or the next generation. -/
def Channel.installRx (c : Channel) : Channel :=
  match c.rx c.expSlot, c.rx (!c.expSlot) with
  | some k, none => { (c.setRx (!c.expSlot) (some (c.rxNext.getD { k with gen := k.gen + 1 }))) with rxNext := none }
  | some k, some _ => if c.drain.isSome && c.rxNext.isNone then { c with rxNext := some { k with gen := k.gen + 1 } } else c
  | none, _ => c

/-- The epoch's key of a transmitter (R394): it replaces an unused key in the idle slot, or waits for that slot's release; the marker follows
next. -/
def Channel.epochTx (c : Channel) (k : KeySlot) : Channel :=
  if c.idleOld then { c with next := some k, force := true }
  else { (c.setTx (!c.cur) (some k)) with next := none, force := true }

/-- The epoch's key of a receiver (R387, R394): it goes into the idle slot, or waits while that slot drains. Where the idle slot holds a next
generation that the transmitter may have switched to already, or a marker has just been accepted, the flits after the marker may come
under either key. A failed channel starts anew with it, in the other slot. Log 68. -/
def Channel.epochRx (c : Channel) (k : KeySlot) (lim : Nat × Nat) : Channel :=
  if c.failed then
    { (c.setRx (!c.expSlot) (some k)) with
      expSlot := !c.expSlot, expSeq := 0, marked := false, rxNext := none, alt := none, drops := 0, drain := none, failed := false
      retryDue := false, rilim := lim.1, rmargin := lim.2 }
  else
    let c : Channel := if c.marked then { c with alt := some k } else c
    if (c.rx (!c.expSlot)).isNone then c.setRx (!c.expSlot) (some k)
    else if c.drain.isSome then { c with rxNext := some k }
    else { c with alt := some k }

/-- The epoch's keys on the channels with a remaining rank (R394). -/
def Channel.newEpoch (c : Channel) (e : Nat) (lim : Nat × Nat) : Channel := (c.epochTx ⟨e, 0⟩).epochRx ⟨e, 0⟩ lim

/-- The channels of a number (R386): those of a locked job's other ranks, at first with generation 0 of epoch 0,
and since a revocation with the new epoch's key to switch to. -/
def State.channel (s : State) (ch : Nat) : Option Channel :=
  match s.job (ch / 65536) with
  | none => none
  | some j =>
    let peer := ch % 65536
    if j.count ≤ peer || peer = j.rank || j.gone.contains peer then none
    else match tget none s.trust.channels ch with
      | some c => some c
      | none =>
        let c : Channel := { job := ch / 65536, peer := peer, tx0 := some ⟨0, 0⟩, rx0 := some ⟨0, 0⟩, ilim := j.ilim, margin := j.margin
                             force := j.force, rilim := j.ilim, rmargin := j.margin }
        some (if j.epoch = 0 then c else c.newEpoch j.epoch (j.ilim, j.margin))

/-- Replace the channels of a number. -/
def State.setChannel (s : State) (ch : Nat) (c : Channel) : State :=
  { s with trust := { s.trust with channels := tset none s.trust.channels ch (some c) } }

/-- The fabric port of a channel's peer (R369). -/
def State.portOf (s : State) (c : Channel) : Nat := (tget {} s.routes c.peer).port.toNat

/-- Derive of R385 for the channel key and salt of s → d. -/
def State.linkKey (s : State) (job : Nat) (k : KeySlot) (src dst : Nat) : BitVec 288 :=
  let kj := match s.job job with
    | some j => ((j.ekeys.find? fun e => e.1 = k.epoch).map fun e => bvBytes e.2.kj).getD []
    | none => []
  let label : List Byte := [0x41, 0x4A, 0x38, 0x2D, 0x4C, 0x49, 0x4E, 0x4B]
  Config.shake288 (kj ++ label ++ natBytes 4 k.epoch ++ natBytes 2 src ++ natBytes 2 dst ++ natBytes 4 k.gen)

/-- The transmitter installs the next key in its free idle slot (R388, R394): an epoch's key that waits, or, past the threshold, the next
generation. -/
def Channel.installTx (c : Channel) : Channel :=
  match c.tx c.cur, c.tx (!c.cur), c.next with
  | some _, none, some n => { (c.setTx (!c.cur) (some n)) with next := none }
  | some k, none, none => if c.force || c.ilim - c.margin ≤ c.seq then c.setTx (!c.cur) (some { k with gen := k.gen + 1 }) else c
  | _, _, _ => c

/-- The flit boundary at which the marker must follow (R388). -/
def Channel.atMarker (c : Channel) : Bool := c.force || c.seq = c.ilim - c.margin / 2

/-- After the marker the transmitter uses the new slot, with the present LKCFG values (R388, R389). -/
def Channel.switchTx (c : Channel) (lim : Nat × Nat) : Channel :=
  { c with cur := !c.cur, seq := 0, force := false, ilim := lim.1, margin := lim.2 }

/-- The flit that a channel's transmitter sends next (R384 to R386). -/
def State.makeFlit (s : State) (c : Channel) (rank : Nat) (k : KeySlot) (kind : Byte) (body : List Byte) : Flit :=
  let seq : DWord := BitVec.ofNat 64 c.seq
  let kf : Byte := if c.cur then 1 else 0
  let src : Half := BitVec.ofNat 16 rank
  let dst : Half := BitVec.ofNat 16 c.peer
  let ki := flitKey (s.linkKey c.job k rank c.peer) c.seq
  let x := Config.gcmSeal ki.1 ki.2 (flitHeader seq kind kf src dst) body
  { seq := seq, kind := kind, kf := kf, src := src, dst := dst, ct := x.1, tag := x.2 }

/-- The next flit of a channel goes out under the current key and SEQ and is kept until it is acknowledged (R384 to R388), where the channel
can send it: at the marker's place only the marker goes, once the idle slot holds the new key, and then the slot switches. -/
def State.transmit (s : State) (ch : Nat) (kind : Byte) (body : List Byte) : Option State :=
  match s.channel ch, s.job (ch / 65536) with
  | some c, some j =>
    let c := c.installTx
    match c.tx c.cur with
    | none => none
    | some k =>
      if 4096 ≤ c.unacked.length || decide (kind = 3) != c.atMarker || (kind = 3 && ((c.tx (!c.cur)).isNone || c.idleOld)) then none
      else
        let f := s.makeFlit c j.rank k kind body
        let c : Channel := { c with unacked := c.unacked ++ [f], seq := c.seq + 1 }
        let c := if kind = 3 then c.switchTx s.linkLimits else c.installTx
        some ((s.setChannel ch c).send (.flit ch f))
  | _, _ => none

/-- What a channel's receiver has to tell the transmitter (R386): a retry request that names the expected pair, or an acknowledgement; as the
body of a channel-control flit (R384). -/
def Channel.controlDue (c : Channel) : Option (Bool × List Byte) :=
  if c.retryDue then some (true, Config.controlBody true c.expSlot (BitVec.ofNat 64 c.expSeq))
  else c.ackDue.map fun x => (false, Config.controlBody false x.1 x.2)

/-- A port counts a retry request sent (R389). -/
def State.countRetry (s : State) (port : Nat) : State :=
  let f (p : Port) : Port := { p with retries := if p.retries = BitVec.allOnes 16 then p.retries else p.retries + 1 }
  { s with ports := tmod {} s.ports port f }

/-- Send the channel-control flit that is due (R384, R386, R389), where the channel can send it. -/
def State.controlOne (s : State) (ch : Nat) : Option State :=
  match s.channel ch with
  | none => none
  | some c => match c.controlDue with
    | none => none
    | some (retry, body) => match s.transmit ch 4 body with
      | none => none
      | some t => t.channel ch |>.map fun c =>
        if retry then (t.setChannel ch { c with retryDue := false }).countRetry (t.portOf c)
        else t.setChannel ch { c with ackDue := none }

/-- Send what is due, as far as the channel can: the rest stays due (R386, R388). -/
def State.control (s : State) (ch : Nat) : State :=
  let s := (s.controlOne ch).getD s
  (s.controlOne ch).getD s

/-- FLIT_SEND (R384 to R388): the channel sends its next flit: data, a marker at the marker's place alone, or a control flit that is due. A
bulk flit waits while its port is stopped (R367). -/
def execFlitSend (ch : Nat) (kind : Byte) (body : List Byte) (s : State) : Ans State :=
  match s.channel ch with
  | none => off_ "FLIT_SEND"
  | some c =>
    if body.length ≠ 224 || kind = 0 || 4 < kind || (kind = 1 && (tget {} s.ports (s.portOf c)).stopped) ||
        (kind = 4 && decide (c.controlDue.map Prod.snd ≠ some body)) then off_ "FLIT_SEND"
    else match (if kind = 4 then s.controlOne ch else s.transmit ch kind body) with
      | some t => .next t
      | none => off_ "FLIT_SEND"

/-- Core cycles of a number of microseconds at the present clock. -/
def State.micros (s : State) (n : Nat) : Nat := n * s.host.clk.toNat

/-- A port drops a flit (R386, R389). -/
def State.countDrop (s : State) (port : Nat) : State :=
  let f (p : Port) : Port := { p with drops := if p.drops = BitVec.allOnes 32 then p.drops else p.drops + 1 }
  { s with ports := tmod {} s.ports port f }

/-- A flit is dropped, unread (R386): the first drop after an accepted flit sends a retry request naming the expected pair. A failed channel
asks for nothing (R387). -/
def State.dropFlit (s : State) (ch : Nat) (c : Channel) : State :=
  let first : Bool := c.drops = 0 && !c.failed
  let c' : Channel := { c with drops := c.drops + 1, dropAt := if first then s.now else c.dropAt
                               retryAt := if first then s.now + s.micros 10 else c.retryAt, retryDue := c.retryDue || first }
  let s := (s.setChannel ch c').countDrop (s.portOf c)
  if first then s.control ch else s

/-- The first flit accepted after a marker settles under which key the slot stands (R394): the key it held, and then an epoch's key is the
next one, or that epoch's key. -/
def Channel.settle (c : Channel) (other : Bool) : Channel :=
  if !c.marked then c
  else if other then
    { (c.setRx c.expSlot c.alt) with alt := none, marked := false, rxNext := if c.rxNext = c.alt then none else c.rxNext }
  else
    let c : Channel := { c with rxNext := c.alt.or c.rxNext, alt := none, marked := false }
    if c.rxNext.isSome then c.installRx else c

/-- The receiver after it has accepted a flit (R386, R388): a marker moves it to the other slot, whose key it then holds, and starts
the drain of the old one, with the present LKCFG values for its key (R389); a flit at the threshold installs the next key. Each is
acknowledged. Log 68. -/
def Channel.accepted (c : Channel) (marker other : Bool) (lim : Nat × Nat) (until_ : Nat) : Channel :=
  let c := c.settle other
  let c : Channel := { c with drops := 0, retryDue := false, ackDue := some (c.expSlot, BitVec.ofNat 64 c.expSeq) }
  if marker then
    let c := if (c.rx (!c.expSlot)).isNone || c.drain.isSome then
        (({ c with drain := none } : Channel).setRx (!c.expSlot) none).installRx else c
    { c with drain := some (until_, c.expSlot), expSlot := !c.expSlot, expSeq := 0, marked := true, rilim := lim.1, rmargin := lim.2 }
  else
    let c := if c.expSeq = c.rilim - c.rmargin then c.installRx else c
    { c with expSeq := c.expSeq + 1 }

/-- The plaintext of a flit that a receiver accepts (R386): the expected slot and SEQ, and a tag that verifies under that slot's key, or,
right after a marker, under the epoch's key that its slot may hold (R394), with which of the two. -/
def State.openFlit (s : State) (c : Channel) (rank : Nat) (f : Flit) : Option (List Byte × Bool) :=
  let kf : Byte := if c.expSlot then 1 else 0
  if f.kf ≠ kf || f.seq.toNat ≠ c.expSeq || f.kind = 0 || 4 < f.kind || f.src.toNat ≠ c.peer || f.dst.toNat ≠ rank then none
  else
    let try_ (k : Option KeySlot) : Option (List Byte) := k.bind fun k =>
      let ki := flitKey (s.linkKey c.job k c.peer rank) c.expSeq
      Config.gcmOpen ki.1 ki.2 (flitHeader f.seq f.kind f.kf f.src f.dst) f.ct f.tag
    match try_ (c.rx c.expSlot) with
    | some pt => some (pt, false)
    | none => (try_ (if c.marked then c.alt else none)).map fun pt => (pt, true)

/-- The atomic operations by their number in an access of another package. Log 86. -/
def atomOps : List AtomOp := [.add, .fadd, .min, .max, .and, .or, .xor, .xchg, .cas, .insm, .ffcs, .pls]

/-- What an access of another package makes of the bytes at its physical address, and its answer or the fault that it has (R152, R158,
R282). -/
def askedAct (x : Config.Asked) (old : List Byte) : Option (List Byte) × (List Byte ⊕ BitVec 8 × Nat) :=
  match x with
  | .read _ => (none, .inl old)
  | .write bs _ => (some bs, .inl [])
  | .atomic op n b d =>
    let (new, out) := atomNew (atomOps.getD op .add) (8 * n) (bytesNat old) (b.toNat % 2 ^ (8 * n)) (d.toNat % 2 ^ (8 * n))
    (some (natBytes n new), .inl (natBytes 8 out))
  | .arrive n core =>
    let b := Barrier.ofBytes old
    match b.arrive n core with
    | .inl d => (some { b with ovr := min (b.ovr + 1) 0xFFFFFFFF }.bytes, .inr (cOverrun, d))
    | .inr (b, out) => (some b.bytes, .inl (natBytes 8 out))

/-- The bytes that an access of another package reaches. -/
def askedSize : Config.Asked → Nat
  | .read n | .atomic _ n .. => n
  | .write bs _ => bs.length
  | .arrive .. => 16

/-- A plain write, which ends release sequences, unlike an atomic, a reduction or an arrival (R238). -/
def askedPlain : Config.Asked → Bool
  | .write .. => true
  | _ => false

/-- The thread of another package as an accessor of the race table (R244, R245): its launch is one of that package. Log 86. -/
def askerOf (rank : Nat) (a : Config.Asker) : Accessor :=
  ⟨a.launch, a.tid, a.inst, a.dmbd, a.dmbp, a.phc, a.phd, a.php, a.phj, some rank⟩

/-- The race checks of an access of another package against granules (R244): the DETAIL of the first that fails, 0 for RACE_TABLE, or the
state with the access recorded. -/
def State.raceAsked (s : State) (a : Accessor) (wr : Bool) : List Nat → State ⊕ Nat
  | [] => .inl s
  | g :: gs => match s.raceStep a (64 * g) wr with
    | .inr d => .inr d
    | .inl _ => (s.raceNote a (64 * g) wr).raceAsked a wr gs

/-- What an access of another package does at the bytes at a physical address here, and what is answered (R238, R239, R282, R285): the data
with their poison mark, and whether an acquire finds a scope mismatch; a plain write with a mark poisons what it writes. -/
def State.performAsked (s : State) (rank : Nat) (va : DWord) (pa key : Nat) (x : Config.Asked) (a : Config.Asker) : State :=
  let n := askedSize x
  let me (scope : BitVec 3) : Release := ⟨a.core, scope, some ⟨a.launch, a.tid⟩, some rank⟩
  let bad := s.poisonedPA pa n
  let drop := match a.acq with | some c => s.scopeDrop pa (me c) | none => false
  let (new, out) := askedAct x (s.readPA key pa n)
  let s := match new with | some bs => s.writePA key pa bs | none => s
  let s := if askedPlain x then s.endSeq pa n else s
  let s := match x with | .write _ true => { s with poison := s.poison.putAll (unitsOf 128 pa n) true } | _ => s
  let s := match a.rel, out with | some c, .inl _ => s.release pa n (me c) | _, _ => s
  match out with
  | .inl bs => s.send (.remoteDone rank va bs bad drop)
  | .inr (c, d) => s.send (.remoteFault rank va c (BitVec.ofNat 8 d) true)

/-- An access of a rank of a job arrives (R282): it is translated in the job's remote context, checked against the race table where its page
has RCK = 1 (R244), and performed, or its fault or race report returns. A page that is itself a remote leaf in that context, for which the
spec names no outcome, answers XLATE with DETAIL 3. Log 86, 123. -/
def State.serveAccess (s : State) (job rank : Nat) (va : DWord) (x : Config.Asked) (a : Config.Asker) : State :=
  let ctx := s.windowCtx job
  match s.xlate ctx (s.jobCount ctx) va { user := false } with
  | .inr (c, d) => s.send (.remoteFault rank va c d false)
  | .inl (.away _) => s.send (.remoteFault rank va causeXlate 3 false)
  | .inl (.phys pa key rck pool) =>
    match (if rck && a.checked then s.raceAsked (askerOf rank a) (askedPlain x) (unitsOf 64 pa (askedSize x)) else .inl s) with
    | .inr d => s.send (.remoteFault rank va (if d = 0 then cRaceTable else cRace) (BitVec.ofNat 8 d) false)
    | .inl t => (if pool = 0 then t else t.pin pa (askedSize x)).performAsked rank va pa key x a

/-- A cumulative acknowledgement frees the stored flits up to the named one (R386); once no flit of the old slot is left, the old slot is
released (R388). -/
def State.acked (s : State) (ch : Nat) (slot : Bool) (seq : DWord) : State :=
  match s.channel ch with
  | none => s
  | some c =>
    let named (f : Flit) : Bool := f.seq = seq && f.kf.getLsbD 0 = slot
    if !c.unacked.any named then s
    else
      let left := (c.unacked.dropWhile fun f => !named f).drop 1
      let c : Channel := { c with unacked := left }
      let held : Bool := left.any fun f => f.kf.getLsbD 0 ≠ c.cur
      s.setChannel ch (if !held && c.idleOld then c.setTx (!c.cur) none else c)

/-- The transmitter resends the stored flits from the named one on, unchanged (R386). -/
def State.resend (s : State) (ch : Nat) (slot : Bool) (seq : DWord) : State :=
  match s.channel ch with
  | none => s
  | some c => (c.unacked.dropWhile fun f => !(f.seq = seq && f.kf.getLsbD 0 = slot)).foldl (fun s f => s.send (.flit ch f)) s

/-- What the plaintext of an accepted flit does (R282, R384, R386): a bulk flit's access is served, a control flit acts on the channel of the
opposite direction, and any other body is delivered. -/
def State.takeFlit (s : State) (ch : Nat) (c : Channel) (kind : Byte) (pt : List Byte) : State :=
  if kind = 3 then s
  else if kind = 4 then
    match Config.controlOf pt with
    | some (true, slot, seq) => s.resend ch slot seq
    | some (false, slot, seq) => s.acked ch slot seq
    | none => s.send (.delivered ch kind pt)
  else match (if kind = 1 then Config.accessOf pt else none) with
    | some (va, x, a) => s.serveAccess c.job c.peer va x a
    | none => s.send (.delivered ch kind pt)

/-- The source id of a switch in a job (R381): SWID names those of the switches in the order in which PATHS first names them. Log 67. -/
def Job.sourceId (j : Job) (sw : Nat) : Nat := j.swid.getD ((pathSwitches j.paths).idxOf sw) sw

/-- The reduction keys that a source may use, by its number (R385, R388, R394): the one it has used last or its next generation, or generation
0 of a later epoch. Log 69. -/
def Job.redKeys (j : Job) (src : Nat) : List KeySlot :=
  let last := (j.redRx.find? fun x => x.1 = src).map Prod.snd
  (match last with | some k => [k, { k with gen := k.gen + 1 }] | none => []) ++
    (j.ekeys.filter fun e => match last with | some k => k.epoch < e.1 | none => true).map fun e => ⟨e.1, 0⟩

/-- Open a reduction-keyed flit (R384, R385): from another rank of the job that has not been revoked, or, with KF.SWS, from a switch that holds
the key; with the source's number and its key. Log 69. -/
def Job.openRed (j : Job) (f : Flit) : Option (Nat × KeySlot × List Byte) :=
  let sws := f.kf.getLsbD 2
  let n := f.src.toNat
  let src := if sws then 65536 + n else n
  let known := if sws then j.switches.any fun x => j.sourceId x.sw = n else decide (n < j.count && n ≠ j.rank) && !j.gone.contains n
  if !known || f.kind ≠ 1 || 8 ≤ f.kf.toNat || f.dst.toNat ≠ j.rank then none
  else ((j.redKeys src).filter fun k => k.gen % 2 = f.kf.toNat % 2).findSome? fun k =>
    let ki := flitKey (j.redKeyOf sws k n) f.seq.toNat
    (Config.gcmOpen ki.1 ki.2 (flitHeader f.seq f.kind f.kf f.src f.dst) f.ct f.tag).map fun pt => (src, k, pt)

/-- A contribution or partial arrives in a reduction-keyed flit (R359, R384): it enters this home's receive-reduce unit. -/
def State.takePart (s : State) (ch : Nat) (src : Nat) (k : KeySlot) (pt : List Byte) : State :=
  let s := s.modJob (ch / 65536) fun j => { j with redRx := (src, k) :: j.redRx.filter fun x => x.1 ≠ src }
  match Config.partOf pt with
  | some c => if nodeOk c && c.home = s.rankOfJob c.job && c.job = ch / 65536 then (s.arrive c).1 else s.send (.delivered ch 1 pt)
  | none => s.send (.delivered ch 1 pt)

/-- FLIT_RECEIVE (R282, R384 to R386): the flit is accepted, acknowledged and does what it carries; or it is dropped and asked for again. A
flit of a rank without a channel is dropped (R394). SPDM bytes of a switch come in clear. -/
def execFlitReceive (ch : Nat) (f : Flit) (s : State) : Ans State :=
  let port := (tget {} s.routes (ch % 65536)).port.toNat
  match s.job (ch / 65536) with
  | none => .next (s.countDrop port)
  | some j =>
    if f.kind = 5 then .next (s.send (.delivered ch 5 (f.ct ++ f.tag)))
    else if f.kf.getLsbD 1 then
      .next (match j.openRed f with | some (src, k, pt) => s.takePart ch src k pt | none => s.countDrop port)
    else match s.channel ch with
      | none => .next (s.countDrop port)
      | some c => match (if c.failed then none else s.openFlit c j.rank f) with
        | none => .next (s.dropFlit ch c)
        | some (pt, other) =>
          let c' := c.accepted (f.kind = 3) other s.linkLimits (s.now + s.micros s.host.lkDrain.toNat)
          let s := s.setChannel ch c'
          .next ((if f.kind = 4 then s else s.control ch).takeFlit ch c f.kind pt)

/-- RETRY_REQUEST (R386): a retry request of the peer. -/
def execRetryRequest (ch : Nat) (slot : Bool) (seq : DWord) (s : State) : Ans State := .next (s.resend ch slot seq)

/-- RETRY_REPEAT (R386): the receiver repeats its retry request every 10 µs until the flit arrives. -/
def execRetryRepeat (ch : Nat) (s : State) : Ans State :=
  match s.channel ch with
  | none => off_ "RETRY_REPEAT"
  | some c =>
    if c.drops = 0 || c.failed || s.now < c.retryAt then off_ "RETRY_REPEAT"
    else .next ((s.setChannel ch { c with retryAt := s.now + s.micros 10, retryDue := true }).control ch)

/-- CHANNEL_ACK (R386, R388): an acknowledgement of the peer. -/
def execChannelAck (ch : Nat) (slot : Bool) (seq : DWord) (s : State) : Ans State := .next (s.acked ch slot seq)

/-- KEY_DRAIN_EXPIRY (R388): DRAIN µs after the marker, the receiver erases the old slot; a next key that waited for it is installed. -/
def execKeyDrainExpiry (ch : Nat) (s : State) : Ans State :=
  match s.channel ch with
  | none => off_ "KEY_DRAIN_EXPIRY"
  | some c => match c.drain with
    | some (t, slot) =>
      if s.now < t then off_ "KEY_DRAIN_EXPIRY"
      else
        let c : Channel := { (c.setRx slot none) with drain := none }
        .next (s.setChannel ch (if c.rxNext.isSome then c.installRx else c))
    | none => off_ "KEY_DRAIN_EXPIRY"

/-- Abort the scan rounds that reach a rank of a job (R336, R387, R394). -/
def State.abortScans (s : State) (j : Job) (rank : Nat) : State :=
  s.allLaunches.foldl (fun s x =>
    if !j.ctxs.contains x.2.ctx then s
    else (List.range x.2.scans.length).foldl (fun s k =>
      match x.2.scans[k]? with
      | some c =>
        if c.wide && c.rbase ≤ rank && rank ≤ c.rankOf (c.leaves - 1) then s.abortRound x.1 k else s
      | none => s) s) s

/-- The accesses of a thread that wait for a value from a rank, with what is known of each and whether it changes memory. -/
def Thread.asked (t : Thread) (rank : Nat) : List (LateReport × Bool) :=
  t.ilocks.filterMap fun i => match i.home with
    | some h =>
      if h.die.isNone && h.rank = rank then
        some ({ launch := t.launch, tid := t.ctl.tid.toNat, pc := h.pc, step := t.step, token := some i.token
                info := { cause := causeXlate, addr := h.va, remote := true, wr := h.atom, slot := 2 } }, h.atom)
      else none
    | none => none

/-- An access to a rank that can no longer answer is reported (R260, R387, R394): as ATOMIC_LOST with a DETAIL where its home had applied it,
which is a free value, and otherwise as XLATE with DETAIL 6. Log 70. -/
def State.loseAccess (s : State) (detail : BitVec 8) (r : LateReport × Bool) : State :=
  let applied := r.2 && Config.freeBool s.freeCtr
  let info : TrapInfo := { r.1.info with
    cause := if applied then cLost else causeXlate, detail := if applied then detail else 6, applied := applied }
  s.draw.report { r.1 with info := info }

/-- The accesses in flight from a job's contexts to a rank are reported (R387, R394): those of threads, and the refusal of those of agents.
Log 70, 130. -/
def State.loseAway (s : State) (j : Job) (rank : Nat) (detail : BitVec 8) : State :=
  let s := (s.allLaunches.filter fun x => j.ctxs.contains x.2.ctx).foldl (fun s x =>
    let hit (a : Ack) : Bool := a.va.isSome && a.rank = rank
    let acks := (x.2.acks.filter hit).map fun a =>
      (({ launch := x.1, tid := a.tid, pc := a.pc, step := a.step
          info := { cause := causeXlate, addr := a.va.getD 0, remote := true, wr := true, slot := 2 } } : LateReport), true)
    let rs := (s.threadsOf x.1).flatMap (fun t => t.asked rank) ++ acks
    rs.foldl (fun s r => s.loseAccess detail r) (s.modLaunch x.1 fun l => { l with acks := l.acks.filter fun a => !hit a })) s
  (s.away.filter fun x => j.ctxs.contains x.ctx && x.rank = rank).foldl (fun s x =>
    (({ s with away := s.away.erase x } : State).awayAcked x 1).getD s) s

/-- CHANNEL_FAIL (R387): one flit dropped 16 times over more than 10 ms fails the channel from a peer: LKERR.FAIL and the LINK interrupt,
PATH_LOST for collectives and an abort for scan rounds that use it, and a report for each remote access in flight. -/
def execChannelFail (ch : Nat) (s : State) : Ans State :=
  match s.channel ch, s.job (ch / 65536) with
  | some c, some j =>
    if c.failed || c.drops < 16 || s.now ≤ c.dropAt + s.micros 10000 then off_ "CHANNEL_FAIL"
    else
      let f (p : Port) : Port := { p with fail := true }
      let s : State := { s with ports := tmod {} s.ports (s.portOf c) f }
      let s := ((s.setChannel ch { c with failed := true, retryDue := false }).cause 2).failRecords 6 fun r =>
        j.ctxs.contains r.ctx && r.started && r.ranks.contains c.peer
      .next ((s.abortScans j c.peer).loseAway j c.peer 1)
  | _, _ => off_ "CHANNEL_FAIL"

/-- Every channel of every locked job crosses its threshold now (R388, R389). -/
def State.rekeyAll (s : State) : State :=
  let g (c : Channel) : Channel := ({ c with force := true } : Channel).installTx
  let f (j : Job) : Job := { j with force := true }
  { s with trust := { s.trust with channels := s.trust.channels.map fun x => (x.1, x.2.map g)
                                   jobs := s.trust.jobs.map fun x => (x.1, x.2.map f) } }

/-- RKEY (R389). -/
def execRkey (s : State) : Ans State := .next s.rekeyAll

/-! ### Switches (R391, R392) -/

/-- Whether a switch's answer passes its attestation: its chain and signature verify, and the digest of its measurements is in SWD
(R391). -/
def attests (j : Job) (m : SwitchReport) : Bool :=
  m.answered && (match Config.certKey m.cert with | some k => Config.falconVerify k m.meas m.sig | none => false) &&
    j.swd.contains (Config.sha384 m.meas)

/-- Whether a switch stands on a route of a job. -/
def Job.onPath (j : Job) (sw : Nat) : Bool := j.paths.any fun p => p.2.contains sw

/-- Set ATT in the entries of the ranks whose every switch holds the key (R391). -/
def State.setAtt (s : State) (j : Job) : State :=
  let keyed (k : Nat) : Bool := j.switches.any fun x => x.sw = k
  let f (r : Route) : Route := { r with att := true }
  { s with routes := (j.paths.filter fun p => p.2 ≠ [] && p.2.all keyed).foldl (fun t p => tmod {} t p.1 f) s.routes }

/-- KR of a job's epoch. -/
def Job.kr (j : Job) : BitVec 256 := ((j.ekeys.find? fun e => e.1 = j.epoch).map fun e => e.2.kr).getD 0

/-- Note a switch as keyed, with its measurements and the time. -/
def Job.keyed (j : Job) (m : SwitchReport) (now : Nat) : Job :=
  { j with switches := ⟨m.sw, m.meas, now⟩ :: j.switches.filter fun x => x.sw ≠ m.sw }

/-- SWITCH_ATTEST (R391): a switch that passes is sent the reduction key and its SWID inside a session, and ATT is set where every switch of a
route holds it. Log 67. -/
def execSwitchAttest (jslot : Nat) (m : SwitchReport) (s : State) : Ans State :=
  match s.job jslot with
  | none => off_ "SWITCH_ATTEST"
  | some j =>
    if !j.onPath m.sw then off_ "SWITCH_ATTEST"
    else if !attests j m then .next s
    else
      let t := (s.modJob jslot fun j => j.keyed m s.now).sendSwitch j.rank m.sw (Config.switchKey j.kr (j.sourceId m.sw) s.freeCtr)
      .next (t.setAtt (j.keyed m s.now))

/-- Withdraw a switch (R392): ATT falls on every route through it, and the records that chose a path through it finish with
PATH_LOST. -/
def State.withdraw (s : State) (jslot : Nat) (j : Job) (sw : Nat) : State :=
  let s := s.clearAtt fun r => (j.paths.any fun p => p.1 = r && p.2.contains sw)
  (s.modJob jslot fun j => { j with switches := j.switches.filter fun x => x.sw ≠ sw }).failRecords 6 fun r =>
    j.ctxs.contains r.ctx && r.inSwitch.contains sw

/-- SWITCH_RECHECK (R392): RECHK seconds after it was last challenged a keyed switch is challenged again; a failed challenge or a changed
digest withdraws it. Log 67. -/
def execSwitchRecheck (jslot : Nat) (m : SwitchReport) (s : State) : Ans State :=
  match s.job jslot with
  | none => off_ "SWITCH_RECHECK"
  | some j => match j.switches.find? fun x => x.sw = m.sw with
    | none => off_ "SWITCH_RECHECK"
    | some x =>
      if s.now < x.at_ + s.micros (j.rechk * 1000000) then off_ "SWITCH_RECHECK"
      else
        let s := s.askSwitch j.rank m.sw
        .next (if attests j m && Config.sha384 m.meas = Config.sha384 x.meas then s.modJob jslot fun j => j.keyed m s.now
          else s.withdraw jslot j m.sw)

/-- LOST_HEARTBEAT (R392): a keyed switch whose session closed or whose heartbeat is lost is withdrawn. -/
def execLostHeartbeat (jslot sw : Nat) (s : State) : Ans State :=
  match s.job jslot with
  | none => off_ "LOST_HEARTBEAT"
  | some j => if j.switches.any fun x => x.sw = sw then .next (s.withdraw jslot j sw) else off_ "LOST_HEARTBEAT"

/-! ### Revocation (R393 to R395) -/

/-- The epoch's keys on every channel of a job slot but those of a rank (R394). -/
def State.newEpochs (s : State) (jslot e rank : Nat) : State :=
  { s with trust := { s.trust with
      channels := (s.trust.channels.filter fun x => x.1 ≠ channelNo jslot rank).map fun x =>
        if x.1 / 65536 = jslot then (x.1, x.2.map fun c => c.newEpoch e s.linkLimits) else x } }

/-- A member that holds the object and the new epoch's keys applies the revocation, in the order of R394; switches are attested and keyed
anew. Log 67, 70. -/
def State.applyRevoke (s : State) (jslot : Nat) (j : Job) (rank e : Nat) (keys : EpochKeys) : State :=
  let cut (r : Route) : Route := { r with v := false, att := false }
  let s : State := { s with routes := tmod {} s.routes rank cut }
  let rids := s.records.filterMap fun x => x.2.bind fun r =>
    if r.loaded && j.ctxs.contains r.ctx && r.ranks.contains rank then some r.rid else none
  let s := s.failRecords 7 fun r => j.ctxs.contains r.ctx && r.ranks.contains rank
  let s : State := { s with partials := s.partials.filter fun p => !(p.val.job = jslot && rids.contains p.val.rid) }
  let s := ((s.abortScans j rank).loseAway j rank 3).newEpochs jslot e rank
  let s := (s.clearAtt fun r => (j.paths.any fun p => p.1 = r)).modJob jslot fun j =>
    { j with epoch := e, red := ⟨0, 0, s.linkLimits.1, s.linkLimits.2⟩, ekeys := j.ekeys ++ [(e, keys)], gone := rank :: j.gone, revoke := none
             newKeys := none, switches := [] }
  (pathSwitches j.paths).foldl (fun s w => s.askSwitch j.rank w) s

/-- What a REVOKE object does (R373, R393 to R395): accepted where its signature verifies, its job is locked and its epoch is the next; one that
names this package freezes the job's masters and unbinds it, any other is applied once the epoch's keys are held; every other object is
dropped. Log 62. -/
def State.revokeJob (s : State) (m : SignedRevoke) : State :=
  match s.jobSlot m.jobid with
  | some (slot, j) =>
    if Config.falconVerify j.verifier m.raw m.sig && m.epoch = j.epoch + 1 then
      let s := s.extend (8 + slot) (m.raw ++ m.sig)
      if m.rank = j.rank then (s.freezeJob j).unbindJob slot j
      else match j.newKeys with
        | some keys => s.applyRevoke slot j m.rank m.epoch keys
        | none => s.modJob slot fun j => { j with revoke := some (m.rank, m.epoch) }
    else s
  | none => s

/-- REVOKE_OBJECT (R379, R393): the object comes through the mailbox; the answer to it is empty. Log 62. -/
def execRevokeObject (m : SignedRevoke) (s : State) : Ans State := s.request "REVOKE_OBJECT" (.revoke m) ((s.revokeJob m).answer [])

/-- The session is one that the verifier of a job has opened, with mutual authentication (R380, R393). -/
def State.heldBy (s : State) (j : Job) : Bool :=
  match s.trust.session with
  | some x => x.mutualAuth && x.verifier = j.verifier
  | none => false

/-- REVOKE_APPLY (R393, R394): the verifier sends the new epoch's keys inside the member's session; the member applies the revocation, or holds
the keys until the object is there. Log 62, 67. -/
def execRevokeApply (jslot : Nat) (keys : EpochKeys) (s : State) : Ans State :=
  s.request "REVOKE_APPLY" (.epochKeys jslot keys) (match s.job jslot with
    | none => s.answerError spdmInvalid
    | some j =>
      if !s.heldBy j then s.answerError spdmInvalid
      else match j.revoke with
        | some (rank, e) => (s.applyRevoke jslot j rank e keys).answer []
        | none => (s.modJob jslot fun j => { j with newKeys := some keys }).answer [])

/-! ### IDE streams and TDIs (R383, R396) -/

/-- TDISP_REQUEST (R383, R396): a stream is set up for a TDI, or the TDI moves between CONFIG_UNLOCKED, CONFIG_LOCKED and RUN; a request
that the TDI's state does not admit is answered with an error. -/
def execTdispRequest (r : TdispReq) (s : State) : Ans State :=
  let st (t : Nat) : TdiState := tget .configUnlocked s.trust.tdis t
  let set (t : Nat) (x : TdiState) : Ans State :=
    .next ({ s with trust := { s.trust with tdis := tset .configUnlocked s.trust.tdis t x } } : State)
  match r with
  | .setupStream t k =>
    if 8 ≤ t ∨ 8 ≤ k then .next (s.send (.spdmError spdmInvalid))
    else
      let f (x : IdeStream) : IdeStream := { x with tdi := some t }
      .next { s with trust := { s.trust with streams := tmod {} s.trust.streams k f } }
  | .lockInterface t =>
    if t < 8 ∧ st t = .configUnlocked then set t .configLocked else .next (s.send (.spdmError spdmInvalid))
  | .startInterface t =>
    if t < 8 ∧ st t = .configLocked then set t .run else .next (s.send (.spdmError spdmInvalid))
  | .stopInterface t => if t < 8 then set t .configUnlocked else .next (s.send (.spdmError spdmInvalid))

end Sys2Proof.Machine
end

