-- ==== Sys2Proof/Machine/Host.lean ====
section
/-! DEFINITION. The host interface, reset and bring-up, soft errors, power and temperature (R5, R285, R286, R338, R339, R361, R369,
R378, R383, R389, R396 to R405): what a write of each device register does, and the events of the host and of the power
controller. -/

namespace Sys2Proof.Machine

/-- A field of a register's value. -/
def wfield (v : DWord) (lo w : Nat) : Nat := bits v.toNat lo w

/-! ### Queues (R338, R339, R403) -/

/-- A write of WIDX (R339): accepted where it lies within the ring, else NERR. -/
def State.writeWidx (s : State) (q : Nat) (w : Word) : State :=
  s.modQueue q fun d => if (w - d.ridx).toNat ≤ d.ring then { d with widx := w, pend := true } else { d with nerr := true }

/-- A write of QBASE (R338): ignored while EN = 1. -/
def State.writeQbase (s : State) (q : Nat) (v : DWord) : State :=
  s.modQueue q fun d => if d.en then d else { d with base := BitVec.ofNat 64 (wfield v 12 46 * 2 ^ 12) }

/-- A write of EN (R338): from 0 to 1 it resumes fetch, and a stopped queue runs again (R342, R350); one that is being reset stays so until
the reset ends (R349). Log 71. -/
def Queue.setEn (d : Queue) (b : Bool) : Queue :=
  if b && !d.en then { d with en := b, st := if d.st = 3 then 3 else 0, seen := none } else { d with en := b }

/-- A write of QCFG (R338): while EN = 1 only EN is written. -/
def State.writeQcfg (s : State) (q : Nat) (v : DWord) : State :=
  s.modQueue q fun d =>
    let d : Queue :=
      if d.en then d
      else
        let lsz := wfield v 0 5
        { d with priv := v.getLsbD 62, ctx := BitVec.ofNat 8 (wfield v 48 8), weight := BitVec.ofNat 8 (max 1 (wfield v 40 8))
                 prio := BitVec.ofNat 2 (wfield v 38 2), quant := BitVec.ofNat 16 (max 1 (wfield v 16 16))
                 evec := BitVec.ofNat 11 (wfield v 5 11), lsz := BitVec.ofNat 5 (if 4 ≤ lsz ∧ lsz ≤ 20 then lsz else 4) }
    d.setEn (v.getLsbD 63)

/-- A write of QSTAT (R338): RIDX while EN = 0, where fetch then resumes, and NERR W1C. -/
def State.writeQstat (s : State) (q : Nat) (v : DWord) : State :=
  s.modQueue q fun d =>
    { d with seen := if d.en then d.seen else none, ridx := if d.en then d.ridx else BitVec.ofNat 32 (wfield v 32 32), nerr := d.nerr && !v.getLsbD 9 }

/-- WIDX_WRITE (R339, R397): an offset beyond BAR2 ignores the write. -/
def execWidxWrite (q : Nat) (w : Word) (s : State) : Ans State :=
  .next (if q < 1024 then s.writeWidx q w else s)

/-- QCFG_WRITE (R338); beyond the last queue the offset is reserved and ignores the write (R6, R398). -/
def execQcfgWrite (q : Nat) (v : DWord) (s : State) : Ans State :=
  .next (if q < 1024 then s.writeQcfg q v else s)

/-- QSTAT_WRITE (R338); beyond the last queue the offset is reserved and ignores the write (R6, R398). -/
def execQstatWrite (q : Nat) (v : DWord) (s : State) : Ans State :=
  .next (if q < 1024 then s.writeQstat q v else s)

/-- PGRQ_POP (R403): a read of PGRQ answers its head and pops it. -/
def execPgrqPop (s : State) : Ans State := .next ((s.send (.reply (natBytes 8 s.host.pageHead))).popPage)

/-- A write of PGRSP (R350, R403): the fetcher fetches again, or the queue becomes BADRING; ignored outside STATE 2. -/
def State.answerPage (s : State) (v : DWord) : State :=
  s.modQueue (wfield v 0 10) fun d => if d.st = 2 then { d with st := if v.getLsbD 16 then 0 else 4 } else d

/-- PGRSP (R403). -/
def execPgrsp (v : DWord) (s : State) : Ans State := .next (s.answerPage v)

/-! ### Reset and bring-up (R399 to R402) -/

/-- A cold reset (R400, R401): every register, key, measurement, memory line and binding is lost; a blown security version applies. The
fuses stay, and so do what the outside has still to send and what has been sent to it. -/
def State.cold (s : State) : State :=
  let r := State.reset
  let fuses (d : Nat) : Die := { (r.die d) with upper := (s.die d).upper }
  { r with now := s.now, cyc0 := s.now, inputs := s.inputs, freeCtr := s.freeCtr, outbox := s.outbox, tokens := s.tokens
           dies := Vector.ofFn fun d => fuses d
           trust := { r.trust with svn := s.trust.nextSvn.getD s.trust.svn } }

/-- COLD_RESET (R396, R399, R400). -/
def execColdReset (s : State) : Ans State := .next s.cold

/-- The firmware cores are stopped, their data memory is cleared, the accepted sections are loaded again and they are released (R400);
without an accepted image the cores stay held. Log 74. -/
def State.resetFirmware (s : State) : State :=
  let s := (List.range 4).foldl (fun s k => s.modCore (256 + k) fun _ => {}) s
  if s.trust.bootCode = 1 then s.startFirmware else s

/-- FWRST (R400). -/
def execFwrst (s : State) : Ans State := .next s.resetFirmware

/-- TRAIN (R400): accepted only while BOOTST.CODE = 1 and training has not been done. Log 73. -/
def State.startTraining (s : State) : State :=
  if s.trust.bootCode = 1 && !s.host.trdone && !s.host.training then { s with host := { s.host with training := true } } else s

/-- TRAIN (R400). -/
def execTrain (s : State) : Ans State := .next s.startTraining

/-- TRAINING_DONE (R275, R400, R402): key id 0 is drawn, every DRAM line is zero with id 0 and generation 0, and TRDONE is set; a stack
that failed sets TRERR, and its die is fenced. -/
def execTrainingDone (failed : List Nat) (s : State) : Ans State :=
  if !s.host.training || failed.any (16 ≤ ·) then off_ "TRAINING_DONE"
  else
    let k : MemKey := { installed := true, gen := 0, key := Config.drawKey s.freeCtr }
    let s : State := { s.draw with
      mem := [], tags := [], poison := [], releases := []
      trust := { s.trust with keys := tset {} s.trust.keys 0 k }
      host := { s.host with training := false, trdone := true, trerr := s.host.trerr || failed ≠ [] } }
    .next ((failed.map (· / 2)).eraseDups.foldl (fun s d => if (s.die d).fenced then s else s.fence d) s)

/-- A write of QEN (R21, R400): set only once TRDONE = 1, when it zeroes CYC; clearing it clears every queue's EN. Log 71. -/
def State.writeQen (s : State) (on : Bool) : State :=
  if on then
    if s.host.trdone && !s.host.qen then { s with host := { s.host with qen := true }, cyc0 := s.now } else s
  else if s.host.qen then
    { s with host := { s.host with qen := false }
             queues := (s.queues.map Prod.fst).foldl (fun t q => tmod {} t q fun d => d.setEn false) s.queues }
  else s

/-- QEN (R400). -/
def execQen (on : Bool) (s : State) : Ans State := .next (s.writeQen on)

/-- BLOW (R401): a value above the fused version and not above BOOTST.VER is blown, and applies from the next cold reset. Log 73. -/
def State.blow (s : State) : State :=
  if (s.trust.nextSvn.getD s.trust.svn).toNat < s.trust.nsvn.toNat && s.trust.nsvn.toNat ≤ s.trust.bootVer.toNat then
    { s with trust := { s.trust with nextSvn := some s.trust.nsvn } } else s

/-- FUSE_BLOW (R401). -/
def execFuseBlow (s : State) : Ans State := .next s.blow

/-- A write of FZREL (R378): the IDE stream that an entry of the freeze log names is released. -/
def State.releaseFreeze (s : State) (i : Nat) : State :=
  match s.trust.freezes[i]? with
  | some e =>
    let f (x : IdeStream) : IdeStream := { x with frozen := false }
    if e.kind = 4 then { s with trust := { s.trust with streams := tmod {} s.trust.streams e.number f } } else s
  | none => s

/-- FZREL (R378). -/
def execFzrel (i : Nat) (s : State) : Ans State := .next (s.releaseFreeze i)

/-- CLR of RASC (R286). -/
def State.clearErrors (s : State) (die : Nat) : State := s.modDie die fun d => { d with ce := 0, ue := 0 }

/-- RASC_CLR (R286); beyond die 7 the offset is reserved and ignores the write (R6, R398). -/
def execRascClr (die : Nat) (s : State) : Ans State :=
  .next (if die < 8 then s.clearErrors die else s)

/-- A write of L2CV (R271, R400): after training and while queues are disabled, with every field a multiple of 16 and at least 128 MiB left for caching. -/
def State.writeL2cv (s : State) (die : Nat) (v : DWord) : State :=
  let r := wfield v 0 12
  let p := wfield v 12 12
  let f := wfield v 24 12
  let o := wfield v 36 12
  if s.host.qen || !s.host.trdone || r % 16 ≠ 0 || p % 16 ≠ 0 || f % 16 ≠ 0 || o % 16 ≠ 0 || (s.die die).l2m < r + p + f + o + 128 then s
  else s.modDie die fun d => { d with race := r, psb := p, spill := f, pool := o }

/-- L2CV_WRITE (R271); beyond die 7 the offset is reserved and ignores the write (R6, R398). -/
def execL2cvWrite (die : Nat) (v : DWord) (s : State) : Ans State :=
  .next (if die < 8 then s.writeL2cv die v else s)

/-- A write of MSPLIT (R272): WG from 0 to 96, before training. Log 73. -/
def State.writeMsplit (s : State) (v : DWord) : State :=
  if s.host.trdone || s.host.training || 96 < wfield v 0 7 then s
  else { s with host := { s.host with wg := BitVec.ofNat 7 (wfield v 0 7) } }

/-- MSPLIT_WRITE (R272). -/
def execMsplitWrite (v : DWord) (s : State) : Ans State := .next (s.writeMsplit v)

/-! ### Register writes (R5, R6, R398) -/

/-- A write of RSTCTL (R399). -/
def State.writeRstctl (s : State) (v : DWord) : State :=
  if v.getLsbD 63 then s.cold
  else
    let s := if v.getLsbD 62 then s.resetFirmware else s
    let s := s.writeQen (v.getLsbD 3)
    if v.getLsbD 1 then s.startTraining else s

/-- A write of LKCFG (R389), with its clamps; RKEY acts on the channels last. -/
def State.writeLkcfg (s : State) (v : DWord) : State :=
  let ilims := min 40 (max 8 (wfield v 0 6))
  let kms := min 24 (max 2 (wfield v 8 6))
  let kms := if ilims ≤ kms then ilims - 1 else kms
  let s : State := { s with host := { s.host with
    lkDrain := BitVec.ofNat 16 (max 1 (wfield v 32 16)), lkKms := BitVec.ofNat 6 kms, lkIlims := BitVec.ofNat 6 ilims } }
  if v.getLsbD 63 then s.rekeyAll else s

/-- A write of EMBC (R379): RLEN, DONE W1C, and GO. Log 65. -/
def State.writeEmbc (s : State) (v : DWord) : State :=
  let s : State := { s with trust := { s.trust with rlen := BitVec.ofNat 16 (wfield v 32 16), mbDone := s.trust.mbDone && !v.getLsbD 0 } }
  if v.getLsbD 48 then s.mailboxGo else s

/-- A write of FUSEP (R401). -/
def State.writeFusep (s : State) (v : DWord) : State :=
  let s : State := { s with trust := { s.trust with nsvn := BitVec.ofNat 16 (wfield v 0 16) } }
  if v.getLsbD 63 then s.blow else s

/-- A write of a register of the first page (R398). Log 89. -/
def State.writeBoot (s : State) (o : Nat) (v : DWord) : State :=
  match o with
  | 0x00 => if v.getLsbD 0 then s.bootAsk else s
  | 0x10 => s.writeRstctl v
  | 0x18 => { s with host := { s.host with intst := s.host.intst &&& ~~~(BitVec.ofNat 6 (wfield v 0 6)) } }
  | 0x20 => { s with host := { s.host with cap := BitVec.ofNat 12 (min 2600 (max 600 (wfield v 0 12))) } }
  | 0x30 => s.writeMsplit v
  | 0x38 => s.releaseFreeze (wfield v 0 6)
  | 0x40 => s.writeLkcfg v
  | 0x48 => s.writeEmbc v
  | 0x50 => s.writeFusep v
  | 0x60 => s.answerPage v
  | 0x68 => { s with host := { s.host with w4base := BitVec.ofNat 22 (wfield v 30 22) } }
  | _ => s

/-- A write of a die's register (R271, R286). -/
def State.writeDie (s : State) (d o : Nat) (v : DWord) : State :=
  match o with
  | 16 => s.writeL2cv d v
  | 24 =>
    let s := if v.getLsbD 63 then s.clearErrors d else s
    s.modDie d fun x => { x with poolOvf := x.poolOvf && !v.getLsbD 49 }
  | _ => s

/-- A write of LKERR or FARB of a port (R368, R389). Log 81. -/
def State.writePort (s : State) (p : Nat) (farb : Bool) (v : DWord) : State :=
  let f (x : Port) : Port :=
    if farb then { x with wcol := BitVec.ofNat 8 (wfield v 0 8), wcpy := BitVec.ofNat 8 (wfield v 8 8), wcmp := BitVec.ofNat 8 (wfield v 16 8) }
    else { x with fail := x.fail && !v.getLsbD 63 }
  { s with ports := tmod {} s.ports p f }

/-- A write of a context's word (R278): the driver's KEYMASK is ignored while JOB = 1. -/
def State.writeContext (s : State) (c o : Nat) (v : DWord) : State :=
  let f (x : Context) : Context :=
    if o = 0 then { x with v := v.getLsbD 0, root := BitVec.ofNat 38 (wfield v 14 38) }
    else if x.job then x else { x with keymask := v }
  { s with contexts := tmod {} s.contexts c f }

/-- A write of a pool entry's word (R314). -/
def State.writePool (s : State) (i o : Nat) (v : DWord) : State :=
  let f (x : Pool) : Pool :=
    if o = 0 then { x with tag := BitVec.ofNat 4 (wfield v 0 4), base := BitVec.ofNat 51 (wfield v 7 51) }
    else { x with v := v.getLsbD 63, ctx := BitVec.ofNat 8 (wfield v 40 8), lines := BitVec.ofNat 40 (wfield v 0 40) }
  { s with pools := tmod {} s.pools i f }

/-- A write of a predictor slot's word (R310). -/
def State.writePred (s : State) (i o : Nat) (v : DWord) : State :=
  let lo : Word := BitVec.ofNat 32 (wfield v 0 32)
  let hi : Word := BitVec.ofNat 32 (wfield v 32 32)
  let f (x : Predictor) : Predictor :=
    match o with
    | 0 => { x with h0 := lo, h1 := hi }
    | 8 => { x with h2 := lo, h3 := hi }
    | 16 => { x with miss := BitVec.ofNat 16 (wfield v 16 16), nh := min 4 (wfield v 0 3) }
    | _ => x
  { s with preds := tmod {} s.preds i f }

/-- A write of a queue's register (R338). -/
def State.writeQueue (s : State) (q o : Nat) (v : DWord) : State :=
  match o with
  | 0 => s.writeQbase q v
  | 8 => s.writeQcfg q v
  | 16 => s.writeQstat q v
  | _ => s

/-- A write of TRGC or TRGA (R361, R362): VAL and CTX only while EN = 0. A greater value is an increment from the host, and fires. Log 72. -/
def State.writeTrigger (s : State) (i o : Nat) (v : DWord) : State :=
  let t := tget {} s.triggers i
  if o = 0 then
    if t.en then s
    else if t.val.toNat ≤ v.toNat then s.trigAdd i (v.toNat - t.val.toNat)
    else
      let f (x : Trigger) : Trigger := { x with val := v }
      { s with triggers := tmod {} s.triggers i f }
  else
    let f (x : Trigger) : Trigger := { x with en := v.getLsbD 63, ctx := if x.en then x.ctx else BitVec.ofNat 8 (wfield v 8 8) }
    { s with triggers := tmod {} s.triggers i f }

/-- A write of the aligned 8-byte register at a BAR0 offset (R398); one that is read-only, reserved or not listed is ignored. -/
def State.writeReg (s : State) (o : Nat) (v : DWord) : State :=
  if o < 0x1000 then s.writeBoot o v
  else if o < 0x1200 then s.writeDie ((o - 0x1000) / 64) (o % 64) v
  else if o < 0x2000 then s
  else if o < 0x2100 then s.writePort (o % 0x80 / 8) (decide (0x2080 ≤ o)) v
  else if o < 0x10000 then s
  else if o < 0x11000 then s.writeContext ((o - 0x10000) / 16) (o % 16) v
  else if o < 0x11400 then s.writePool ((o - 0x11000) / 16) (o % 16) v
  else if o < 0x12000 then s
  else if o < 0x14000 then s.writePred ((o - 0x12000) / 32) (o % 32) v
  else if o < 0x20000 then s
  else if o < 0x28000 then s.writeQueue ((o - 0x20000) / 32) (o % 32) v
  else if o < 0x40000 then s
  else if o < 0x48000 then s.writeTrigger ((o - 0x40000) / 4096 * 256 + o % 4096 / 16) (o % 16) v
  else s

/-- A write of a route entry (R369): the driver writes V and PORT. -/
def State.writeRoute (s : State) (r v : Nat) : State :=
  let f (x : Route) : Route := { x with v := v.testBit 15, port := BitVec.ofNat 4 v }
  { s with routes := tmod {} s.routes r f }

/-- A write of some bytes of BAR0 (R371, R379, R398): registers take 8 aligned bytes and route entries 2, any other size is ignored; the
mailbox's buffers and the staging memory take any, the staging memory until an image is accepted. -/
def State.deviceWrite (s : State) (off : Nat) (bs : List Byte) : State :=
  if 0x100000 ≤ off && off < 0x120000 then
    if bs.length = 2 && off % 2 = 0 then s.writeRoute ((off - 0x100000) / 2) (bytesNat bs) else s
  else if 0x200000 ≤ off && off + bs.length ≤ 0x220000 then
    let n := 0x210000 - off
    { s with trust := { s.trust with mbReq := s.trust.mbReq.write (off - 0x200000) (bs.take n)
                                     mbResp := s.trust.mbResp.write (off - 0x210000) (bs.drop n) } }
  else if 0x400000 ≤ off && off + bs.length ≤ 0x800000 then
    if s.trust.bootCode = 1 then s else { s with trust := { s.trust with staging := s.trust.staging.write (off - 0x400000) bs } }
  else if bs.length = 8 && off % 8 = 0 then s.writeReg off (BitVec.ofNat 64 (bytesNat bs))
  else s

/-- REGISTER_WRITE (R5, R398); an offset beyond BAR0 ignores the write (R397). -/
def execRegisterWrite (off : Nat) (bs : List Byte) (s : State) : Ans State :=
  .next (if off < 0x4000000 then s.deviceWrite off bs else s)

/-! ### Host requests to memory (R383, R397) -/

/-- The locked job whose key id a line carries. Log 75. -/
def State.lineJob (s : State) (line : Nat) : Option Job :=
  let t := s.tagOf line
  if t.1 = 0 then none
  else s.trust.jobs.findSome? fun x => x.2.bind fun j => if j.keys.contains t.1 then some j else none

/-- Whether a request to a job's line arrives on the IDE stream of the job's TDI in RUN (R383). Log 75. -/
def State.mayReach (s : State) (r : HostReq) (j : Job) : Bool :=
  match r.stream with
  | some k =>
    let x := tget {} s.trust.streams k
    x.tdi = some j.tdi && r.tdi = some j.tdi && tget .configUnlocked s.trust.tdis j.tdi = .run
  | none => false

/-- A refused request (R377, R378, R383): Unsupported Request, and its stream is frozen. -/
def State.refuse (s : State) (r : HostReq) (pa : Nat) : State :=
  match r.stream with
  | none => s.send .unsupported
  | some k =>
    let f (x : IdeStream) : IdeStream := { x with frozen := true }
    let s := s.freezeLog 4 3 k (BitVec.ofNat 64 pa)
    ({ s with trust := { s.trust with streams := tmod {} s.trust.streams k f } } : State).send .unsupported

/-- The line of a host request that goes by a job's key id, or by key id 0 (R397). Log 75. -/
def State.hostKey (s : State) (line : Nat) : Nat := if (s.lineJob line).isSome then (s.tagOf line).1 else 0

/-- An accepted request reads or writes each byte under its line's key (R274, R397). -/
def State.hostRead (s : State) (pa n : Nat) : List Byte := (List.range n).map fun i => s.readByte (s.hostKey ((pa + i) / 128)) (pa + i)
@[inherit_doc State.hostRead] def State.hostWrite (s : State) (pa : Nat) (bs : List Byte) : State :=
  (piecesGo 128 (bs.length / 128 + 2) 0 pa bs.length).foldl (fun s p =>
    (s.writePA (s.hostKey (p.2.1 / 128)) p.2.1 ((bs.drop p.1).take p.2.2)).endSeq p.2.1 p.2.2) s

/-- Whether memory answers a host request: every byte is backed and homed on a die that is not fenced. Log 76. -/
def State.hostBacked (s : State) (pa n : Nat) : Bool :=
  (unitsOf 128 pa n).all fun l => s.backed (128 * l) && !(s.die (homeDie (128 * l))).fenced

/-- The IDE stream of a request is frozen, and answers Unsupported Request (R377). -/
def State.streamFrozen (s : State) (r : HostReq) : Bool :=
  match r.stream with | some k => (tget ({} : IdeStream) s.trust.streams k).frozen | none => false

/-- A request to the device registers (R397, R398): a whole read of PGRQ pops its head (R403); beyond BAR0 it reads all ones and ignores
writes. -/
def State.hostRegs (s : State) (r : HostReq) : State :=
  if 0x4000000 ≤ r.off then if r.write then s else s.send (.reply (List.replicate r.len 0xFF))
  else if r.write then s.deviceWrite r.off r.bytes
  else
    let t := s.send (.reply (natBytes r.len (s.deviceRead r.off r.len)))
    if r.off = 0x58 && r.len = 8 then t.popPage else t

/-- A request to the notify pages (R339): WIDX takes 4 bytes; other offsets ignore writes. -/
def State.hostNotify (s : State) (r : HostReq) : State :=
  if !r.write then s.send (.reply (s.notifyRead r.off r.len))
  else if r.off < 0x400000 && r.off % 4096 = 0 && r.bytes.length = 4 then s.writeWidx (r.off / 4096) (BitVec.ofNat 32 (bytesNat r.bytes))
  else s

/-- The size of BAR4 (R397): one of the powers of two from 1 GiB to 2 TiB, which the host has chosen. Log 76. -/
def barSize : Nat := 2 ^ (30 + Config.bar4Log % 12)

/-- A request through BAR4 (R383, R397): it is performed, or refused; an offset that is not backed, or beyond the window, reads all ones and
ignores writes. Log 75, 76, 89. -/
def State.hostWindow (s : State) (r : HostReq) : State :=
  let n := if r.write then r.bytes.length else r.len
  let pa := s.host.w4base.toNat * 2 ^ 30 + r.off
  if barSize < r.off + n || !s.hostBacked pa n then if r.write then s else s.send (.reply (List.replicate n 0xFF))
  else if (unitsOf 128 pa n).any fun l => match s.lineJob l with | some j => !s.mayReach r j | none => false then s.refuse r pa
  else if r.write then s.hostWrite pa r.bytes else s.send (.reply (s.hostRead pa n))

/-- HOST_REQUEST (R339, R377, R383, R397, R398): a request of the host to one of the three BARs; a frozen stream answers none. -/
def execHostRequest (r : HostReq) (s : State) : Ans State :=
  .next (if s.streamFrozen r then s.send .unsupported else match r.bar with | .regs => s.hostRegs r | .notify => s.hostNotify r | .window => s.hostWindow r)

/-! ### Soft errors (R207, R285, R286, R335, R402) -/

/-- The error counts of a die. Log 87. -/
def Die.countUe (d : Die) (pa : Nat) : Die := { d with ue := min (d.ue + 1) 0xFFFF, rasa := BitVec.ofNat 52 pa }

/-- A post's poisoned element. -/
def Post.mark (e : Nat) (p : Post) : Post := { p with sum := { p.sum with poison := p.sum.poison.put e true } }

/-- Mark a word of the claims that stand beside the occupant's, which follow it in the scratchpad in their order. Log 95. -/
def poisonBeside : Nat → List Claim → List Claim
  | _, [] => []
  | w, x :: xs => if w < x.size / 8 then { x with poison := x.poison.put w true } :: xs else x :: poisonBeside (w - x.size / 8) xs

/-- A double-bit error in a scratchpad word (R267): it marks the word of the claim that holds it. Log 95. -/
def Core.poisonWord (c : Core) (w : Nat) : Core :=
  if w < c.claim / 8 then { c with spoison := c.spoison.put w true } else { c with beside := poisonBeside (w - c.claim / 8) c.beside }

/-- What an uncorrectable error marks poisoned (R285, R335). Log 87, 95. -/
def State.poisonAt (s : State) (die : Nat) : ErrorPlace → State
  | .line pa => ({ s with poison := s.poison.put (pa / 128) true } : State).modDie die fun d => d.countUe pa
  | .scratch n w => s.modCore n fun c => c.poisonWord w
  | .acc n t => s.modCore n fun c => { c with thr := { c.thr with accPoison := c.thr.accPoison.put t true } }
  | .unitWord n w => s.modCore n fun c => { c with upoison := c.upoison.put w true }
  | .imem n b w => s.modCore n fun c =>
    { c with banks := vset c.banks b ((vget none c.banks b).map fun (g : Segment) => { g with poison := g.poison.put w true }) }
  | .carry l k leaf e => s.modScan l k fun c =>
    { c with posts := c.posts.map fun p => if p.leaf = leaf then p.mark e else p
             far := c.far.map fun x => if x.1 = leaf then (x.1, { x.2 with poison := x.2.poison.put e true }) else x
             carries := c.carries.map fun p => if p.leaf = leaf then p.mark e else p }
  | .node l k down d leaf e => s.modScan l k fun c =>
    { c with nodes := c.nodes.map fun n =>
        if n.down = down && n.d = d && n.leaf = leaf then { n with sum := { n.sum with poison := n.sum.poison.put e true } } else n }
  | .dieTables => s.fence die

/-- Whether an error's place exists on a die. -/
def State.placeOn (s : State) (die : Nat) : ErrorPlace → Bool
  | .line pa => s.backed pa && homeDie pa = die
  | .scratch n _ | .acc n _ | .unitWord n _ | .imem n _ _ => n < 256 && dieOf n = die
  | .carry l k .. | .node l k .. => (s.scan? l k).isSome
  | .dieTables => !(s.die die).fenced

/-- UNCORRECTABLE_ERROR (R285, R286): the unit is poisoned, the die's counters and RASA follow for its memory, and RAS is raised; an
error in a die's tables fences it (R402). -/
def execUncorrectableError (die : Nat) (w : ErrorPlace) (s : State) : Ans State :=
  if 8 ≤ die || !s.placeOn die w then off_ "UNCORRECTABLE_ERROR" else .next ((s.poisonAt die w).cause 1)

/-- SCRUB_PATROL (R285, R286): a patrol read finds nothing, corrects an error and writes it back, or finds an uncorrectable one. -/
def execScrubPatrol (die : Nat) (w : ScrubFind) (s : State) : Ans State :=
  if 8 ≤ die then off_ "SCRUB_PATROL"
  else match w with
    | .clean => .next s
    | .corrected => .next (s.modDie die fun d => { d with ce := min (d.ce + 1) 0xFFFFFFFF })
    | .uncorrectable pa =>
      if s.placeOn die (.line pa) then .next ((s.poisonAt die (.line pa)).cause 1) else off_ "SCRUB_PATROL"

/-! ### Power and temperature (R404, R405) -/

/-- 105 °C, 100 °C and 115 °C in units of 0.125 °C (R404, R405). -/
def tThr : Int := 840
@[inherit_doc tThr] def tLow : Int := 800
@[inherit_doc tThr] def tTrip : Int := 920

/-- A die's temperature is read; a die that reaches TTHR raises THERM (R402, R404). -/
def State.readTemp (s : State) (die : Nat) (t : Int) : State :=
  let was := (s.die die).temp.toInt
  let s := s.modDie die fun d => { d with temp := BitVec.ofInt 16 t }
  if tThr ≤ t && was < tThr then s.cause 3 else s

/-- The dies' temperatures are read. -/
def State.readTemps (s : State) (temps : List Int) : State :=
  ((temps.take 8).foldl (fun (x : Nat × State) t => (x.1 + 1, x.2.readTemp x.1 t)) (0, s)).2

/-- Every die's temperature meets a test. -/
def State.allTemps (s : State) (f : Int → Bool) : Bool := (List.range 8).all fun d => f (s.die d).temp.toInt

/-- The power controller's decision each millisecond (R404, R405): a step down for either limit; a step up after 10 ms below
CAP − 50 W, and each further one that it stays there, unless the thermal limit is in force. Log 77. -/
def HostIf.tick (h : HostIf) (watts : Nat) (hot cool : Bool) : HostIf :=
  let tlim := hot || (h.tlim && !cool)
  let above : Bool := h.cap.toNat < watts
  let below := if watts + 50 < h.cap.toNat then min 10 (h.below + 1) else 0
  let down : Bool := tlim || above
  let up : Bool := !down && 10 ≤ below && h.clk.toNat < 600
  let clk := if down then max 300 (h.clk.toNat - 25) else if up then h.clk.toNat + 25 else h.clk.toNat
  { h with pwr := BitVec.ofNat 16 watts, tlim := tlim, plim := above || (h.plim && clk < 600), clk := BitVec.ofNat 16 clk
           below := below }

/-- POWER_TICK (R404, R405). Log 78. -/
def execPowerTick (watts : Nat) (temps : List Int) (s : State) : Ans State :=
  let s := s.readTemps temps
  let hot := !s.allTemps (· < tThr)
  let cool := s.allTemps (· < tLow)
  let trip := !s.allTemps (· < tTrip)
  let h := s.host.tick watts hot cool
  .next { s with host := { h with stopped := h.stopped || trip } }

/-- THERMAL_TRIP (R405): a die at 115 °C stops every clock of the module. -/
def execThermalTrip (die : Nat) (temp : Int) (s : State) : Ans State :=
  if 8 ≤ die || temp < tTrip then off_ "THERMAL_TRIP"
  else
    let s := s.readTemp die temp
    .next { s with host := { s.host with stopped := true } }

end Sys2Proof.Machine
end

