-- ==== Sys2Proof/Machine/Dispatch.lean ====
section
/-! DEFINITION. The dispatch of one step: one arm for each constructor of Instr, each one direct call of its meaning. -/

namespace Sys2Proof.Machine

/-- The meaning of an instruction or event: its arm calls the definition that gives it. -/
def exec (i : Instr) (s : State) : Host.Outcome State Fault Refusal :=
  match i with
  | .br w => Sys2Proof.Machine.execBr w s
  | .call w => Sys2Proof.Machine.execCall w s
  | .bri w => Sys2Proof.Machine.execBri w s
  | .ret w => Sys2Proof.Machine.execRet w s
  | .loop w => Sys2Proof.Machine.execLoop w s
  | .loopr w => Sys2Proof.Machine.execLoopr w s
  | .lexit w => Sys2Proof.Machine.execLexit w s
  | .pand w => Sys2Proof.Machine.execPand w s
  | .por w => Sys2Proof.Machine.execPor w s
  | .pxor w => Sys2Proof.Machine.execPxor w s
  | .pandn w => Sys2Proof.Machine.execPandn w s
  | .pmov w => Sys2Proof.Machine.execPmov w s
  | .mfc w => Sys2Proof.Machine.execMfc w s
  | .mtc w => Sys2Proof.Machine.execMtc w s
  | .waitc w => Sys2Proof.Machine.execWaitc w s
  | .waito w => Sys2Proof.Machine.execWaito w s
  | .dsync w => Sys2Proof.Machine.execDsync w s
  | .susp w => Sys2Proof.Machine.execSusp w s
  | .exit w => Sys2Proof.Machine.execExit w s
  | .confw w => Sys2Proof.Machine.execConfw w s
  | .trap w => Sys2Proof.Machine.execTrap w s
  | .sysc w => Sys2Proof.Machine.execSysc w s
  | .reth w => Sys2Proof.Machine.execReth w s
  | .lease w => Sys2Proof.Machine.execLease w s
  | .unlease w => Sys2Proof.Machine.execUnlease w s
  | .bkpt w => Sys2Proof.Machine.execBkpt w s
  | .segpf w => Sys2Proof.Machine.execSegpf w s
  | .grab w => Sys2Proof.Machine.execGrab w s
  | .emptyBundle h => Sys2Proof.Machine.execEmptyBundle h s
  | .add w => Sys2Proof.Machine.execAdd w s
  | .sub w => Sys2Proof.Machine.execSub w s
  | .mul w => Sys2Proof.Machine.execMul w s
  | .mulh w => Sys2Proof.Machine.execMulh w s
  | .div w => Sys2Proof.Machine.execDiv w s
  | .rem w => Sys2Proof.Machine.execRem w s
  | .and_ w => Sys2Proof.Machine.execAnd w s
  | .or_ w => Sys2Proof.Machine.execOr w s
  | .xor_ w => Sys2Proof.Machine.execXor w s
  | .andn w => Sys2Proof.Machine.execAndn w s
  | .shl w => Sys2Proof.Machine.execShl w s
  | .shr w => Sys2Proof.Machine.execShr w s
  | .rot w => Sys2Proof.Machine.execRot w s
  | .min_ w => Sys2Proof.Machine.execMin w s
  | .max_ w => Sys2Proof.Machine.execMax w s
  | .ext w => Sys2Proof.Machine.execExt w s
  | .clz w => Sys2Proof.Machine.execClz w s
  | .ctz w => Sys2Proof.Machine.execCtz w s
  | .popc w => Sys2Proof.Machine.execPopc w s
  | .bfx w => Sys2Proof.Machine.execBfx w s
  | .bfi w => Sys2Proof.Machine.execBfi w s
  | .cmp w => Sys2Proof.Machine.execCmp w s
  | .csel w => Sys2Proof.Machine.execCsel w s
  | .movi w => Sys2Proof.Machine.execMovi w s
  | .movh w => Sys2Proof.Machine.execMovh w s
  | .lea w => Sys2Proof.Machine.execLea w s
  | .sfadd w => Sys2Proof.Machine.execSfadd w s
  | .sfmul w => Sys2Proof.Machine.execSfmul w s
  | .sffma w => Sys2Proof.Machine.execSffma w s
  | .sfcmp w => Sys2Proof.Machine.execSfcmp w s
  | .sfcvt w => Sys2Proof.Machine.execSfcvt w s
  | .ldg w => Sys2Proof.Machine.execLdg w s
  | .stg w => Sys2Proof.Machine.execStg w s
  | .ldl w => Sys2Proof.Machine.execLdl w s
  | .stl w => Sys2Proof.Machine.execStl w s
  | .vldg w => Sys2Proof.Machine.execVldg w s
  | .vstg w => Sys2Proof.Machine.execVstg w s
  | .vldl w => Sys2Proof.Machine.execVldl w s
  | .vstl w => Sys2Proof.Machine.execVstl w s
  | .vgtg w => Sys2Proof.Machine.execVgtg w s
  | .vscg w => Sys2Proof.Machine.execVscg w s
  | .vgtl w => Sys2Proof.Machine.execVgtl w s
  | .vscl w => Sys2Proof.Machine.execVscl w s
  | .ldf w => Sys2Proof.Machine.execLdf w s
  | .ldfe w => Sys2Proof.Machine.execLdfe w s
  | .ste w => Sys2Proof.Machine.execSte w s
  | .stfl w => Sys2Proof.Machine.execStfl w s
  | .fez w => Sys2Proof.Machine.execFez w s
  | .feq w => Sys2Proof.Machine.execFeq w s
  | .aadd w => Sys2Proof.Machine.execAadd w s
  | .afadd w => Sys2Proof.Machine.execAfadd w s
  | .amin w => Sys2Proof.Machine.execAmin w s
  | .amax w => Sys2Proof.Machine.execAmax w s
  | .aand w => Sys2Proof.Machine.execAand w s
  | .aor w => Sys2Proof.Machine.execAor w s
  | .axor w => Sys2Proof.Machine.execAxor w s
  | .axch w => Sys2Proof.Machine.execAxch w s
  | .acas w => Sys2Proof.Machine.execAcas w s
  | .ainsm w => Sys2Proof.Machine.execAinsm w s
  | .affcs w => Sys2Proof.Machine.execAffcs w s
  | .apls w => Sys2Proof.Machine.execApls w s
  | .redadd w => Sys2Proof.Machine.execRedadd w s
  | .redfadd w => Sys2Proof.Machine.execRedfadd w s
  | .redmin w => Sys2Proof.Machine.execRedmin w s
  | .redmax w => Sys2Proof.Machine.execRedmax w s
  | .redand w => Sys2Proof.Machine.execRedand w s
  | .redor w => Sys2Proof.Machine.execRedor w s
  | .redxor w => Sys2Proof.Machine.execRedxor w s
  | .reductionAck access => Sys2Proof.Machine.execReductionAck access s
  | .bari w => Sys2Proof.Machine.execBari w s
  | .barv w => Sys2Proof.Machine.execBarv w s
  | .barw w => Sys2Proof.Machine.execBarw w s
  | .fence w => Sys2Proof.Machine.execFence w s
  | .cpy w => Sys2Proof.Machine.execCpy w s
  | .copyComplete k => Sys2Proof.Machine.execCopyComplete k s
  | .qbind w => Sys2Proof.Machine.execQbind w s
  | .qstop w => Sys2Proof.Machine.execQstop w s
  | .qdrn w => Sys2Proof.Machine.execQdrn w s
  | .csub w => Sys2Proof.Machine.execCsub w s
  | .trig w => Sys2Proof.Machine.execTrig w s
  | .sigop w => Sys2Proof.Machine.execSigop w s
  | .pref w => Sys2Proof.Machine.execPref w s
  | .vadd u w => Sys2Proof.Machine.execVadd u w s
  | .vsub u w => Sys2Proof.Machine.execVsub u w s
  | .vmul u w => Sys2Proof.Machine.execVmul u w s
  | .vfma u w => Sys2Proof.Machine.execVfma u w s
  | .vfms u w => Sys2Proof.Machine.execVfms u w s
  | .vfnma u w => Sys2Proof.Machine.execVfnma u w s
  | .vmin u w => Sys2Proof.Machine.execVmin u w s
  | .vmax u w => Sys2Proof.Machine.execVmax u w s
  | .vabs u w => Sys2Proof.Machine.execVabs u w s
  | .vneg u w => Sys2Proof.Machine.execVneg u w s
  | .vand u w => Sys2Proof.Machine.execVand u w s
  | .vor u w => Sys2Proof.Machine.execVor u w s
  | .vxor u w => Sys2Proof.Machine.execVxor u w s
  | .vandn u w => Sys2Proof.Machine.execVandn u w s
  | .vshl u w => Sys2Proof.Machine.execVshl u w s
  | .vshr u w => Sys2Proof.Machine.execVshr u w s
  | .vsar u w => Sys2Proof.Machine.execVsar u w s
  | .vmulh u w => Sys2Proof.Machine.execVmulh u w s
  | .vclamp u w => Sys2Proof.Machine.execVclamp u w s
  | .vcmp u w => Sys2Proof.Machine.execVcmp u w s
  | .vsel u w => Sys2Proof.Machine.execVsel u w s
  | .vcvt u w => Sys2Proof.Machine.execVcvt u w s
  | .vpack u w => Sys2Proof.Machine.execVpack u w s
  | .vunpk u w => Sys2Proof.Machine.execVunpk u w s
  | .vrcp u w => Sys2Proof.Machine.execVrcp u w s
  | .vrsq u w => Sys2Proof.Machine.execVrsq u w s
  | .vsqrt u w => Sys2Proof.Machine.execVsqrt u w s
  | .vexp2 u w => Sys2Proof.Machine.execVexp2 u w s
  | .vlog2 u w => Sys2Proof.Machine.execVlog2 u w s
  | .vmovi u w => Sys2Proof.Machine.execVmovi u w s
  | .vmov u w => Sys2Proof.Machine.execVmov u w s
  | .vmovn u w => Sys2Proof.Machine.execVmovn u w s
  | .vbcast u w => Sys2Proof.Machine.execVbcast u w s
  | .vext u w => Sys2Proof.Machine.execVext u w s
  | .vidx u w => Sys2Proof.Machine.execVidx u w s
  | .vshuf u w => Sys2Proof.Machine.execVshuf u w s
  | .vxc u w => Sys2Proof.Machine.execVxc u w s
  | .vred u w => Sys2Proof.Machine.execVred u w s
  | .vscan u w => Sys2Proof.Machine.execVscan u w s
  | .kand u w => Sys2Proof.Machine.execKand u w s
  | .kor u w => Sys2Proof.Machine.execKor u w s
  | .kxor u w => Sys2Proof.Machine.execKxor u w s
  | .knot u w => Sys2Proof.Machine.execKnot u w s
  | .kpop u w => Sys2Proof.Machine.execKpop u w s
  | .mcfg w => Sys2Proof.Machine.execMcfg w s
  | .mwin w => Sys2Proof.Machine.execMwin w s
  | .mstep w => Sys2Proof.Machine.execMstep w s
  | .mstepComplete k => Sys2Proof.Machine.execMstepComplete k s
  | .mzero w => Sys2Proof.Machine.execMzero w s
  | .mzeroComplete k => Sys2Proof.Machine.execMzeroComplete k s
  | .amvr w => Sys2Proof.Machine.execAmvr w s
  | .amvrComplete k => Sys2Proof.Machine.execAmvrComplete k s
  | .amvw w => Sys2Proof.Machine.execAmvw w s
  | .amvwComplete k => Sys2Proof.Machine.execAmvwComplete k s
  | .mdrn w => Sys2Proof.Machine.execMdrn w s
  | .mdrnComplete k => Sys2Proof.Machine.execMdrnComplete k s
  | .mfin w => Sys2Proof.Machine.execMfin w s
  | .sopd w => Sys2Proof.Machine.execSopd w s
  | .sid w => Sys2Proof.Machine.execSid w s
  | .sidComplete k => Sys2Proof.Machine.execSidComplete k s
  | .scmb w => Sys2Proof.Machine.execScmb w s
  | .schk w => Sys2Proof.Machine.execSchk w s
  | .schkComplete k => Sys2Proof.Machine.execSchkComplete k s
  | .sfix w => Sys2Proof.Machine.execSfix w s
  | .sfixComplete k => Sys2Proof.Machine.execSfixComplete k s
  | .sxch w => Sys2Proof.Machine.execSxch w s
  | .sxchPost k => Sys2Proof.Machine.execSxchPost k s
  | .swt w => Sys2Proof.Machine.execSwt w s
  | .sstepAff w => Sys2Proof.Machine.execSstepAff w s
  | .sstepSsm w => Sys2Proof.Machine.execSstepSsm w s
  | .srd w => Sys2Proof.Machine.execSrd w s
  | .srdComplete k => Sys2Proof.Machine.execSrdComplete k s
  | .swr w => Sys2Proof.Machine.execSwr w s
  | .swrComplete k => Sys2Proof.Machine.execSwrComplete k s
  | .sspl w => Sys2Proof.Machine.execSspl w s
  | .ssplComplete k => Sys2Proof.Machine.execSsplComplete k s
  | .sfil w => Sys2Proof.Machine.execSfil w s
  | .sfilComplete k => Sys2Proof.Machine.execSfilComplete k s
  | .scld w => Sys2Proof.Machine.execScld w s
  | .scmv w => Sys2Proof.Machine.execScmv w s
  | .patld w => Sys2Proof.Machine.execPatld w s
  | .patsw w => Sys2Proof.Machine.execPatsw w s
  | .resultLanding => Sys2Proof.Machine.execResultLanding s
  | .interlockedResult k => Sys2Proof.Machine.execInterlockedResult k s
  | .trapEntry t => Sys2Proof.Machine.execTrapEntry t s
  | .waitTimeout => Sys2Proof.Machine.execWaitTimeout s
  | .waitSuspend => Sys2Proof.Machine.execWaitSuspend s
  | .lateReport r => Sys2Proof.Machine.execLateReport r s
  | .walkComplete die k => Sys2Proof.Machine.execWalkComplete die k s
  | .feedElement q => Sys2Proof.Machine.execFeedElement q s
  | .drainElement q => Sys2Proof.Machine.execDrainElement q s
  | .chunkRequest launch die => Sys2Proof.Machine.execChunkRequest launch die s
  | .stepStart launch core => Sys2Proof.Machine.execStepStart launch core s
  | .quantumExpiry => Sys2Proof.Machine.execQuantumExpiry s
  | .priorityPreempt die => Sys2Proof.Machine.execPriorityPreempt die s
  | .preemptRequest reason => Sys2Proof.Machine.execPreemptRequest reason s
  | .gangSwap launch inst => Sys2Proof.Machine.execGangSwap launch inst s
  | .spillSave => Sys2Proof.Machine.execSpillSave s
  | .resume launch cont core => Sys2Proof.Machine.execResume launch cont core s
  | .replayLanding => Sys2Proof.Machine.execReplayLanding s
  | .gangPlace launch inst cores => Sys2Proof.Machine.execGangPlace launch inst cores s
  | .segmentFetchMiss => Sys2Proof.Machine.execSegmentFetchMiss s
  | .segmentCopyDone => Sys2Proof.Machine.execSegmentCopyDone s
  | .dieFence die => Sys2Proof.Machine.execDieFence die s
  | .shapeCellArrival launch => Sys2Proof.Machine.execShapeCellArrival launch s
  | .shapeTimeout launch => Sys2Proof.Machine.execShapeTimeout launch s
  | .provisionalCommit launch => Sys2Proof.Machine.execProvisionalCommit launch s
  | .carryLand launch scan leaf => Sys2Proof.Machine.execCarryLand launch scan leaf s
  | .scanNodeCombine launch scan down d leaf => Sys2Proof.Machine.execScanNodeCombine launch scan down d leaf s
  | .scanRoundAbort launch scan => Sys2Proof.Machine.execScanRoundAbort launch scan s
  | .queueVisit q => Sys2Proof.Machine.execQueueVisit q s
  | .launch q => Sys2Proof.Machine.execLaunch q s
  | .launchContextStart launch => Sys2Proof.Machine.execLaunchContextStart launch s
  | .copy q => Sys2Proof.Machine.execCopy q s
  | .waitsig q => Sys2Proof.Machine.execWaitsig q s
  | .signalReport q => Sys2Proof.Machine.execSignalReport q s
  | .setsig q => Sys2Proof.Machine.execSetsig q s
  | .coll q => Sys2Proof.Machine.execColl q s
  | .shape q => Sys2Proof.Machine.execShape q s
  | .mark q => Sys2Proof.Machine.execMark q s
  | .qctlReset q => Sys2Proof.Machine.execQctlReset q s
  | .qctlShoot q => Sys2Proof.Machine.execQctlShoot q s
  | .qctlPoolfree q => Sys2Proof.Machine.execQctlPoolfree q s
  | .packetCompletion k => Sys2Proof.Machine.execPacketCompletion k s
  | .heldPacketStart q => Sys2Proof.Machine.execHeldPacketStart q s
  | .fetchFault q => Sys2Proof.Machine.execFetchFault q s
  | .registerWrite off bytes => Sys2Proof.Machine.execRegisterWrite off bytes s
  | .collAccept k => Sys2Proof.Machine.execCollAccept k s
  | .collTransfer die => Sys2Proof.Machine.execCollTransfer die s
  | .reduceArrival c => Sys2Proof.Machine.execReduceArrival c s
  | .collComplete k => Sys2Proof.Machine.execCollComplete k s
  | .widxWrite q w => Sys2Proof.Machine.execWidxWrite q w s
  | .qcfgWrite q v => Sys2Proof.Machine.execQcfgWrite q v s
  | .qstatWrite q v => Sys2Proof.Machine.execQstatWrite q v s
  | .pgrqPop => Sys2Proof.Machine.execPgrqPop s
  | .pgrsp v => Sys2Proof.Machine.execPgrsp v s
  | .switchReduce l r => Sys2Proof.Machine.execSwitchReduce l r s
  | .linkStop l => Sys2Proof.Machine.execLinkStop l s
  | .linkResume l => Sys2Proof.Machine.execLinkResume l s
  | .flitSend ch kind body => Sys2Proof.Machine.execFlitSend ch kind body s
  | .flitReceive ch f => Sys2Proof.Machine.execFlitReceive ch f s
  | .retryRequest ch slot seq => Sys2Proof.Machine.execRetryRequest ch slot seq s
  | .retryRepeat ch => Sys2Proof.Machine.execRetryRepeat ch s
  | .channelAck ch slot seq => Sys2Proof.Machine.execChannelAck ch slot seq s
  | .keyDrainExpiry ch => Sys2Proof.Machine.execKeyDrainExpiry ch s
  | .channelFail ch => Sys2Proof.Machine.execChannelFail ch s
  | .rkey => Sys2Proof.Machine.execRkey s
  | .bootGo => Sys2Proof.Machine.execBootGo s
  | .coldReset => Sys2Proof.Machine.execColdReset s
  | .fwrst => Sys2Proof.Machine.execFwrst s
  | .train => Sys2Proof.Machine.execTrain s
  | .trainingDone failed => Sys2Proof.Machine.execTrainingDone failed s
  | .qen on => Sys2Proof.Machine.execQen on s
  | .fuseBlow => Sys2Proof.Machine.execFuseBlow s
  | .fzrel k => Sys2Proof.Machine.execFzrel k s
  | .rascClr die => Sys2Proof.Machine.execRascClr die s
  | .l2cvWrite die v => Sys2Proof.Machine.execL2cvWrite die v s
  | .msplitWrite v => Sys2Proof.Machine.execMsplitWrite v s
  | .hostRequest r => Sys2Proof.Machine.execHostRequest r s
  | .spdmCert => Sys2Proof.Machine.execSpdmCert s
  | .spdmChallenge nonce => Sys2Proof.Machine.execSpdmChallenge nonce s
  | .spdmMeasurements nonce => Sys2Proof.Machine.execSpdmMeasurements nonce s
  | .spdmKeyExchange m => Sys2Proof.Machine.execSpdmKeyExchange m s
  | .hostMeasExtend k v => Sys2Proof.Machine.execHostMeasExtend k v s
  | .jobPolicy m => Sys2Proof.Machine.execJobPolicy m s
  | .endObject m => Sys2Proof.Machine.execEndObject m s
  | .revokeObject m => Sys2Proof.Machine.execRevokeObject m s
  | .revokeApply jslot keys => Sys2Proof.Machine.execRevokeApply jslot keys s
  | .switchAttest jslot m => Sys2Proof.Machine.execSwitchAttest jslot m s
  | .switchRecheck jslot m => Sys2Proof.Machine.execSwitchRecheck jslot m s
  | .uncorrectableError die w => Sys2Proof.Machine.execUncorrectableError die w s
  | .scrubPatrol die w => Sys2Proof.Machine.execScrubPatrol die w s
  | .powerTick watts temps => Sys2Proof.Machine.execPowerTick watts temps s
  | .thermalTrip die temp => Sys2Proof.Machine.execThermalTrip die temp s
  | .tdispRequest r => Sys2Proof.Machine.execTdispRequest r s
  | .negotiateAlgorithms falcon mlkem => Sys2Proof.Machine.execNegotiateAlgorithms falcon mlkem s
  | .lostHeartbeat jslot sw => Sys2Proof.Machine.execLostHeartbeat jslot sw s

end Sys2Proof.Machine
end

