-- ==== Sys2Proof/Machine/Schedule.lean ====
section
/-! DEFINITION. What happens next: the events that are due on the focus core, the issue of its bundle (R57 to R61, R77, R78), the
events of the device, and the turn of the next core. The spec leaves the interleaving of cores and engines open; this is the
nominal order, and `inputs` holds any other. -/

namespace Sys2Proof.Machine

/-- The first event of a list that can occur, and the state after it. -/
def State.firstOf (s : State) (es : List Instr) : Option State :=
  es.findSome? fun i => match exec i s with
    | .next t => some t
    | _ => none

/-! ### Events of the focus core -/

/-- The completion of a matrix command. -/
def XOp.event (i : Nat) : XOp → Instr
  | .mstep .. => .mstepComplete i | .mzero .. => .mzeroComplete i | .amvr .. => .amvrComplete i
  | .amvw .. => .amvwComplete i | .mdrn .. => .mdrnComplete i

/-- The completion, or the turn, of a scan command. -/
def NOp.event (i : Nat) : NOp → Instr
  | .sid .. => .sidComplete i | .schk .. => .schkComplete i | .sfix .. => .sfixComplete i | .sxch .. => .sxchPost i
  | .srd .. => .srdComplete i | .swr .. => .swrComplete i | .sspl .. => .ssplComplete i | .sfil .. => .sfilComplete i

/-- The engine commands whose nominal completion is due (R202, R231). Log 22. -/
def Core.dueCommands (c : Core) (now : Nat) : List Instr :=
  let isDue (d : Option Nat) : Bool := match d with | some t => t ≤ now | none => false
  (c.xq.mapIdx fun i x => (isDue x.due, x.op.event i)).filterMap (fun x => if x.1 then some x.2 else none) ++
    (c.nq.mapIdx fun i x => (isDue x.due, x.op.event i)).filterMap fun x => if x.1 then some x.2 else none

/-- The interlocked results that are due (R72). Log 4. -/
def Thread.dueLocks (t : Thread) (now : Nat) : List Instr :=
  (t.ilocks.mapIdx fun i (x : Ilock) => (i, x)).filterMap fun (x : Nat × Ilock) => match x.2 with
    | ⟨_, some l, _, _, _⟩ => if l.due < now then some (.interlockedResult x.1) else none
    | _ => none

/-- The carries that wait for the thread on the focus core (R224). -/
def State.dueCarries (s : State) : List Instr :=
  match s.myLaunch with
  | none => []
  | some l => (l.scans.mapIdx fun k (c : Scan) => (k, c)).flatMap fun (x : Nat × Scan) =>
    ((x.2.posts ++ x.2.carries).filter fun p => p.who = s.me).map fun p => .carryLand s.thr.launch x.1 p.leaf

/-- The gang instances of the thread on the focus core (R294). -/
def State.dueSwaps (s : State) : List Instr :=
  match s.myLaunch with
  | none => []
  | some l => l.gangs.map fun g => .gangSwap s.thr.launch g.inst

/-- The feeders and drainers of the thread on the focus core (R277). -/
def Thread.dueStreams (t : Thread) : List Instr :=
  (List.finRange 8).flatMap fun q =>
    let b := t.q[q]
    if b.bound && !b.idle then [if b.out then .drainElement q else .feedElement q] else []

/-- The feeders and drainers left on the focus core (R298). -/
def State.dueLeft (s : State) : List Instr :=
  s.launches.flatMap fun y => match y.2 with
  | some l => (List.finRange 8).flatMap fun q =>
    (l.left.filter fun x => x.core = s.cur && x.q = q.val).map fun x => if x.b.out then .drainElement q else .feedElement q
  | none => []

/-- The events of the focus core, in the order in which they are looked at; a rotation of stage predicates lands after every other result of
its cycle (R113). Log 2, 4. -/
def State.coreEvents (s : State) : List Instr :=
  s.thr.dueLocks s.now ++ (if s.thr.flight = [] then [] else [.replayLanding, .resultLanding]) ++ s.core.dueCommands s.now ++
    s.dueCarries ++ s.thr.dueStreams ++ s.dueLeft ++ (if s.core.copying.isSome then [.segmentCopyDone] else []) ++
    (if s.core.freezeReq.isSome then [.spillSave] else [.quantumExpiry]) ++ s.dueSwaps

/-! ### Issue (R57 to R61, R77, R78) -/

/-- The bundle that is about to issue, as its slots see it. -/
def State.prepare (s : State) (b : RawBundle) : State :=
  s.setCore { s.core with
    bun := { addr := s.thr.pc, len := b.len, idle := b.hdr.idle.toNat, brk := b.hdr.brk, seg := b.hdr.seg, limm := b.limm }
    stage := none }

/-- The address of the next 64-byte line (R60). -/
def nextLine (a : DWord) : DWord := BitVec.ofNat 64 ((a.toNat / 64 + 1) * 64)

/-- A slot word whose opcode is not listed raises ILLEGAL_OP with DETAIL 1 (R79). -/
def unlisted (k : Slot) : Res := .enc (trapAt k.num cIllegalOp 1)

/-- Look at one slot word of a bundle with several: its result joins the others. -/
def State.lookWord (s : State) (x : Slot × BitVec 40) : Ans State :=
  match decodeSlot x.1 x.2 with
  | some i => exec i s
  | none => match s.core.stage with
    | some rs => .next (s.setCore { s.core with stage := some (rs ++ [(x.1.num, unlisted x.1)]) })
    | none => .next (s.closeBundle [(x.1.num, unlisted x.1)])

/-- Look at the slots of a bundle in slot order. -/
def State.lookWords (s : State) : List (Slot × BitVec 40) → Ans State
  | [] => .next s
  | x :: xs => match s.lookWord x with
    | .next t => t.lookWords xs
    | r => r

/-- Issue the slots of a bundle (R77): one slot by itself, several together. -/
def State.issueWords (s : State) (b : RawBundle) : Ans State :=
  match b.words with
  | [] => exec (.emptyBundle b.hdr) s
  | [x] => s.lookWord x
  | ws => match (s.setCore { s.core with stage := some [] }).lookWords ws with
    | .next t => .next (t.closeBundle (t.core.stage.getD []))
    | r => r

/-- Decode and issue the bytes at the program counter, which a bank of instruction memory holds (R60, R77, R306). -/
def State.issueBytes (s : State) (bank : Bool) (bytes : List Byte) : Ans State :=
  let s := if bank = s.core.active then s else s.setCore { s.core with active := bank }
  match s.boundaryTrap with
  | some t => exec (.trapEntry t) s
  | none => match decodeBundle s.fw (s.thr.pc.toNat % 64) bytes with
    | .bundle b => (s.prepare b).issueWords b
    | .pad => .next (s.setCore { s.core with viaBranch := false, thr := { s.thr with pc := nextLine s.thr.pc } })
    | .bad _ => .next s

/-- The bundle boundary of the focus core: a kept report, a parked step, or the bundle at the program counter; none where fetch waits for
a segment (R77, R260, R266, R306). A report waits for the response of a BARV in flight (R409). -/
def State.issue (s : State) : Option (Ans State) :=
  match (if s.thr.barv.isSome then [] else s.thr.late), s.thr.deferred with
  | r :: _, _ => some (exec (.lateReport r) s)
  | [], some d => some (.next (s.waitParked d))
  | [], none => match s.fetch with
    | .trap t => some (exec (.trapEntry t) s)
    | .bytes b l => some (s.issueBytes b l)
    | .stall _ => if s.core.copying.isSome then none else some (exec .segmentFetchMiss s)

/-- The focus core has a bundle boundary in this cycle. -/
def State.atBoundary (s : State) : Bool := s.canIssue && s.core.nextIssue ≤ s.now

/-! ### Events of the device -/

/-- The numbers a table lists. -/
def numbers {α : Type} (t : Table α) : List Nat := t.map Prod.fst

/-- The collective events that may be due (R356, R357, R363). -/
def State.collEvents (s : State) : List Instr :=
  if s.records = [] then []
  else (numbers s.records).flatMap (fun i => ([.collAccept i, .collComplete i] : List Instr)) ++ (List.range 9).map fun d => .collTransfer d

/-- The queue events that may be due (R343, R345, R351). -/
def State.queueEvents (s : State) : List Instr :=
  (numbers s.packets).map (fun i => .packetCompletion i) ++ (numbers s.queues).flatMap fun q =>
    let d := s.queue q
    let waits := match d.wait with
      | some p => (match tget none s.packets p with | some p => s.waitMet p | none => false)
      | none => false
    (if waits then [.signalReport q] else []) ++ if d.pend || (s.serveHead q).isSome then [.queueVisit q] else []

/-- The network nodes that the posts of a scan reach (R330). -/
def Scan.reachable (c : Scan) : List (Nat × Nat) :=
  ((List.range c.depth).flatMap fun d =>
    (c.posts.map Post.leaf ++ c.far.map Prod.fst).map fun l => (d, (l / 2 ^ (d + 1) + 1) * 2 ^ (d + 1) - 1)).eraseDups

/-- The node combines of a launch's scans that may be due (R331): posts of other packages arrive from outside. Log 105. -/
def scanEvents (launch : Nat) (l : Launch) : List Instr :=
  (l.scans.mapIdx fun k (c : Scan) => (k, c)).flatMap fun (x : Nat × Scan) =>
    x.2.reachable.flatMap fun n => [false, true].filterMap fun down =>
      if (x.2.operands down n.1 n.2).isSome then some (.scanNodeCombine launch x.1 down n.1 n.2) else none

/-- The placements of gang instances that may be due (R294): of the instance that a die places next, once all its members find idle cores. -/
def State.gangEvents (s : State) (launch : Nat) (l : Launch) : List Instr :=
  if !l.ganged then []
  else (List.range 8).filterMap fun die => (s.gangNext launch l .lower die).bind fun g =>
    let cores := (s.seats launch l .idle (l.gangDies die) g.2).map Prod.snd
    if cores.length = g.2.length then some (.gangPlace launch g.1 cores) else none

/-- The events of a launch that may be due (R287, R315, R318, R320, R329). -/
def State.launchEvents (s : State) (x : Nat × Launch) : List Instr :=
  (if x.2.unstarted then [.launchContextStart x.1] else []) ++
    (if x.2.shape.isSome then [.shapeCellArrival x.1, .shapeTimeout x.1, .provisionalCommit x.1] else []) ++ scanEvents x.1 x.2 ++
    ((List.range 8).map fun d => .chunkRequest x.1 d) ++ s.gangEvents x.1 x.2

/-- The work that idle cores take (R289, R291, R303). Log 41. -/
def State.placements (s : State) : List Instr :=
  if s.launches = [] then []
  else (List.range 256).flatMap fun n =>
    if (s.coreAt n).live then []
    else match s.workOn n with
    | none => []
    | some w => match w.2 with
      | .step => [.stepStart w.1 n]
      | .cont k => [.resume w.1 k n]
      | .gang => []

/-- The events of the device, in the order in which they are looked at. Log 2, 96. -/
def State.deviceEvents (s : State) : List Instr :=
  ((List.range 8).filterMap fun d => if (s.die d).walks = [] then none else some (.walkComplete d 0)) ++
    (if s.trust.bootBusy then [.bootGo] else []) ++ (numbers s.copies).map (fun i => .copyComplete i) ++ s.collEvents ++ s.queueEvents ++
    (if s.awaited = [] && s.away = [] && s.sentAway = [] then [] else [.reductionAck 0]) ++ s.allLaunches.flatMap s.launchEvents ++
    s.placements ++ (if s.launches = [] then [] else (List.range 8).map fun d => .priorityPreempt d)

/-! ### Turns -/

/-- A migrated thread has left a feeder or drainer on a core (R298). -/
def State.hasLeft (s : State) (n : Nat) : Bool :=
  s.launches.any fun y => match y.2 with | some l => l.left.any fun x => x.core = n | none => false

/-- The core whose turn comes next: the next one with a thread or with work that a thread has left, in ascending number and then from the
first. -/
def State.nextCore (s : State) : Nat :=
  let cs := sortBy id (s.busyCores.filter fun n => (s.coreAt n).live || s.hasLeft n)
  ((cs.find? fun n => s.cur < n).or cs.head?).getD s.cur

/-- The focus core's turn ends: flags that landed in this cycle are forgotten (R23), the next core takes its turn, and once every core
has had one a core cycle has passed (R21). Engine commands that can start on it start. Log 2. -/
def State.rotate (s : State) : State :=
  let s := s.modThr fun t => { t with landed := 0 }
  let n := s.nextCore
  let s : State := if n ≤ s.cur then { s with now := s.now + 1 } else s
  let s := s.focus n
  if s.core.enginesIdle then s else s.setCore ((s.core.startX s.now).startN s.now)

/-- The machine goes on by itself: an event of the focus core, the bundle at its boundary, an event of the device, or the next turn. Log 2. -/
def State.goOn (s : State) : Ans State :=
  match s.firstOf s.coreEvents with
  | some t => .next t
  | none =>
    match (if s.atBoundary then s.issue else none) with
    | some r => r
    | none => match s.firstOf s.deviceEvents with
      | some t => .next t
      | none => .next s.rotate

end Sys2Proof.Machine
end

