-- ==== Sys2Proof/Machine/Step.lean ====
section
/-! DEFINITION. One step of the machine, and the placing of an instruction where step fetches next. -/

namespace Sys2Proof.Machine

/-- One step: the next event of `inputs` where there is one, else the machine goes on by itself. With every clock stopped only a cold
reset follows (R405). Log 2. -/
def step (s : State) : Host.Outcome State Fault Refusal :=
  match s.inputs with
  | i :: rest =>
    if s.host.stopped && i ≠ .coldReset then .fault .clocksStopped else exec i { s with inputs := rest }
  | [] => if s.host.stopped then .fault .clocksStopped else s.goOn

/-- The thread with nothing under way and no launch. Log 1. -/
def Thread.placedAlone (t : Thread) : Thread :=
  { t with launch := 0, flight := [], ilocks := [], deferred := none, barv := none, late := [], landed := 0, waited := 0, wlimF := none
           q := Vector.replicate 8 {}, breakSkip := false, ctl := { t.ctl with hnd := false } }

/-- The state with an instruction's bytes where the next step fetches: a thread without a launch stands on the focus tile core, its
active instruction bank holds a segment of the two lines from the program counter's line on with the bytes at the program counter,
and no event comes first. Log 1. -/
def State.withFetchWord (s : State) (nbits w : Nat) : State :=
  let a := s.thr.pc.toNat
  let g : Segment := { index := 0, start := a / 64 * 64, len := 128, img := 0
                       bytes := Mem.write [] (a % 64) (leBytes 64 (w % 2 ^ nbits)), poison := [] }
  let s := if s.fw then s.focus 0 else s
  { s with
    inputs := []
    host := { s.host with stopped := false }
    core := { s.core with
      live := true, frozen := false, exiting := false, thr := s.core.thr.placedAlone, xq := [], nq := [], copying := none, segFails := []
      nextIssue := s.now, freezeReq := none, wfaults := [], waitInfo := none, stage := none
      banks := vset s.core.banks s.core.active.toNat (some g) } }

end Sys2Proof.Machine
end

