-- ==== Sys2Proof/Safety.lean ====
section
/-! DEFINITION. What claims are stated in: one step that goes on, the states that a run reaches, a run that never stops, a property
that every step keeps; when a slot instruction is free to act, the state in which its bundle commits, and what an instruction that
only delivers results leaves unchanged. -/

namespace Sys2Proof.Machine

/-- The machine goes from one state to the next in one step. -/
def Steps (s t : State) : Prop := step s = .next t

/-- The states that a run from s reaches. -/
inductive Reaches (s : State) : State → Prop where
  | here : Reaches s s
  | next {t u : State} : Reaches s t → Steps t u → Reaches s u

/-- A run from s never stops: every state that it reaches has a next state. -/
def Safe (s : State) : Prop := ∀ t, Reaches s t → ∃ u, Steps t u

/-- A property that every step keeps, in whatever state it holds. -/
def Kept (p : State → Prop) : Prop := ∀ s t, p s → Steps s t → p t

/-- Only memory, the lines that the dies have pinned, and what has been sent out and not been acknowledged differ. -/
def OnlyWrites (s t : State) : Prop :=
  t = { s with mem := t.mem, tags := t.tags, poison := t.poison, seqWords := t.seqWords, outbox := t.outbox, dies := t.dies, away := t.away }

/-- What reading through pages does beside giving bytes: of the dies only the lines pinned in their pool areas may differ (R271), and requests to
other packages may have been sent out (R282). -/
def Asked (s t : State) : Prop :=
  (∀ d, ∃ p o, t.die d = { s.die d with pinned := p, poolOvf := o }) ∧ s.outbox <+: t.outbox

/-! ### One slot instruction alone in its bundle -/

/-- The slot number of a slot instruction (R59). -/
def slotNo (i : Instr) : Nat := match row i with | some (_, r) => r.slot.num | none => 0

/-- CSEL, whose PRED is its selector and no guard (R134). -/
def selects : Instr → Bool
  | .csel _ => true
  | _ => false

/-- A slot instruction alone in its bundle is free to act: it passes its encoding checks (R79), its guard is true (R70; CSEL's PRED
is its selector), no register that it names waits for an interlocked result (R74), its stream operands are bound and ready (R167),
the latency check passes (R76), a held value that it reads is full (R71) and no operand is poisoned (R149). -/
def State.ready (s : State) (i : Instr) : Bool :=
  match row i with
  | none => false
  | some (w, r) =>
    s.core.stage.isNone && (encErr s.fw i).isNone && (selects i || s.thr.guard w) &&
      !s.thr.locked (.p w.pred.toNat) && !((uses s i).any fun u => s.thr.locked u.reg) &&
      ((streamUses i).all fun x => (s.streamBad x).isNone && s.streamReady x) && (s.latencyErr r.slot.num i).isNone &&
      (s.heldErr r.slot.num i).isNone && (s.poisonErr r.slot.num i).isNone

/-- The state after the bundle of one slot instruction commits with the instruction's effects: with them the stream elements that its
operands consume and owe (R167) and its slot's held value (R71). -/
def State.commits (s : State) (i : Instr) (es : List Eff) : State :=
  s.commitBundle (es ++ streamEffs i ++ s.holdEffs (slotNo i) i)

/-- The sticky bits MMST of a state's thread (R239). -/
abbrev State.mmst (s : State) : BitVec 3 := s.thr.ctl.mmst

/-- Nothing but the course of issue differs: the results in flight, the loop stack and the pc, the slots' held values, the stream
bindings with the full/empty bits of their rings and what reading them acquires (R239, R248), a copy request of the header's SEG field with
what reading the segment table for it does, the cycle of the next issue, the counts of a wait that is over, and a BARV's arrival that is over with the bundle (R409). -/
def OnlyIssue (s t : State) : Prop :=
  t = { s.setCore { s.core with
    thr := { s.thr with
      flight := t.thr.flight, loops := t.thr.loops, pc := t.thr.pc, held := t.thr.held, q := t.thr.q
      ctl := { s.thr.ctl with mmst := t.mmst }, breakSkip := false, waited := 0, wlimF := none, barv := none }
    freezeReq := s.barvFreeze, full := t.core.full, nextIssue := t.core.nextIssue, viaBranch := t.core.viaBranch, copying := t.core.copying
    segFails := t.core.segFails, waitInfo := none, wfaults := [], found := [] } with
    seqWords := t.seqWords, dies := t.dies, outbox := t.outbox } ∧ Asked s t

/-- Where sequential fetch goes on after the bundle, with the loop check of R113: the loop stack, the pc, and the new p16 of a rotation. -/
def State.sequel (s : State) : List LoopEntry × DWord × Option Bool := loopCheck s.thr.loops (s.skipPad s.after)

/-- The stage rotation that a loop end puts in flight (R113). -/
def rotation (now : Nat) : Option Bool → List Landing
  | some b => [{ due := now + 1, writes := [.rotate b] }]
  | none => []

/-- What an instruction's operands add to its effect, between the states `u` and `t`: the stream elements that they consume and owe, with
their acquires (R167, R248), and the slot's held value (R71). -/
def OperandsTaken (i : Instr) (s u t : State) : Prop :=
  t.thr.q = (applyAll u (streamEffs i)).thr.q ∧ t.core.full = (applyAll u (streamEffs i)).core.full ∧
    t.mmst = (applyAll u (streamEffs i)).mmst ∧ t.seqWords = (applyAll u (streamEffs i)).seqWords ∧
    t.thr.held = (applyAll u (s.holdEffs (slotNo i) i)).thr.held

/-- The instruction issues with the effect that leads from `s` to `u`, and then fetch goes on sequentially, with IDLE idle cycles (R75,
R113); nothing else changes. -/
def Does (i : Instr) (s u : State) : Prop :=
  ∃ t, exec i s = .next t ∧ t.thr.loops = u.sequel.1 ∧ t.thr.pc = u.sequel.2.1 ∧
    t.thr.flight = u.thr.flight ++ rotation u.now u.sequel.2.2 ∧ t.core.nextIssue = u.now + 1 + u.core.bun.idle ∧ OnlyIssue u t ∧
    OperandsTaken i s u t

/-- The instruction issues without any effect, and fetch goes on sequentially (R70, R75). -/
def Passes (i : Instr) (s : State) : Prop :=
  ∃ t, exec i s = .next t ∧ t.thr.loops = s.sequel.1 ∧ t.thr.pc = s.sequel.2.1 ∧ t.thr.flight = s.thr.flight ++ rotation s.now s.sequel.2.2 ∧
    t.core.nextIssue = s.now + 1 + s.core.bun.idle ∧ OnlyIssue s t ∧ t.thr.q = s.thr.q ∧ t.core.full = s.core.full ∧ t.mmst = s.mmst ∧
    t.seqWords = s.seqWords ∧ t.thr.held = s.thr.held

/-- The instruction issues with the effect that leads from `s` to `u` and branches to a target: three cycles pass, the latches are cleared
(R13, R75, R110), and nothing else changes. -/
def Jumps (i : Instr) (s u : State) (target : DWord) : Prop :=
  ∃ t, exec i s = .next t ∧ OperandsTaken i s u t ∧ Asked u t ∧ t = { u.setCore { u.core with
    thr := { u.thr.clearLatches with
      pc := target, held := t.thr.held, q := t.thr.q, ctl := { u.thr.ctl with mmst := t.mmst }
      breakSkip := false, waited := 0, wlimF := none, barv := none }
    freezeReq := u.barvFreeze, full := t.core.full, nextIssue := u.now + 3 + u.core.bun.idle, viaBranch := true, copying := t.core.copying
    segFails := t.core.segFails, waitInfo := none, wfaults := [], found := [] } with
    seqWords := t.seqWords, dies := t.dies, outbox := t.outbox }

/-- The instruction issues, and its effect is to put these results in flight. -/
def Gives (i : Instr) (s : State) (ls : List Landing) : Prop :=
  Does i s (s.modThr fun t => { t with flight := t.flight ++ ls })

/-- The instruction issues, and its effect is one interlocked result (R72). -/
def Locks (i : Instr) (s : State) (x : Ilock) : Prop :=
  Does i s (s.modThr fun t => { t with ilocks := t.ilocks ++ [x] })

/-- The state after an exception voids the bundle at the pc: the handler is entered with EPC at that bundle (R80, R255), or the thread
freezes (R259). -/
def State.raises (s : State) (x : TrapInfo) : State :=
  s.bundleOver.takeTrap x s.thr.pc

/-- The instruction raises an exception: its bundle is void. -/
def Traps (i : Instr) (s : State) (x : TrapInfo) : Prop := exec i s = .next (s.raises x)

/-- The instruction holds its bundle at issue for a wait (R74, R117). -/
def Holds (i : Instr) (s : State) (w : WaitInfo) : Prop := exec i s = .next (s.holdBundle [(slotNo i, w)] [])

/-- Whether a state is in handler mode with a lease, or at user level, or on a firmware core: where engine instructions may act (R85). -/
def State.mayEngine (s : State) : Bool := !s.thr.ctl.hnd || s.thr.ctl.lease

end Sys2Proof.Machine
end

