-- ==== Sys2Proof/Certificates/Slice0/Obligations.lean ====
section
/-! DEFINITION. The statements for the provers, with the tables of instructions that they range over. `Gives`, `Locks` and `Does` of
Sys2Proof.Safety say that an instruction ANSWERS A NEXT STATE, which state it is, and that nothing else changes. -/

namespace Sys2Proof.Claim
open Sys2Proof.Machine

/-! ### Scalar instructions (R115, R130 to R136) -/

/-- A result of n bits extended to 64 (R130). -/
def widen {n : Nat} (sg : Bool) (r : BitVec n) : DWord := if sg then r.signExtend 64 else r.setWidth 64

/-- The integer instructions of R130 with their latencies (R72) and their results on words of n bits: width, FMT[2], a, b. -/
def intOps : List ((SlotWord → Instr) × Nat × ((n : Nat) → Bool → BitVec n → BitVec n → BitVec n)) :=
  [(.add, 1, fun _ _ a b => a + b), (.sub, 1, fun _ _ a b => a - b), (.mul, 3, fun _ _ a b => a * b),
   (.mulh, 3, fun n sg a b =>
     if sg then BitVec.ofInt n (a.toInt * b.toInt / 2 ^ n) else BitVec.ofNat n (a.toNat * b.toNat / 2 ^ n)),
   (.and_, 1, fun _ _ a b => a &&& b), (.or_, 1, fun _ _ a b => a ||| b), (.xor_, 1, fun _ _ a b => a ^^^ b),
   (.andn, 1, fun _ _ a b => a &&& ~~~b), (.shl, 1, fun n _ a b => a <<< (b.toNat % n)),
   (.shr, 1, fun n sg a b => if sg then a.sshiftRight (b.toNat % n) else a >>> (b.toNat % n)),
   (.rot, 1, fun n _ a b => a.rotateRight (b.toNat % n)),
   (.min_, 1, fun _ sg a b => if (if sg then b.slt a else b.ult a) then b else a),
   (.max_, 1, fun _ sg a b => if (if sg then a.slt b else a.ult b) then b else a),
   (.ext, 1, fun _ _ a _ => a), (.clz, 1, fun _ _ a _ => a.clz), (.ctz, 1, fun _ _ a _ => a.ctz),
   (.popc, 1, fun _ _ a _ => a.cpop)]

/-- The quotient of R131. -/
def quotient {n : Nat} (sg : Bool) (a b : BitVec n) : BitVec n :=
  if b = 0 then BitVec.allOnes n else if sg then a.sdiv b else a.udiv b

/-- The remainder of R131. -/
def remainder {n : Nat} (sg : Bool) (a b : BitVec n) : BitVec n :=
  if b = 0 then a else if sg then a.srem b else a.umod b

/-! ### Floating values (R34, R39 to R43) -/

/-- The value of a finite floating value (R34). -/
def exact : Machine.Num → Rat
  | .fin n m e => (if n then -1 else 1) * ((m : Rat) * (2 : Rat) ^ e)
  | _ => 0

/-- The sign of a floating value (R34). -/
def negative : Machine.Num → Bool
  | .fin n _ _ | .inf n => n
  | .nan _ => false

/-- A finite floating value (R34). -/
def Finite (x : Machine.Num) : Prop := ∃ n m e, x = .fin n m e

/-- The place of a value that is no NaN in the order of R39: the infinities are beyond every finite value. -/
def place : Machine.Num → Option (Int × Rat)
  | .nan _ => none
  | .inf n => some (if n then -1 else 1, 0)
  | .fin n m e => some (0, exact (.fin n m e))

/-- Ordered and less (R39). -/
def Before (a b : Machine.Num) : Prop := ∃ x y, place a = some x ∧ place b = some y ∧ (x.1 < y.1 ∨ x.1 = y.1 ∧ x.2 < y.2)

/-- Ordered and equal (R39). -/
def Same (a b : Machine.Num) : Prop := ∃ x, place a = some x ∧ place b = some x

/-- A magnitude. -/
def mag (x : Rat) : Rat := if x < 0 then -x else x

/-- A magnitude `v`, rounded with unbounded exponent, comes to `top` or more, where `ulp` is the spacing of values below `top` (R42, R43). -/
def Reaches (mode : RMode) (neg : Bool) (v top ulp : Rat) : Prop :=
  match mode, neg with
  | .rne, _ => top - ulp / 2 ≤ v
  | .rup, false | .rdn, true => top - ulp < v
  | _, _ => top ≤ v

/-- `q` is `v` rounded to one of the values that a test admits (R41); `even` says that `q` is the even one of two at the same distance. -/
def Rounds (mode : RMode) (ok : Rat → Prop) (v q : Rat) (even : Prop) : Prop :=
  ok q ∧ match mode with
  | .rne => ∀ t, ok t → mag (q - v) ≤ mag (t - v) ∧ (t ≠ q → mag (t - v) = mag (q - v) → even)
  | .rtz => 0 ≤ q * v ∧ mag q ≤ mag v ∧ ∀ t, ok t → 0 ≤ t * v → mag t ≤ mag v → mag t ≤ mag q
  | .rup => v ≤ q ∧ ∀ t, ok t → v ≤ t → q ≤ t
  | .rdn => q ≤ v ∧ ∀ t, ok t → t ≤ v → t ≤ q

end Sys2Proof.Claim

open Sys2Proof Sys2Proof.Machine

/-- R130: each integer instruction lands in D and in l1, at its latency, the extension of a result formed on w bits. -/
def Obligations.ScalarIntegerResults : Prop :=
  ∀ x ∈ Claim.intOps, ∀ (w : SlotWord) (s : State), s.ready (x.1 w) = true →
    Gives (x.1 w) s [scalarLanding 1 w (s.now + x.2.1)
      (Claim.widen (signedOf w) (x.2.2 (widthOf w) (signedOf w) ((s.opS 1 w.a).setWidth _) ((s.opB w).setWidth _)))]

/-- R131: DIV and REM, interlocked; no case traps. -/
def Obligations.DivisionResults : Prop :=
  ∀ (w : SlotWord) (s : State),
    (s.ready (.div w) = true → Locks (.div w) s ⟨destRegs false w, some (scalarLanding 1 w s.now
      (Claim.widen (signedOf w) (Claim.quotient (n := widthOf w) (signedOf w) ((s.opS 1 w.a).setWidth _) ((s.opB w).setWidth _)))),
      0, false, none⟩) ∧
    (s.ready (.rem w) = true → Locks (.rem w) s ⟨destRegs false w, some (scalarLanding 1 w s.now
      (Claim.widen (signedOf w) (Claim.remainder (n := widthOf w) (signedOf w) ((s.opS 1 w.a).setWidth _) ((s.opB w).setWidth _)))),
      0, false, none⟩)

/-- R115: each predicate instruction lands its truth value in p[D] and, as 0 or 1, in l0, one cycle on; a landing writes p[D] alone, and p0
never. -/
def Obligations.PredicateResults : Prop :=
  (∀ x ∈ ([(.pand, fun a b => a && b), (.por, fun a b => a || b), (.pxor, fun a b => a != b), (.pandn, fun a b => a && !b),
      (.pmov, fun a _ => a)] : List ((SlotWord → Instr) × (Bool → Bool → Bool))), ∀ (w : SlotWord) (s : State), s.ready (x.1 w) = true →
    Gives (x.1 w) s
      [{ due := s.now + 1
         latch := some (0, .scalar (if x.2 (s.thr.getP w.a.toNat) (s.thr.getP w.b.toNat) then 1 else 0))
         writes := if w.wb then [.pred w.d.toNat (x.2 (s.thr.getP w.a.toNat) (s.thr.getP w.b.toNat))] else [] }]) ∧
  ∀ (c : Core) (l : Landing) (n : Nat) (b : Bool), l.writes = [.pred n b] → n < 24 →
    (n = 0 → (c.land l).thr.p = c.thr.p) ∧ (0 < n → (c.land l).thr.getP n = b ∧ ∀ m, m ≠ n → (c.land l).thr.getP m = c.thr.getP m) ∧
      ∀ x, l.latch = some (0, .scalar x) → (c.land l).thr.lS = vset c.thr.lS 0 x

/-! ### The C slot (R109 to R129) -/

/-- R110, R114: BR, CALL, BRI, RET and LEXIT branch to their targets; a BRI or RET target with bit 0 set raises MISALIGN. -/
def Obligations.BranchTargets : Prop :=
  ∀ (w : SlotWord) (s : State),
    (s.ready (.br w) = true → Jumps (.br w) s s (s.core.bun.addr + BitVec.ofInt 64 (2 * (w.d ++ w.a ++ w.b ++ w.mod).toInt))) ∧
    (s.ready (.call w) = true →
      Jumps (.call w) s (s.modThr fun t => { t with flight := t.flight ++
          [{ due := s.now + 1, writes := [.scalar 31 s.after], latch := some (0, .scalar s.after) }] })
        (s.core.bun.addr + BitVec.ofInt 64 (2 * (w.d ++ w.a ++ w.b ++ w.mod).toInt))) ∧
    (s.ready (.bri w) = true → if (s.opS 0 w.a).getLsbD 0 then Traps (.bri w) s { cause := 0x04, addr := s.opS 0 w.a }
      else Jumps (.bri w) s s (s.opS 0 w.a)) ∧
    (s.ready (.ret w) = true → if (s.thr.getS 31).getLsbD 0 then Traps (.ret w) s { cause := 0x04, addr := s.thr.getS 31 }
      else Jumps (.ret w) s s (s.thr.getS 31)) ∧
    (s.ready (.lexit w) = true → match s.thr.loops with
      | e :: es => Jumps (.lexit w) s (s.modThr fun t => { t with loops := es }) e.stop
      | [] => Traps (.lexit w) s { cause := 0x02, detail := 10 })

/-- R112: a loop is entered with its iterations and drain iterations, or skipped by a branch to its end where there are none; an end that
is not beyond the start raises ILLEGAL_OP with DETAIL 2, and a fifth active loop DETAIL 9. -/
def Obligations.LoopEntry : Prop :=
  ∀ (x : (SlotWord → Instr) × Bool) (_ : x ∈ [(Instr.loop, false), (Instr.loopr, true)]) (w : SlotWord) (s : State), s.ready (x.1 w) = true →
    let n := (s.opS 0 w.d).toNat % 2 ^ 32
    let t := n + if x.2 then w.fmt.toNat else 0
    let stop := s.core.bun.addr + BitVec.ofNat 64 (2 * (w.a ++ w.b ++ w.mod).toNat)
    if s.core.bun.addr.toNat + 2 * (w.a ++ w.b ++ w.mod).toNat ≤ (s.skipPad s.after).toNat then
      Traps (x.1 w) s { cause := 0x02, detail := 2 }
    else if 4 ≤ s.thr.loops.length then Traps (x.1 w) s { cause := 0x02, detail := 9 }
    else if t = 0 then Jumps (x.1 w) s s stop
    else Does (x.1 w) s (s.modThr fun r =>
      { r with
        loops := { start := s.skipPad s.after, stop := stop, remaining := t, started := 1, drainN := n, rot := x.2 } :: r.loops
        flight := r.flight ++ if x.2 then [{ due := s.now + 1, writes := [.pred 16 (decide (0 < n)), .pred 17 false, .pred 18 false,
          .pred 19 false, .pred 20 false, .pred 21 false, .pred 22 false, .pred 23 false] }] else [] })

/-- R116, R20: MFC lands the control register that A names, in D and in l0, one cycle on; CYC is the count at the issue cycle. -/
def Obligations.ControlRegisterReads : Prop :=
  ∀ (w : SlotWord) (s : State), s.ready (.mfc w) = true → ∀ x,
    (w.a.toNat, x) ∈ ([(0x00, s.thr.ctl.tid.setWidth 64), (0x01, s.thr.ctl.core.setWidth 64), (0x02, s.thr.ctl.die.setWidth 64),
      (0x03, s.thr.ctl.pkg.setWidth 64), (0x04, s.thr.ctl.launch.setWidth 64),
      (0x05, (s.thr.ctl.prov.toNat + 2 * s.thr.ctl.hnd.toNat + 4 * s.thr.ctl.lease.toNat + 8 * s.thr.ctl.lchk.toNat : Nat)),
      (0x06, s.thr.ctl.rmode.setWidth 64), (0x07, s.thr.ctl.fpst.setWidth 64), (0x08, s.thr.ctl.mmst.setWidth 64), (0x09, s.thr.ctl.epc),
      (0x0A, s.thr.ctl.ecause.setWidth 64), (0x0B, s.thr.ctl.eaddr), (0x0D, s.thr.ctl.hbase), (0x0E, s.thr.ctl.sbase.setWidth 64),
      (0x0F, s.thr.ctl.slim.setWidth 64), (0x10, s.thr.ctl.segt), (0x11, s.thr.ctl.dmbc.setWidth 64), (0x12, s.thr.ctl.dmbd.setWidth 64),
      (0x13, s.thr.ctl.dmbp.setWidth 64), (0x14, (s.thr.ctl.count ++ s.thr.ctl.rank).setWidth 64), (0x15, s.thr.ctl.phc.setWidth 64),
      (0x16, s.thr.ctl.phd.setWidth 64), (0x17, s.thr.ctl.php.setWidth 64), (0x18, s.thr.ctl.phj.setWidth 64),
      (0x19, BitVec.ofNat 64 (s.now - s.cyc0)), (0x1A, s.thr.ctl.wlim.setWidth 64),
      (0x0C, (s.thr.ctl.einfo.xnum ++ s.thr.ctl.einfo.xrow ++ s.thr.ctl.einfo.xcl ++ s.thr.ctl.einfo.detail ++ 0#2 ++
        BitVec.ofBool s.thr.ctl.einfo.remote ++ BitVec.ofBool s.thr.ctl.einfo.wr ++ s.thr.ctl.einfo.slot ++
        BitVec.ofBool s.thr.ctl.einfo.applied).setWidth 64)] : List (Nat × DWord)) →
      Gives (.mfc w) s [scalarLanding 0 w (s.now + 1) x]

/-- R20 to R24, R116: MTC writes the control register that B names at commit, and at user level raises PRIVILEGE for a privileged one; after an
MTC of register m, reading m gives the masked value, and every other register reads as before. -/
def Obligations.ControlRegisterWrites : Prop :=
  (∀ (w : SlotWord) (s : State), s.ready (.mtc w) = true →
    if s.user = true ∧ 0x09 ≤ w.b.toNat ∧ w.b.toNat ≤ 0x10 then Traps (.mtc w) s { cause := 0x03 }
    else Does (.mtc w) s (s.setCore (s.core.mtc w.b.toNat (s.opS 0 w.a)))) ∧
  ∀ (s : State) (m n : Nat) (x : DWord), m < 64 →
    (s.setCore (s.core.mtc m x)).mfc n =
      if n ≠ m then s.mfc n
      else if m = 0x05 then BitVec.ofNat 64 (s.thr.ctl.flags % 8 + if x.getLsbD 3 then 8 else 0)
      else if m = 0x06 then x &&& 3
      else if m = 0x07 then x &&& 31 ||| s.thr.landed.setWidth 64
      else if m = 0x08 then s.mfc 0x08 &&& ~~~x
      else if m = 0x09 ∨ m = 0x0B then x
      else if m = 0x0A ∨ m = 0x0E then x &&& 0xFF
      else if m = 0x0C then x &&& 0xFFFFFF3F
      else if m = 0x0D then x &&& ~~~0x3F
      else if m = 0x0F then (if 256 < x.toNat % 512 then 256 else x &&& 0x1FF)
      else if m = 0x10 then x &&& ~~~0x7F
      else if m = 0x1A then (if x.toNat % 2 ^ 32 < 256 then 256 else x &&& 0xFFFFFFFF)
      else s.mfc m

/-- R117 to R120, R123: a wait that is satisfied issues, and has no effect but to record that its phase was awaited; WAITC above its count, or
with a block of a counted drain not returned yet, holds and is counted, and at its limit it raises WAIT_TIMEOUT with DETAIL 1. DSYNC, once the
thread's earlier accesses are performed, arrives at its level; with the arrival of the last thread of the
instance the instance's phase count increments and every PHx follows it, and DSYNC issues (R31, R120).
The model's own choices that it rests on: log entries 82. -/
def Obligations.Waits : Prop :=
  ∀ (w : SlotWord) (s : State),
    (s.ready (.waitc w) = true → (vget 0 s.thr.w w.a.toNat).toNat ≤ (s.opS 0 w.b).toNat →
      (∀ f ∈ s.thr.fails, f.ctr ≠ w.a.toNat) → (∀ x ∈ s.core.drained, x.1 ≠ w.a.toNat) → Does (.waitc w) s s) ∧
    (∀ core off, s.ready (.waito w) = true → s.localAt (s.opS 0 w.a) 1 true = .inl (core, off) → s.core.ownedAt off 1 = false →
      Does (.waito w) s s) ∧
    (s.ready (.confw w) = true → s.thr.ctl.hnd = false → s.thr.ctl.prov = false → Does (.confw w) s s) ∧
    (s.ready (.dsync w) = true → s.thr.ctl.hnd = false → s.unperformed = false → 0 < w.mod.toNat % 4 → s.aboveGang w = none →
      s.thr.arrived = some (w.mod.toNat % 4 + 8) → Does (.dsync w) s (s.modThr fun t => { t with arrived := none })) ∧
    (∀ l, s.ready (.dsync w) = true → s.thr.ctl.hnd = false → s.unperformed = false → s.aboveGang w = none → s.core.live = true → s.myLaunch = some l →
      let v := w.mod.toNat % 4
      let k := l.instOf s.thr v
      let n := l.phaseAt v k + 1
      let a := s.modThr fun t => { t with arrived := some v }
      s.thr.arrived ≠ some (v + 8) → (v = 3 → s.thr.ctl.count.toNat ≤ 1) →
      (∀ u ∈ a.threadsOf s.thr.launch, l.joins v s.thr u = true → u.arrived = some v) →
      if v = 0 then ∃ u, Does (.dsync w) s u ∧ u.thr.ctl = s.thr.ctl.setPhase n 0 ∧ u.thr.arrived = none ∧
        ((u.launch? s.thr.launch).map fun m => m.phaseAt 0 k) = some n ∧ u.thr.s = s.thr.s ∧ u.thr.p = s.thr.p ∧ u.mem = s.mem
      else s.thr.waited < s.thr.wlimF.getD s.thr.ctl.wlim.toNat → ∃ t, exec (.dsync w) s = .next t ∧
        t.thr.ctl = s.thr.ctl.setPhase n v ∧ t.thr.arrived = some (v + 8) ∧
        ((t.launch? s.thr.launch).map fun m => m.phaseAt v k) = some n ∧ t.thr.pc = s.thr.pc ∧ t.thr.s = s.thr.s ∧
        t.thr.p = s.thr.p ∧ t.mem = s.mem) ∧
    (s.ready (.waitc w) = true →
      ((s.opS 0 w.b).toNat < (vget 0 s.thr.w w.a.toNat).toNat ∨ ∃ x ∈ s.core.drained, x.1 = w.a.toNat) → 0 < (s.opS 0 w.d).toNat % 2 ^ 32 →
      if (s.opS 0 w.d).toNat % 2 ^ 32 ≤ s.thr.waited then exec (.waitc w) s =
        .next ((s.modThr fun t => { t with breakSkip := false }).takeTrap { cause := 0x0C, detail := 1 } s.thr.pc)
      else s.thr.waited < s.thr.wlimF.getD s.thr.ctl.wlim.toNat →
        ∃ t, exec (.waitc w) s = .next t ∧
          t.thr = { s.thr with waited := s.thr.waited + 1, wlimF := t.thr.wlimF, breakSkip := false } ∧
          t.core.nextIssue = s.now + 1 ∧ t = s.setCore t.core)

/-- R27, R121, R122: SUSP commits its bundle, takes a spill frame and asks the core to freeze the thread with reason 1 in the next cycle. EXIT ends
the thread once its engine commands have completed: the core is then idle, its registers and state units are gone, and its scratchpad keeps its
bytes; with commands open it waits. -/
def Obligations.SuspensionAndExit : Prop :=
  (∀ (w : SlotWord) (s : State), s.ready (.susp w) = true → s.core.live = true → s.thr.ctl.hnd = false → s.frameFree = true →
    ∃ t, exec (.susp w) s = .next t ∧ t.core.freezeReq = some (s.now + 1, 1) ∧ t.thr.frame.isSome = true ∧
      t.thr.pc = s.sequel.2.1 ∧ t.thr.s = s.thr.s ∧ t.thr.p = s.thr.p ∧ t.thr.v = s.thr.v ∧ t.thr.k = s.thr.k ∧ t.thr.ctl = s.thr.ctl ∧
      t.mem = s.mem ∧ t.core.scratch = s.core.scratch ∧ t.core.units = s.core.units) ∧
  ∀ (w : SlotWord) (s : State), s.ready (.exit w) = true → s.thr.ctl.hnd = false →
    ∃ t, exec (.exit w) s = .next t ∧ t.core.scratch = s.core.scratch ∧
      if s.core.enginesIdle then t.core.live = false ∧ t.core.thr = {} ∧ t.core.units = []
      else t.core.exiting = true ∧ t.core.live = s.core.live

/-- R60, R77, R125: TRAP and BKPT void their bundle and raise SOFT_TRAP and BREAK; SYSC commits its bundle and then enters the handler with EPC at
the address that sequential advance gives. An empty bundle executes no slot: it only takes its cycle and its IDLE cycles; with BRK set and
break_skip clear it raises BREAK with DETAIL 1. -/
def Obligations.TrapInstructions : Prop :=
  (∀ (w : SlotWord) (s : State),
    (s.ready (.trap w) = true →
      Traps (.trap w) s { cause := 0x10, detail := BitVec.ofNat 8 (w.a.toNat % 8 * 16 + w.mod.toNat) }) ∧
    (s.ready (.bkpt w) = true → Traps (.bkpt w) s { cause := 0x11, detail := 2 }) ∧
    (s.ready (.sysc w) = true → ∃ u, OnlyIssue s u ∧ u.thr.loops = s.sequel.1 ∧ u.thr.pc = s.sequel.2.1 ∧
      u.thr.flight = s.thr.flight ++ rotation s.now s.sequel.2.2 ∧
      exec (.sysc w) s =
        .next (u.takeTrap { cause := 0x10, detail := BitVec.ofNat 8 (128 + (w.a.toNat % 8 * 16 + w.mod.toNat)) } s.sequel.2.1
          s.core.bun.addr))) ∧
  ∀ (h : Header) (s : State), s.core.stage = none →
    let u := s.setCore { s.core with bun := { addr := s.thr.pc, len := 2, idle := h.idle.toNat, brk := h.brk, seg := h.seg } }
    if h.brk = true ∧ s.thr.breakSkip = false then exec (.emptyBundle h) s = .next (u.raises { cause := 0x11, detail := 1 })
    else Does (.emptyBundle h) s u

/-- R126, R24: RETH leaves handler mode: pc, held values and loop stack are those of the interrupted thread, HND is clear, the latches are
cleared, break_skip is set and the next bundle issues three cycles on; with a lease the engine state is restored. At user level it raises
PRIVILEGE. -/
def Obligations.HandlerReturn : Prop :=
  ∀ (w : SlotWord) (s : State), s.ready (.reth w) = true →
    if s.user then Traps (.reth w) s { cause := 0x03 }
    else if s.thr.ctl.lease = true ∧ s.core.enginesIdle = false then Holds (.reth w) s {}
    else ∃ t, exec (.reth w) s = .next t ∧ t.thr.pc = s.thr.ctl.epc ∧ t.thr.ctl = { s.thr.ctl with hnd := false, lease := false } ∧
      t.thr.held = s.thr.heldShadow ∧ t.thr.loops = s.thr.loopShadow ∧ t.thr.lS = Vector.replicate 8 0 ∧
      t.thr.lV = Vector.replicate 8 Vec.zero ∧ t.thr.breakSkip = true ∧ t.core.nextIssue = s.now + 3 ∧
      (∀ i l n, s.thr.ctl.lease = true → s.thr.leaseSave = some i → s.myLaunch = some l → s.thr.frame = some n →
        let j := s.leaseNow l n i
        t.thr.acc = j.acc ∧ t.core.units = j.units ∧ t.thr.e = j.e ∧ t.thr.pat = j.pat ∧ t.thr.mcfg = j.mcfg ∧ t.thr.mwin = j.mwin ∧
          t.thr.mctr = j.mctr) ∧
      t.thr.s = s.thr.s ∧ t.thr.p = s.thr.p ∧ t.thr.k = s.thr.k ∧ t.thr.v = s.thr.v ∧ t.thr.w = s.thr.w ∧ t.thr.o = s.thr.o ∧
      if s.thr.ctl.lease then OnlyWrites (s.setCore t.core) t
      else t = { s.setCore t.core with dies := t.dies, outbox := t.outbox } ∧ Asked s t

/-- R127, R24: LEASE saves the interrupted thread's engine state in its frame and sets FLAGS.LEASE; UNLEASE reads it back from the frame, with
what the frame does not carry as it was saved, and clears it; both change nothing else on the core. Where the lease is already as asked for they
have no effect; at user level they raise PRIVILEGE.
The model's own choices that it rests on: log entries 31, 106. -/
def Obligations.EngineLease : Prop :=
  ∀ (w : SlotWord) (s : State),
    (s.ready (.lease w) = true →
      if s.user then Traps (.lease w) s { cause := 0x03 }
      else if s.fw = true ∨ s.thr.ctl.lease = true then Does (.lease w) s s
      else if s.core.enginesIdle = true ∧ s.canFrame = true then
        ∃ u, Does (.lease w) s u ∧ OnlyWrites (s.takeFrame.setCore u.core) u ∧ u.thr.frame.isSome = true ∧
          u.core = { s.takeFrame.core with
            pending := [], thr := { s.takeFrame.thr with
              leaseSave := some s.core.leaseImage, ctl := { s.takeFrame.thr.ctl with lease := true } } }
      else Holds (.lease w) s {}) ∧
    (s.ready (.unlease w) = true →
      if s.user then Traps (.unlease w) s { cause := 0x03 }
      else if s.fw = true ∨ s.thr.ctl.lease = false then Does (.unlease w) s s
      else if s.core.enginesIdle = true then ∃ u, Does (.unlease w) s u ∧ OnlyWrites (s.setCore u.core) u ∧
        (u.thr.leaseSave = none ∧ u.thr.ctl = { s.thr.ctl with lease := false } ∧ u.thr.s = s.thr.s ∧ u.thr.v = s.thr.v ∧
          u.core.scratch = s.core.scratch) ∧
        ∀ i l n, s.thr.leaseSave = some i → s.myLaunch = some l → s.thr.frame = some n →
          let j := s.leaseNow l n i
          u.thr.acc = j.acc ∧ u.core.units = j.units ∧ u.thr.e = j.e ∧ u.thr.pat = j.pat ∧ u.thr.mcfg = j.mcfg ∧ u.thr.mwin = j.mwin ∧
            u.thr.mctr = j.mctr
      else Holds (.unlease w) s {})

/-- R124, R129, R287: GRAB asks the walker, which grants the next steps of the launch, or tells that none is left; its three results are
interlocked. SEGPF starts the copy of a segment that the table lists, unless it is resident or a copy is under way; an index beyond the table
raises SEGMENT with DETAIL 2, and a table that cannot be read gives it no effect.
The model's own choices that it rests on: log entries 4, 92. -/
def Obligations.GrabAndPrefetch : Prop :=
  ∀ (w : SlotWord) (s : State),
    (∀ l, s.ready (.grab w) = true → s.thr.ctl.hnd = false → s.myLaunch = some l → l.lost = false → l.dead = false → l.again = [] →
      let rem := l.n - l.next
      let p := max 1 (s.claimants s.thr.launch).length
      let n := if rem = 0 then 0 else if l.f ≤ l.next then 1
        else min (min (max l.minc ((rem + 2 * p - 1) / (2 * p))) (l.f - l.next)) rem
      let ok : Bool := n ≠ 0
      let f := if ok then l.next else 0
      ∃ u, Does (.grab w) s u ∧ u.thr.ilocks = s.thr.ilocks ++ [⟨[.s w.d.toNat, .s (w.d.toNat + 1), .p w.a.toNat],
        some { due := s.now, latch := some (0, .scalar (if ok then 1 else 0))
               writes := [.scalar w.d.toNat (BitVec.ofNat 64 f), .scalar (w.d.toNat + 1) (BitVec.ofNat 64 n), .pred w.a.toNat ok] },
        0, false, none⟩] ∧ ((u.launch? s.thr.launch).map Launch.next) = some (l.next + n) ∧
        u.thr.step = (if ok then f else s.thr.step) ∧ u.thr.s = s.thr.s ∧ u.mem = s.mem) ∧
    (s.ready (.segpf w) = true → match s.segCount with
      | .inr _ => Does (.segpf w) s s
      | .inl n => if n ≤ (s.opS 0 w.a).toNat then
          Traps (.segpf w) s { cause := 0x15, detail := 2, addr := s.opS 0 w.a }
        else match s.segEntry (s.opS 0 w.a).toNat with
          | .inr _ => Does (.segpf w) s s
          | .inl (st, len, img) =>
            if s.fw = true ∨ s.core.copying.isSome ∨ s.core.resident (s.opS 0 w.a).toNat = true then Does (.segpf w) s s
            else Does (.segpf w) s ((s.tableReach (s.opS 0 w.a).toNat (s.opS 0 w.a).toNat).setCore { s.core with
              copying := some ⟨(s.opS 0 w.a).toNat, st, len, img⟩
              segFails := s.core.segFails.filter fun x => x.1 ≠ (s.opS 0 w.a).toNat }))

/-! ### Encoding and fetch (R57 to R62, R78, R79, R82) -/

/-- R57, R58, R62, R82: the decoder reads from the bytes of a well-formed slot instruction alone in its bundle that instruction, with the
header and the long-immediate word that were encoded. -/
def Obligations.InstructionRoundTrip : Prop :=
  ∀ (i : Instr) (h : Header) (limm : Option Word), i.wf = true → (row i).isSome = true → bundleErr [i] limm.isSome 0 = none →
    decodeBytes (encode i h limm) = some i ∧
    ∃ b, decodeBundle false 0 (encode i h limm) = .bundle b ∧ b.hdr = h ∧ b.limm = limm ∧ b.len = (encode i h limm).length

/-- R57, R58, R59, R62, R82: a bundle of slot words in ascending slot decodes to its header, its words and its long-immediate word, at every
place in a line where it fits, whatever bytes follow (a firmware core has the slots C, A and L); and no bit of a slot word is dropped: the
word of the instruction that a listed word decodes to is that word. -/
def Obligations.BundleAndWordRoundTrip : Prop :=
  (∀ (fw : Bool) (off : Nat) (h : Header) (words : List (Slot × BitVec 40)) (limm : Option Word) (rest : List Byte),
    (words.map fun x => x.1.num).Pairwise (· < ·) → (fw = true → ∀ x ∈ words, x.1.num ≤ 2) →
    off + bundleLen words.length limm.isSome ≤ 64 → (h ≠ {} ∨ words ≠ [] ∨ limm.isSome = true) →
    decodeBundle fw off (encodeBundle h words limm ++ rest) =
      .bundle { hdr := h, words := words, pad := 0, limm := limm, len := bundleLen words.length limm.isSome }) ∧
  ∀ (k : Slot) (x : BitVec 40) (i : Instr), decodeSlot k x = some i → encodeSlot i = some (k, x)

/-- R57, R62, R82: bundles written out in the spec's examples decode to what they stand for. -/
def Obligations.WrittenWords : Prop :=
  decodeBytes [0x08, 0x00, 0x40, 0x00, 0x28, 0x0C, 0x98, 0x00] = some (.vred .v0 { d := 6, a := 5, wb := true }) ∧
  decodeBytes [0x40, 0x10, 0x09, 0x00, 0xF0, 0x01, 0x14, 0x00, 0x01, 0x00, 0x00, 0x03] =
    some (.sxch { a := 62, b := 0, mod := 9 }) ∧
  (match decodeBundle false 0 [0x0A, 0x10, 0x40, 0xC0, 0x27, 0x0A, 0x04, 0xC0, 0x63, 0x04, 0x04, 0x10, 0x45, 0x23, 0x01, 0x00] with
    | .bundle b => b.listed = [.add { d := 5, a := 4, b := 62, wb := true },
          .vfma .v0 { d := 2, a := 0, b := 35, pred := 3, pn := true, wb := true }] ∧
        b.limm = some 0x12345
    | _ => False)

/-- R57, R77, R82: at a bundle boundary at which no event of the core is due and nothing is kept for the thread, a step issues the bundle
at the program counter: one slot word is executed as the instruction that it decodes to; several are looked at in slot order and the
bundle is closed; an unlisted opcode raises ILLEGAL_OP with DETAIL 1. An event that stands in `inputs` comes before all this and is
executed by itself.
The model's own choices that it rests on: log entries 2, 25. -/
def Obligations.StepRunsTheDecodedInstruction : Prop :=
  ∀ s : State, s.host.stopped = false →
    (∀ i rest, s.inputs = i :: rest → step s = exec i { s with inputs := rest }) ∧
    (s.inputs = [] → s.firstOf s.coreEvents = none → s.atBoundary = true → s.thr.late = [] → s.thr.deferred = none →
      ∀ bank bytes b, s.fetch = .bytes bank bytes →
        (s.setCore { s.core with active := bank }).boundaryTrap = none →
        decodeBundle s.fw (s.thr.pc.toNat % 64) bytes = .bundle b →
        let u := s.setCore { s.core with
          active := bank, stage := none
          bun := { addr := s.thr.pc, len := b.len, idle := b.hdr.idle.toNat, brk := b.hdr.brk, seg := b.hdr.seg, limm := b.limm } }
        (b.words = [] → step s = exec (.emptyBundle b.hdr) u) ∧
        (∀ k x i, b.words = [(k, x)] → decodeSlot k x = some i → step s = exec i u) ∧
        (∀ k x, b.words = [(k, x)] → decodeSlot k x = none →
          step s = .next (u.raises { cause := 0x02, detail := 1, slot := BitVec.ofNat 3 k.num })) ∧
        (∀ t, 2 ≤ b.words.length → (u.setCore { u.core with stage := some [] }).lookWords b.words = .next t →
          step s = .next (t.closeBundle (t.core.stage.getD []))))

/-- R79, R70, R74: an encoding check that fails raises ILLEGAL_OP with its DETAIL in the slot, before anything else; the guard waits for its
predicate's interlocked result; a slot whose guard is false has no effect, whatever its instruction would do; a slot that executes holds
its bundle while a register that it names waits for an interlocked result. -/
def Obligations.ChecksGuardsAndInterlocks : Prop :=
  ∀ (i : Instr) (w : SlotWord) (r : Row) (s : State), row i = some (w, r) → s.core.stage = none →
    (∀ d, encErr s.fw i = some d → Traps i s { cause := 0x02, detail := BitVec.ofNat 8 d, slot := BitVec.ofNat 3 (slotNo i) }) ∧
    (encErr s.fw i = none → (∀ v, i = .loop v ∨ i = .loopr v → s.loopEnc v = none) →
      if s.thr.locked (.p w.pred.toNat) = true then Holds i s {}
      else if selects i = false ∧ s.thr.getP w.pred.toNat = w.pn then Passes i s
      else ((uses s i).any fun u => s.thr.locked u.reg) = true → Holds i s {})

/-- R71, R76, R149, R167, R80: what an A-slot or V-slot instruction raises before its own effect, in this order: an empty held value read
through code 63 is ILLEGAL_OP with DETAIL 5; with LCHK set, a register read before its pending result has landed is LATENCY_CHECK; a
misused stream is STREAM; a poisoned operand is POISON. -/
def Obligations.OperandExceptions : Prop :=
  ∀ (i : Instr) (w : SlotWord) (r : Row) (s : State), row i = some (w, r) → (r.slot = .a ∨ r.slot = .v0 ∨ r.slot = .v1) →
    (∀ u v, i = .vshuf u v → shufIll u v s = none) → s.core.stage = none → encErr s.fw i = none → s.thr.locked (.p w.pred.toNat) = false →
    (selects i = true ∨ s.thr.guard w = true) → ((uses s i).any fun u => s.thr.locked u.reg) = false →
    (∀ x ∈ streamUses i, s.streamBad x = none → s.streamReady x = true) →
    (∀ t, s.heldErr (slotNo i) i = some t → Traps i s t) ∧
    (∀ t, s.heldErr (slotNo i) i = none → s.latencyErr (slotNo i) i = some t → Traps i s t) ∧
    (∀ t, s.heldErr (slotNo i) i = none → s.latencyErr (slotNo i) i = none → s.streamErr (slotNo i) i = some t → Traps i s t) ∧
    (∀ t, s.heldErr (slotNo i) i = none → s.latencyErr (slotNo i) i = none → s.streamErr (slotNo i) i = none →
      s.poisonErr (slotNo i) i = some t → Traps i s t)

/-- R132, R134: BFX, BFI, CSEL, MOVI, MOVH and LEA land their results in D and in l1 one cycle on; R133: CMP lands its condition in p[D] and in
l1. -/
def Obligations.BitFieldsAndMoves : Prop :=
  ∀ (w : SlotWord) (s : State),
    let a := s.opS 1 w.a
    let b := s.opB w
    let d := s.opS 1 w.d
    let pos := b.toNat % 64
    let len := min (if b.toNat / 256 % 64 = 0 then 64 else b.toNat / 256 % 64) (64 - pos)
    let mask : DWord := (BitVec.allOnes 64 >>> (64 - len)) <<< pos
    let x := a <<< (64 - pos - len)
    (s.ready (.bfx w) = true →
      Gives (.bfx w) s [scalarLanding 1 w (s.now + 1) (if signedOf w then x.sshiftRight (64 - len) else x >>> (64 - len))]) ∧
    (s.ready (.bfi w) = true → Gives (.bfi w) s [scalarLanding 1 w (s.now + 1) ((d &&& ~~~mask) ||| ((a <<< pos) &&& mask))]) ∧
    (s.ready (.csel w) = true →
      Gives (.csel w) s [scalarLanding 1 w (s.now + 1) (if s.thr.getP w.pred.toNat ≠ w.pn then a else b)]) ∧
    (s.ready (.movi w) = true →
      Gives (.movi w) s [scalarLanding 1 w (s.now + 1) (Claim.widen (signedOf w) (b.setWidth (widthOf w)))]) ∧
    (s.ready (.movh w) = true → Gives (.movh w) s [scalarLanding 1 w (s.now + 1) ((b <<< 32) ||| (d &&& 0xFFFFFFFF))]) ∧
    (s.ready (.lea w) = true → Gives (.lea w) s [scalarLanding 1 w (s.now + 1) (a + b * BitVec.ofNat 64 (widthOf w / 8))]) ∧
    (s.ready (.cmp w) = true → ∀ c, (w.fmt.toNat, c) ∈ ([(0, a = b), (1, a ≠ b), (2, a.toInt < b.toInt), (3, b.toInt ≤ a.toInt),
        (4, a.toNat < b.toNat), (5, b.toNat ≤ a.toNat), (6, a &&& b ≠ 0), (7, a &&& b = 0)] : List (Nat × Prop)) →
      ∃ x, (x = true ↔ c) ∧ Gives (.cmp w) s
        [{ due := s.now + 1, latch := some (1, .scalar (if x then 1 else 0)), writes := if w.wb then [.pred w.d.toNat x] else [] }])

/-- R33, R34, R36, R40 to R44: each encoding has the class and value that R34 gives it; a conversion of a value to a format rounds it once in
its mode, overflows by R42 and sets the flags of R43; a value that the format holds is returned exactly, with no flag; NaNs become the
canonical one, and infinities and zeros keep their sign; a conversion to an integer rounds to an integer and then keeps to its range. -/
def Obligations.ExactConversions : Prop :=
  ([FFmt.fp32, .fp16, .bf16].map fun f => (f.width, f.exp, f.frac, f.bias, f.nan)) =
    [(32, 8, 23, 127, 0x7FC00000), (16, 5, 10, 15, 0x7E00), (16, 8, 7, 127, 0x7FC0)] ∧
  ∀ (f : FFmt) (mode : RMode),
    let p (e : Int) : Rat := (2 : Rat) ^ e
    (∀ x < 2 ^ f.width,
      let frac : Nat := x % 2 ^ f.frac
      let e : Nat := x / 2 ^ f.frac % 2 ^ f.exp
      let neg : Bool := 2 ^ (f.width - 1) ≤ x
      let s : Rat := if neg then -1 else 1
      let y := f.decode x
      (y.isNan = false → Claim.negative y = neg ∧ f.ofNum mode y = ⟨x, 0⟩) ∧
      (e = 0 → Claim.Finite y ∧ Claim.exact y = s * (frac * p (1 - f.bias - f.frac))) ∧
      (0 < e → e < 2 ^ f.exp - 1 → Claim.Finite y ∧ Claim.exact y = s * ((1 + frac / p f.frac) * p (e - f.bias))) ∧
      (e = 2 ^ f.exp - 1 → frac = 0 → y = .inf neg) ∧
      (e = 2 ^ f.exp - 1 → frac ≠ 0 → y = .nan (decide (frac < 2 ^ (f.frac - 1))))) ∧
    (∀ s, f.ofNum mode (.nan s) = ⟨f.nan, if s then 1 else 0⟩) ∧
    (∀ n, f.decode (f.ofNum mode (.inf n)).val = .inf n ∧ (f.ofNum mode (.inf n)).flags = 0) ∧
    (∀ n e, (f.ofNum mode (.fin n 0 e)).flags = 0 ∧ f.ofNum mode (.fin n 0 e) = ⟨if n then 2 ^ (f.width - 1) else 0, 0⟩) ∧
    (∀ n m e, m ≠ 0 →
      let v := Claim.exact (.fin n m e)
      let r := f.ofNum mode (.fin n m e)
      let y := f.decode r.val
      let overflows := Claim.Reaches mode n (Claim.mag v) (p (f.bias + 1)) (p (f.bias - f.frac))
      let normal := Claim.Reaches mode n (Claim.mag v) (p (1 - f.bias)) (p (-f.bias - f.frac))
      r.val < 2 ^ f.width ∧ Claim.negative y = n ∧
      (overflows → r.flags = 20 ∧
        if mode = .rtz ∨ mode = .rup ∧ n = true ∨ mode = .rdn ∧ n = false then
          Claim.Finite y ∧ Claim.mag (Claim.exact y) = p (f.bias + 1) - p (f.bias - f.frac)
        else y = .inf n) ∧
      (¬overflows → Claim.Finite y ∧
        Claim.Rounds mode (fun t => ∃ z < 2 ^ f.width, Claim.Finite (f.decode z) ∧ Claim.exact (f.decode z) = t) v (Claim.exact y)
          (r.val % 2 = 0) ∧
        (Claim.exact y = v → r.flags = 0) ∧ (Claim.exact y ≠ v → normal → r.flags = 16) ∧
        (Claim.exact y ≠ v → ¬normal → r.flags = 24))) ∧
    (∀ z : Int, f.ofInt mode z = if z = 0 then ⟨0, 0⟩ else f.ofNum mode (.fin (z < 0) z.natAbs 0)) ∧
    ∀ (w : Nat) (sg : Bool), 1 ≤ w →
      let lo : Int := if sg then -(2 ^ (w - 1)) else 0
      let hi : Int := if sg then 2 ^ (w - 1) - 1 else 2 ^ w - 1
      (∀ s, Machine.Num.toInteger mode w sg (.nan s) = (0, 1)) ∧ (∀ n, Machine.Num.toInteger mode w sg (.inf n) = (if n then lo else hi, 1)) ∧
      ∀ n m e, ∃ z : Int,
        Claim.Rounds mode (fun t => ∃ k : Int, t = k) (Claim.exact (.fin n m e)) z (z % 2 = 0) ∧
        Machine.Num.toInteger mode w sg (.fin n m e) =
          if z < lo then (lo, 1) else if hi < z then (hi, 1) else (z, if (z : Rat) = Claim.exact (.fin n m e) then 0 else 16)

/-- R38 to R41, R135, R136: a sum, a product and a sum of products are exact and rounded once, with the signs of R40 for zeros, and what R38
says of NaNs and infinities; comparisons are those of R39. SFADD, SFMUL, SFFMA and SFCVT land a result rounded once and its flags in D, l1 and FPST four cycles on, SFADD and SFFMA with
their negations in MOD; SFCMP lands its condition in p[D] and l1. -/
def Obligations.ScalarFloatResults : Prop :=
  (∀ (f : FFmt) (mode : RMode) (a b : Machine.Num),
    let sig : BitVec 5 := if a.isSig || b.isSig then 1 else 0
    let x := Claim.exact a
    let y := Claim.exact b
    let neg : Bool := Claim.negative a != Claim.negative b
    (Claim.Finite a → Claim.Finite b →
      (∀ n m e, Claim.exact (.fin n m e) = x + y → x + y ≠ 0 → f.add mode a b = f.ofNum mode (.fin n m e)) ∧
      (∀ n m e, Claim.exact (.fin n m e) = x * y → x * y ≠ 0 → f.mul mode a b = f.ofNum mode (.fin n m e)) ∧
      (x + y = 0 → f.add mode a b = ⟨f.sign (if x = 0 ∧ neg = false then Claim.negative a else mode = .rdn), 0⟩) ∧
      (x * y = 0 → f.mul mode a b = ⟨f.sign neg, 0⟩)) ∧
    (a.isNan = true ∨ b.isNan = true → f.add mode a b = ⟨f.nan, sig⟩ ∧ f.mul mode a b = ⟨f.nan, sig⟩) ∧
    (∀ n, a = .inf n → b.isNan = false → f.add mode a b = (if b = .inf (!n) then ⟨f.nan, 1⟩ else ⟨f.inf n, 0⟩) ∧
      (Claim.Same b (.fin false 0 0) → f.mul mode a b = ⟨f.nan, 1⟩ ∧ f.mul mode b a = ⟨f.nan, 1⟩) ∧
      (¬Claim.Same b (.fin false 0 0) → f.mul mode a b = ⟨f.inf neg, 0⟩ ∧ f.mul mode b a = ⟨f.inf neg, 0⟩)) ∧
    (a.cmp b = none ↔ a.isNan = true ∨ b.isNan = true) ∧
    ∀ lt eq, a.cmp b = some (lt, eq) → (lt = true ↔ Claim.Before a b) ∧ (eq = true ↔ Claim.Same a b)) ∧
  (∀ (f : FFmt) (mode : RMode) (c : Machine.Num) (ps : List (Machine.Num × Machine.Num)), Claim.Finite c → (∀ p ∈ ps, Claim.Finite p.1 ∧ Claim.Finite p.2) →
    let v : Rat := Claim.exact c + (ps.map fun p => Claim.exact p.1 * Claim.exact p.2).sum
    let zeros (n : Bool) : Prop := Claim.exact c = 0 ∧ Claim.negative c = n ∧
      ∀ p ∈ ps, Claim.exact p.1 * Claim.exact p.2 = 0 ∧ (Claim.negative p.1 != Claim.negative p.2) = n
    (∀ n m e, Claim.exact (.fin n m e) = v → v ≠ 0 → f.dot mode c ps = f.ofNum mode (.fin n m e)) ∧
    (∀ n, zeros n → f.dot mode c ps = ⟨f.sign n, 0⟩) ∧
    (v = 0 → (∀ n, ¬zeros n) → f.dot mode c ps = ⟨f.sign (mode = .rdn), 0⟩)) ∧
  ∀ (w : SlotWord) (s : State),
    let f := sfFormat w
    let a := f.decode ((s.opS 1 w.a).toNat % 2 ^ f.width)
    let b := f.decode ((s.opS 1 w.b).toNat % 2 ^ f.width)
    let d := f.decode ((s.opS 1 w.d).toNat % 2 ^ f.width)
    let lands (r : Flt) : List Landing := [scalarLanding 1 w (s.now + 4) (BitVec.ofNat 64 r.val) r.flags]
    (s.ready (.sfadd w) = true → Gives (.sfadd w) s (lands (f.add s.rmode a (if w.mod.getLsbD 0 then b.neg else b)))) ∧
    (s.ready (.sfmul w) = true → Gives (.sfmul w) s (lands (f.mul s.rmode a b))) ∧
    (s.ready (.sffma w) = true →
      Gives (.sffma w) s (lands (f.dot s.rmode (if w.mod.getLsbD 1 then d.neg else d) [(if w.mod.getLsbD 0 then a.neg else a, b)]))) ∧
    (s.ready (.sfcmp w) = true → ∃ x, (x = true ↔ match w.mod.toNat with
        | 0 => a.cmp b = some (false, true)
        | 1 => a.cmp b ≠ some (false, true)
        | 2 => ∃ e, a.cmp b = some (true, e)
        | _ => ∃ e, a.cmp b = some (false, e)) ∧
      Gives (.sfcmp w) s [{ due := s.now + 4, latch := some (1, .scalar (if x then 1 else 0))
                            flags := if a.isSig || b.isSig then 1 else 0, writes := if w.wb then [.pred w.d.toNat x] else [] }]) ∧
    (s.ready (.sfcvt w) = true → ∀ g, (w.mod.toNat, g) ∈ [(0, FFmt.fp32), (1, FFmt.fp16), (2, FFmt.bf16)] →
      Gives (.sfcvt w) s (lands (g.ofNum (.ofCode w.b.toNat s.rmode) a))) ∧
    (s.ready (.sfcvt w) = true → ∀ n sg, (w.mod.toNat, n, sg) ∈ [(4, 64, true), (5, 32, true), (6, 64, false), (7, 32, false)] →
      Gives (.sfcvt w) s [scalarLanding 1 w (s.now + 4) (BitVec.ofInt 64 (a.toInteger (.ofCode w.b.toNat s.rmode) n sg).1)
        (a.toInteger (.ofCode w.b.toNat s.rmode) n sg).2]) ∧
    (s.ready (.sfcvt w) = true → ∀ v, (w.mod.toNat, v) ∈ ([(8, (s.opS 1 w.a).toInt), (9, ((s.opS 1 w.a).setWidth 32).toInt),
        (10, (s.opS 1 w.a).toNat), (11, ((s.opS 1 w.a).setWidth 32).toNat)] : List (Nat × Int)) →
      Gives (.sfcvt w) s (lands (f.ofInt (.ofCode w.b.toNat s.rmode) v)))

/-! ### The V slots (R174 to R192) -/

namespace Sys2Proof.Claim
open Sys2Proof.Machine

/-- The element-wise instructions of R178, R180 and R185 with their latencies (R72) and their results: word, RMODE, and the elements of A,
B and D. -/
def elementOps : List ((VSlot → SlotWord → Instr) × (SlotWord → Nat) × (SlotWord → RMode → Nat → Nat → Nat → Flt)) :=
  let arith (w : SlotWord) : Nat := if w.fmt.toNat ≤ 2 then 4 else 2
  [(.vadd, arith, fun w m => elemOp w (fun f a b _ => f.add m (f.decode a) (f.decode b)) fun _ a b _ => a + b),
   (.vsub, arith, fun w m => elemOp w (fun f a b _ => f.add m (f.decode a) (f.decode b).neg) fun _ a b _ => a - b),
   (.vmul, arith, fun w m => elemOp w (fun f a b _ => f.mul m (f.decode a) (f.decode b)) fun _ a b _ => a * b),
   (.vfma, arith, fun w m => elemOp w (fun f a b d => f.dot m (f.decode d) [(f.decode a, f.decode b)]) fun _ a b d => a * b + d),
   (.vfms, arith, fun w m => elemOp w (fun f a b d => f.dot m (f.decode d).neg [(f.decode a, f.decode b)]) fun _ a b d => a * b - d),
   (.vfnma, arith, fun w m => elemOp w (fun f a b d => f.dot m (f.decode d) [((f.decode a).neg, f.decode b)]) fun _ a b d => d - a * b),
   (.vmin, fun _ => 2, fun w _ => elemOp w (fun f a b _ => f.minmax false a b) fun n a b _ => min (toSigned n a) (toSigned n b)),
   (.vmax, fun _ => 2, fun w _ => elemOp w (fun f a b _ => f.minmax true a b) fun n a b _ => max (toSigned n a) (toSigned n b)),
   (.vabs, fun _ => 2, fun w _ => elemOp w (fun f a _ _ => ⟨a % 2 ^ (f.width - 1), 0⟩) fun n a _ _ => (toSigned n a).natAbs),
   (.vneg, fun _ => 2, fun w _ => elemOp w (fun f a _ _ => ⟨a ^^^ 2 ^ (f.width - 1), 0⟩) fun _ a _ _ => -a),
   (.vshl, fun _ => 2, fun w _ => elemOp w (fun _ _ _ _ => ⟨0, 0⟩) fun n a b _ => a * 2 ^ (b % n)),
   (.vshr, fun _ => 2, fun w _ => elemOp w (fun _ _ _ _ => ⟨0, 0⟩) fun n a b _ => a / 2 ^ (b % n)),
   (.vsar, fun _ => 2, fun w _ => elemOp w (fun _ _ _ _ => ⟨0, 0⟩) fun n a b _ => toSigned n a / 2 ^ (b % n)),
   (.vmulh, fun _ => 2, fun w _ => elemOp w (fun _ _ _ _ => ⟨0, 0⟩) fun n a b _ => toSigned n a * toSigned n b / 2 ^ n),
   (.vclamp, fun _ => 2, fun w _ => elemOp w (fun _ _ _ _ => ⟨0, 0⟩) fun n a _ _ =>
     clampTo (w.b.getLsbD 5) (w.b.toNat % 32 + 1) (toSigned n a)),
   (.vrcp, fun _ => 8, fun w m => elemOp w (fun f a _ _ => f.recip m (f.decode a)) fun _ _ _ _ => 0),
   (.vrsq, fun _ => 8, fun w m => elemOp w (fun f a _ _ => f.rsqrt m (f.decode a)) fun _ _ _ _ => 0),
   (.vsqrt, fun _ => 8, fun w m => elemOp w (fun f a _ _ => f.sqrt m (f.decode a)) fun _ _ _ _ => 0),
   (.vexp2, fun _ => 8, fun w m => elemOp w (fun f a _ _ => f.exp2 m (f.decode a) a) fun _ _ _ _ => 0),
   (.vlog2, fun _ => 8, fun w m => elemOp w (fun f a _ _ => f.log2 m (f.decode a) a) fun _ _ _ _ => 0)]

/-- An instruction lands a vector in D and in its slot's latch: masked-off lanes read zero in the latch, and in D they keep their value under
merging and become zero under zeroing (R175, R176); the active lanes are those given, and the flags those given. -/
def LandsLanes (i : Instr) (u : VSlot) (w : SlotWord) (s : State) (lat : Nat) (lane : Nat → Word) (flag : Nat → Prop) : Prop :=
  ∃ x fl, Gives i s [vectorLanding u.slot.num w (s.now + lat) x (if w.mod.getLsbD 3 then BitVec.allOnes 128 else s.laneMask w) x fl] ∧
    (∀ l, l < 128 → vlane x l = if (s.laneMask w).getLsbD l then lane l else 0) ∧ ∀ b, b < 5 → (fl.getLsbD b = true ↔ flag b)

end Sys2Proof.Claim

/-- R178, R180, R185, R175, R176: each element-wise instruction lands, for each active lane, the lane whose elements are the results on the
elements of A, B and D; its flags are those that some element of an active lane raises. -/
def Obligations.VectorElementResults : Prop :=
  ∀ x ∈ Claim.elementOps, ∀ (u : VSlot) (w : SlotWord) (s : State), s.ready (x.1 u w) = true →
    let r (l j : Nat) : Flt := x.2.2 w s.rmode (elemOf w.fmt.toNat (vlane (s.opV u.slot.num w.a) l) j)
      (elemOf w.fmt.toNat (vlane (s.opV u.slot.num w.b) l) j) (elemOf w.fmt.toNat (vlane (s.opV u.slot.num w.d) l) j)
    ∃ lane : Nat → Word, (∀ l j, l < 128 → j < kel w.fmt.toNat →
        elemOf w.fmt.toNat (lane l) j = (r l j).val % 2 ^ elemWidth w.fmt.toNat) ∧
      Claim.LandsLanes (x.1 u w) u w s (x.2.1 w) lane fun b =>
        ∃ l j, l < 128 ∧ (s.laneMask w).getLsbD l = true ∧ j < kel w.fmt.toNat ∧ (r l j).flags.getLsbD b = true

/-- R179, R182, R186, R187, R189, R190: bitwise logic, VMOV, VMOVI, VIDX, VBCAST, VSHUF and VXC land their lanes under the mask and raise no
flags; VSEL selects by the mask and writes every lane. A VSHUF entry with a selector above 31 raises ILLEGAL_OP with DETAIL 15. -/
def Obligations.VectorLaneMoves : Prop :=
  ∀ (u : VSlot) (w : SlotWord) (s : State),
    let a := s.opV u.slot.num w.a
    let b := s.opV u.slot.num w.b
    let d := s.opV u.slot.num w.d
    let fmt := w.fmt.toNat
    let k := kel fmt
    let lands (i : Instr) (lat : Nat) (f : Nat → Word) : Prop := s.ready i = true → Claim.LandsLanes i u w s lat f fun _ => False
    let elems (i : Instr) (f : Nat → Nat → Nat) : Prop := ∃ lane : Nat → Word, lands i 2 lane ∧ ∀ l j, l < 128 → j < k →
      elemOf fmt (lane l) j = f l j % 2 ^ elemWidth fmt
    lands (.vand u w) 2 (fun l => vlane a l &&& vlane b l) ∧ lands (.vor u w) 2 (fun l => vlane a l ||| vlane b l) ∧
    lands (.vxor u w) 2 (fun l => vlane a l ^^^ vlane b l) ∧ lands (.vandn u w) 2 (fun l => vlane a l &&& ~~~vlane b l) ∧
    lands (.vmov u w) 2 (vlane a) ∧
    elems (.vmovi u w) (fun _ _ => moviElem fmt (w.a ++ w.b).toInt) ∧
    elems (.vidx u w) (fun l j => moviElem fmt ((l * k + j : Nat) : Int)) ∧
    elems (.vbcast u w) (fun l _ => elemOf fmt (vlane a (16 * (l / 16) + w.b.toNat / k)) (w.b.toNat % k)) ∧
    lands (.vxc u w) 6 (fun l => vlane a (16 * (match w.b.toNat / 16 with
      | 0 => (l / 16 + w.b.toNat % 8) % 8
      | 1 => w.b.toNat % 8
      | _ => (l / 16) ^^^ (w.b.toNat % 8)) + l % 16)) ∧
    (s.ready (.vsel u w) = true → ∃ x, (∀ l, l < 128 → vlane x l = if (s.laneMask w).getLsbD l then vlane a l else vlane b l) ∧
      Gives (.vsel u w) s [vectorLanding u.slot.num w (s.now + 2) x (BitVec.allOnes 128) x]) ∧
    (s.ready (.vshuf u w) = true →
      let sel (j : Nat) : Nat := ((s.thr.pattern s.thr.bank w.b.toNat).extractLsb' (6 * j) 6).toNat
      if ∃ j, j < 16 ∧ 32 ≤ sel j then Traps (.vshuf u w) s { cause := 0x02, detail := 15, slot := BitVec.ofNat 3 u.slot.num }
      else Claim.LandsLanes (.vshuf u w) u w s 3 (fun l =>
        if sel (l % 16) < 16 then vlane a (16 * (l / 16) + sel (l % 16)) else vlane d (16 * (l / 16) + (sel (l % 16) - 16)))
        fun _ => False)

/-- R39, R181, R183, R187: the conditions of VCMP are those of R39 and R181; VCMP lands in k[D mod 8], for each active lane, whether its condition holds for every element; the mask instructions land
their lane logic in k[D] and in the latch as 0 or 1 in each lane; KPOP lands the number of ones, and VEXT the element that s[B] names, in a
scalar register. -/
def Obligations.VectorMasks : Prop :=
  (∀ k f, (k, f) ∈ [(0, FFmt.fp32), (1, FFmt.bf16), (2, FFmt.fp16)] → ∀ a b : Nat,
    let x := f.decode a
    let y := f.decode b
    ∀ c t, (c, t) ∈ ([(0, Claim.Same x y), (1, ¬Claim.Same x y), (2, Claim.Before x y), (3, Claim.Before y x ∨ Claim.Same x y),
        (4, Claim.Before x y ∨ Claim.Same x y), (5, Claim.Before y x)] : List (Nat × Prop)) →
      ((vcompare k c a b).1 = true ↔ t) ∧ (vcompare k c a b).2 = if x.isSig || y.isSig then 1 else 0) ∧
  (∀ k ∈ [3, 4, 5], ∀ a b : BitVec (elemWidth k),
    ∀ c t, (c, t) ∈ ([(0, a = b), (1, a ≠ b), (2, a.toInt < b.toInt), (3, b.toInt ≤ a.toInt), (4, a.toInt ≤ b.toInt), (5, b.toInt < a.toInt),
        (6, a.toNat < b.toNat), (7, b.toNat ≤ a.toNat)] : List (Nat × Prop)) →
      ((vcompare k c a.toNat b.toNat).1 = true ↔ t) ∧ (vcompare k c a.toNat b.toNat).2 = 0) ∧
  ∀ (u : VSlot) (w : SlotWord) (s : State),
    let lands (i : Instr) (kd : Nat) (en : BitVec 128) (bit : Nat → Prop) (flag : Nat → Prop) : Prop := s.ready i = true →
      ∃ (x : BitVec 128) (v : Vec) (fl : BitVec 5), Gives i s
          [{ due := s.now + 2, latch := some (u.slot.num, .vector v), flags := fl, writes := if w.wb then [.mask kd x en] else [] }] ∧
        (∀ l, l < 128 → (x.getLsbD l = true ↔ bit l)) ∧ (∀ l, l < 128 → vlane v l = if x.getLsbD l then 1 else 0) ∧
        ∀ b, b < 5 → (fl.getLsbD b = true ↔ flag b)
    let c (l j : Nat) : Bool × BitVec 5 := vcompare w.fmt.toNat (w.d.toNat / 8) (elemOf w.fmt.toNat (vlane (s.opV u.slot.num w.a) l) j)
      (elemOf w.fmt.toNat (vlane (s.opV u.slot.num w.b) l) j)
    lands (.vcmp u w) (w.d.toNat % 8) (if w.mod.getLsbD 3 then BitVec.allOnes 128 else s.laneMask w)
      (fun l => (s.laneMask w).getLsbD l = true ∧ ∀ j, j < kel w.fmt.toNat → (c l j).1 = true)
      (fun b => ∃ l j, l < 128 ∧ (s.laneMask w).getLsbD l = true ∧ j < kel w.fmt.toNat ∧ (c l j).2.getLsbD b = true) ∧
    (∀ x ∈ ([(.kand, fun a b => a && b), (.kor, fun a b => a || b), (.kxor, fun a b => a != b), (.knot, fun a _ => !a)] :
        List ((VSlot → SlotWord → Instr) × (Bool → Bool → Bool))),
      lands (x.1 u w) w.d.toNat (BitVec.allOnes 128)
        (fun l => x.2 ((s.thr.getK w.a.toNat).getLsbD l) ((s.thr.getK w.b.toNat).getLsbD l) = true) fun _ => False) ∧
    (s.ready (.kpop u w) = true →
      Gives (.kpop u w) s [scalarLanding u.slot.num w (s.now + 2) ((s.thr.getK w.a.toNat).cpop.setWidth 64)]) ∧
    (s.ready (.vext u w) = true →
      let e := (s.thr.getS w.b.toNat).toNat % (128 * kel w.fmt.toNat)
      let x := elemOf w.fmt.toNat (vlane (s.opV u.slot.num w.a) (e / kel w.fmt.toNat)) (e % kel w.fmt.toNat)
      Gives (.vext u w) s [scalarLanding u.slot.num w (s.now + 6)
        (if w.fmt.toNat ≤ 2 then BitVec.ofNat 64 x else BitVec.ofInt 64 (toSigned (elemWidth w.fmt.toNat) x))])

/-- R44, R184, R188: each kind of conversion gives what R44 and R184 say; VCVT converts each active lane's elements, into the part of D's lane that B names where D has more elements to a lane, and from
that part of A's lane where it has fewer; VPACK, VUNPK and VMOVN write their registers, the latch taking the last. -/
def Obligations.VectorConversions : Prop :=
  (∀ (mode : RMode) (sat : Bool), ∀ k f, (k, f) ∈ [(0, FFmt.fp32), (1, FFmt.bf16), (2, FFmt.fp16)] →
    (∀ g h x, (g, h) ∈ [(0, FFmt.fp32), (1, FFmt.bf16), (2, FFmt.fp16)] → convElem mode k g sat x = h.ofNum mode (f.decode x)) ∧
    (∀ g n x, (g, n) ∈ [(3, 32), (4, 16), (5, 8)] → convElem mode k g sat x =
      ⟨(BitVec.ofInt n ((f.decode x).toInteger mode n true).1).toNat, ((f.decode x).toInteger mode n true).2⟩) ∧
    (∀ g, g ∈ [3, 4, 5] → ∀ x : BitVec (elemWidth g), convElem mode g k sat x.toNat = f.ofInt mode x.toInt)) ∧
  (∀ (mode : RMode), ∀ g m, (g, m) ∈ [(3, 32), (4, 16), (5, 8)] → ∀ k ∈ [3, 4, 5], ∀ x : BitVec (elemWidth k),
    convElem mode k g false x.toNat = ⟨(x.signExtend m).toNat, 0⟩ ∧
    convElem mode k g true x.toNat = ⟨(BitVec.ofInt m (max (-(2 ^ (m - 1))) (min (2 ^ (m - 1) - 1) x.toInt))).toNat, 0⟩) ∧
  ∀ (u : VSlot) (w : SlotWord) (s : State),
    let fmt := w.fmt.toNat
    let g := w.b.toNat % 8
    let part := w.b.toNat / 8 % 4
    let a := s.opV u.slot.num w.a
    let d := s.opV u.slot.num w.d
    let conv (x : Nat) : Flt := convElem s.rmode fmt g (w.b.getLsbD 5) x
    let many (i : Instr) (n : Nat) (f : Nat → Nat → Word) : Prop := s.ready i = true → ∃ xs : List Vec, xs.length = n ∧
      (∀ r l, r < n → l < 128 → vlane (xs.getD r Vec.zero) l = if (s.laneMask w).getLsbD l then f r l else 0) ∧
      Gives i s [{ due := s.now + 2, latch := some (u.slot.num, .vector (xs.getD (n - 1) Vec.zero))
                   writes := if w.wb then xs.mapIdx fun r x =>
                     .vec (w.d.toNat + r) x (if w.mod.getLsbD 3 then BitVec.allOnes 128 else s.laneMask w) else [] }]
    (s.ready (.vcvt u w) = true →
      let src (l j : Nat) : Option Nat :=
        if kel fmt < kel g then (if j / kel fmt = part then some (elemOf fmt (vlane a l) (j % kel fmt)) else none)
        else some (elemOf fmt (vlane a l) (part * kel g + j))
      ∃ lane : Nat → Word, (∀ l j, l < 128 → j < kel g → elemOf g (lane l) j = match src l j with
          | some x => (conv x).val % 2 ^ elemWidth g
          | none => elemOf g (vlane d l) j) ∧
        Claim.LandsLanes (.vcvt u w) u w s 4 lane fun b => ∃ l j x, l < 128 ∧ (s.laneMask w).getLsbD l = true ∧ j < kel g ∧
          src l j = some x ∧ (conv x).flags.getLsbD b = true) ∧
    (∃ lane : Nat → Word, many (.vpack u w) 1 (fun _ => lane) ∧ ∀ l j, l < 128 → j < kel fmt →
      elemOf fmt (lane l) j = (vlane (s.thr.getV (w.a.toNat + j)) l).toNat % 2 ^ elemWidth fmt) ∧
    many (.vunpk u w) (kel fmt) (fun r l =>
      let x := elemOf fmt (vlane (s.thr.getV w.a.toNat) l) r
      if fmt ≤ 2 then BitVec.ofNat 32 x else BitVec.ofInt 32 (toSigned (elemWidth fmt) x)) ∧
    many (.vmovn u w) (w.b.toNat + 1) (fun r l => vlane (s.thr.getV (w.a.toNat + r)) l)

/-- R39, R191: the operations of a tree are those of R191, with the minimum and maximum of R39; VRED lands, in every element of a cluster, the root of the pairwise tree over the cluster's elements in element order, and VSCAN the
inclusive prefixes; flags count for the clusters that have an active lane. -/
def Obligations.ClusterReductions : Prop :=
  (∀ (f : FFmt) (hi : Bool) (x y : Nat), x < 2 ^ f.width → y < 2 ^ f.width →
    let a := f.decode x
    let b := f.decode y
    (a.isNan = true ∨ b.isNan = true → f.minmax hi x y = ⟨f.nan, if a.isSig || b.isSig then 1 else 0⟩) ∧
    (Claim.Before a b → f.minmax hi x y = ⟨if hi then y else x, 0⟩) ∧ (Claim.Before b a → f.minmax hi x y = ⟨if hi then x else y, 0⟩) ∧
    (Claim.Same a b → f.minmax hi x y = ⟨if Claim.negative a = hi then y else x, 0⟩)) ∧
  (∀ (mode : RMode), ∀ k f, (k, f) ∈ [(0, FFmt.fp32), (1, FFmt.bf16), (2, FFmt.fp16)] → ∀ x y,
    redOp mode k 0 x y = f.add mode (f.decode x) (f.decode y) ∧ redOp mode k 1 x y = f.minmax false x y ∧
    redOp mode k 2 x y = f.minmax true x y) ∧
  (∀ (mode : RMode), ∀ k ∈ [3, 4, 5], ∀ a b : BitVec (elemWidth k), ∀ o c, (o, c) ∈ [(0, a + b),
      (1, if b.toInt < a.toInt then b else a), (2, if a.toInt < b.toInt then b else a), (3, a &&& b), (4, a ||| b), (5, a ^^^ b)] →
    redOp mode k o a.toNat b.toNat = ⟨c.toNat, 0⟩) ∧
  ∀ (u : VSlot) (w : SlotWord) (s : State),
    let fmt := w.fmt.toNat
    let op := redOp s.rmode fmt w.b.toNat
    let es (c : Nat) : List Nat := clusterElems fmt (s.opV u.slot.num w.a) c
    (s.ready (.vred u w) = true → ∃ lane : Nat → Word,
      (∀ l j, l < 128 → (s.laneMask w).getLsbD l = true → j < kel fmt →
        elemOf fmt (lane l) j = (redTree op 6 (es (l / 16))).1 % 2 ^ elemWidth fmt) ∧
      Claim.LandsLanes (.vred u w) u w s 6 lane fun b =>
        ∃ c, c < 8 ∧ clusterActive (s.laneMask w) c = true ∧ (redTree op 6 (es c)).2.getLsbD b = true) ∧
    (s.ready (.vscan u w) = true → ∃ lane : Nat → Word,
      (∀ l j, l < 128 → (s.laneMask w).getLsbD l = true → j < kel fmt →
        elemOf fmt (lane l) j = ((scanTree op 6 1 (es (l / 16))).1.getD (l % 16 * kel fmt + j) 0) % 2 ^ elemWidth fmt) ∧
      Claim.LandsLanes (.vscan u w) u w s 8 lane fun b =>
        ∃ c, c < 8 ∧ clusterActive (s.laneMask w) c = true ∧ (scanTree op 6 1 (es c)).2.getLsbD b = true)

/-! ### Memory and the L slot (R137 to R173, R272 to R275) -/

namespace Sys2Proof.Claim
open Sys2Proof.Machine

/-- A load changes nothing but its interlock, the race table, the pinned lines, MMST, the requests to other packages with their tokens and
free values, and the page-request queue that a firmware core's read of PGRQ pops. -/
def OnlyLoad (s u : State) (x : Ilock) : Prop :=
  u = { s with
    races := u.races, dies := u.dies, outbox := u.outbox, freeCtr := u.freeCtr, tokens := u.tokens
    host := { s.host with pgrq := u.host.pgrq, pgWait := u.host.pgWait }
    core := { s.core with thr := { s.thr with ilocks := s.thr.ilocks ++ [x], ctl := { s.thr.ctl with mmst := u.thr.ctl.mmst } } } }

/-- A global store changes nothing but memory with its tags and poison marks, release records, the race table, the pinned lines, the
provisional store buffer, and the messages to other packages with the acknowledgements that its launch waits for. -/
def OnlyStore (s u : State) : Prop :=
  u = { s with
    mem := u.mem, tags := u.tags, poison := u.poison, seqWords := u.seqWords, releases := u.releases, races := u.races, psb := u.psb
    dies := u.dies, outbox := u.outbox, launches := u.launches }

/-- The state after the bytes of a store are written at the physical pieces that its address translates to. -/
def stored (s : State) (l : List (Nat × Nat × Target)) (bs : List Byte) : State :=
  l.foldl (fun t x => match x.2.2 with
    | .phys pa key _ _ => t.writePA key pa ((bs.drop x.1).take x.2.1)
    | .away _ => t) s

/-- A scratchpad store changes nothing but the bytes and marks of the launch's claim on its core, MMST and release records. -/
def OnlyPad (s u : State) : Prop :=
  u = { s with
    seqWords := u.seqWords, releases := u.releases
    core := { s.core with
      scratch := u.core.scratch, spoison := u.core.spoison, beside := u.core.beside
      thr := { s.thr with ctl := { s.thr.ctl with mmst := u.thr.ctl.mmst } } } }

/-- The full/empty bit of a scratchpad word, set or cleared in the launch's claim on a core. -/
def setFull (s : State) (core word : Nat) (b : Bool) : State :=
  s.modCore core fun c => c.onClaim s.thr.launch fun c => { c with full := c.full.put word b }

/-- Bytes written in the launch's claim on a core. -/
def putPad (s : State) (core off : Nat) (bs : List Byte) : State :=
  s.modCore core fun c => c.onClaim s.thr.launch fun c => c.putScratch off bs

/-- An update of a word at a place: the state after it, release records, tokens and messages apart. -/
def updated (s : State) (p : Place) (bs : List Byte) : State :=
  match p with
  | .mem l => stored s l bs
  | .pad core off => putPad s core off bs

/-- Two states agree but for release records, pinned lines, tokens, the thread's interlocks and MMST, and the launches' unacknowledged
reductions. -/
def ButAtomic (s u : State) : Prop :=
  u = { s with
    seqWords := u.seqWords, releases := u.releases, launches := u.launches, dies := u.dies, tokens := u.tokens
    core := { s.core with thr := { s.thr with ilocks := u.thr.ilocks, ctl := { s.thr.ctl with mmst := u.thr.ctl.mmst } } } }

/-- An arrival request has left (R409): `v` is `u` with the reply kept for the thread, release records, pinned lines and MMST apart, and the
bundle of `s` holds for one cycle. -/
def Requested (s u v : State) : Prop :=
  v = { u with
    seqWords := v.seqWords, releases := v.releases, dies := v.dies
    core := { u.core with
      thr := { u.thr with
        barv := v.thr.barv, breakSkip := false, waited := s.thr.waited + 1, ctl := { u.thr.ctl with mmst := v.thr.ctl.mmst } }
      waitInfo := some {}, nextIssue := s.now + 1 } }

/-- The response to an arrival request has been taken (R409): a freeze that it has delayed comes in the next cycle. -/
def answered (s : State) : State :=
  s.setCore { s.core with
    thr := { s.thr with barv := none }, freezeReq := s.core.freezeReq.map fun x => (max x.1 (s.now + 1), x.2) }

end Sys2Proof.Claim

/-- R275: a write of physical bytes under a key id is read back under that key id; every other byte of memory reads under that key id as
before; a line that the write touches reads as zero under every other key id, and every other line reads as before.
The model's own choices that it rests on: log entries 6, 7. -/
def Obligations.KeyedMemory : Prop :=
  ∀ (s : State) (key pa : Nat) (bs : List Byte), s.mem.wf = true → Table.wf (0, 0) s.tags = true →
    let u := s.writePA key pa bs
    (∀ i, i < bs.length → u.readByte key (pa + i) = bs.getD i 0) ∧
    (∀ a, (a < pa ∨ pa + bs.length ≤ a) → u.readByte key a = s.readByte key a) ∧
    (∀ k a, a / 128 ∉ unitsOf 128 pa bs.length → u.readByte k a = s.readByte k a) ∧
    (∀ k a, k ≠ key → a / 128 ∈ unitsOf 128 pa bs.length → u.readByte k a = 0) ∧
    u.mem.wf = true ∧ Table.wf (0, 0) u.tags = true ∧ u = { s with mem := u.mem, tags := u.tags, poison := u.poison }

/-- R145, R147, R148, R72: LDG, VLDG and VGTG whose addresses translate and pass the race checks issue with one interlocked result: the bytes
read, extended as asked; the lanes of a gather that are not active keep D's value. A load changes no memory.
The model's own choices that it rests on: log entries 3, 4, 91. -/
def Obligations.GlobalLoads : Prop :=
  ∀ (w : SlotWord) (s : State),
    (s.ready (.ldg w) = true → ∀ l race, s.globalAcc (s.offAddr w (sizeOf_ w)) (sizeOf_ w) (sizeOf_ w) { rd := true } = .inl l →
      s.raceCheck l (s.offAddr w (sizeOf_ w)) false = .inl race →
      let r := s.readData (s.offAddr w (sizeOf_ w)) (sizeOf_ w) l
      ∃ u marks token home, Does (.ldg w) s u ∧ (r.2 = false → marks = []) ∧
        (anyAway l = false → token = 0 ∧ home = none ∧ u.outbox = s.outbox) ∧ Claim.OnlyLoad s u
          ⟨destRegs false w, some (scalarLanding 2 w s.now (loadValue (w.mod.getLsbD 3) r.1) 0 marks), token, true, home⟩) ∧
    (s.ready (.vldg w) = true → ∀ l race, s.globalAcc (s.offAddr w 512) 512 64 { rd := true } = .inl l →
      s.raceCheck l (s.offAddr w 512) false = .inl race →
      let r := s.readData (s.offAddr w 512) 512 l
      ∃ u marks token home, Does (.vldg w) s u ∧ (r.2 = false → marks = []) ∧
        (anyAway l = false → token = 0 ∧ home = none ∧ u.outbox = s.outbox) ∧ Claim.OnlyLoad s u
          ⟨destRegs true w, some (vectorLanding 2 w s.now (vecOf r.1) (BitVec.allOnes 128) (vecOf r.1) 0 marks), token, true, home⟩) ∧
    (s.ready (.vgtg w) = true → ∀ ls race, lanesOk (fun a => s.globalAcc a 4 4 { rd := true }) (s.laneAddrs w) = .inl ls →
      s.raceLanes ls false = .inl race →
      ∃ u v marks token home, Does (.vgtg w) s u ∧
        (∀ l, l < 128 → vlane v l = match ls.find? fun x => x.1 = l with
          | some x => BitVec.ofNat 32 (bytesNat (s.loadAt x.2.1 x.2.2).1)
          | none => vlane (s.opV 2 w.d) l) ∧
        Claim.OnlyLoad s u
          ⟨destRegs true w, some (vectorLanding 2 w s.now v (BitVec.allOnes 128) v 0 marks), token, true, home⟩)

/-- R145, R147, R148, R172: STG and VSTG whose address translates and passes the race checks, and which find room in the provisional store
buffer where the step is provisional, write their bytes, and VSCG its lanes in ascending lane; a provisional step changes no memory. Where
the address is one physical piece, exactly its bytes change (R275).
The model's own choices that it rests on: log entries 3. -/
def Obligations.GlobalStores : Prop :=
  ∀ (w : SlotWord) (s : State),
    (∀ i va align bs, (i, va, align, bs) ∈ [(Instr.stg w, s.offAddr w (sizeOf_ w), sizeOf_ w, s.storeBytes w),
        (Instr.vstg w, s.offAddr w 512, 64, (s.opV 2 w.d).bytes)] → s.ready i = true →
      ∀ l race, s.globalAcc va bs.length align { wr := true } = .inl l → s.raceCheck l va true = .inl race → s.noRoom va l = false →
        (s.fw = true → va.toNat < deviceBase) →
        ∃ u, Does i s u ∧ Claim.OnlyStore s u ∧ (anyAway l = false → u.launches = s.launches ∧ u.outbox = s.outbox) ∧
          (s.prov = true → u.mem = s.mem ∧ u.tags = s.tags ∧ u.poison = s.poison) ∧
          (s.prov = false → u.psb = s.psb ∧ u.mem = (Claim.stored s l bs).mem ∧ u.tags = (Claim.stored s l bs).tags ∧
            u.poison = (Claim.stored s l bs).poison) ∧
          (s.prov = false → s.mem.wf = true → Table.wf (0, 0) s.tags = true →
            ∀ pa key rck pool, l = [(0, bs.length, .phys pa key rck pool)] →
              (∀ k, k < bs.length → u.readByte key (pa + k) = bs.getD k 0) ∧
              (∀ k a, (a < pa ∨ pa + bs.length ≤ a) → (k = key ∨ a / 128 ∉ unitsOf 128 pa bs.length) →
                u.readByte k a = s.readByte k a))) ∧
    (s.ready (.vscg w) = true → ∀ ls race, lanesOk (fun a => s.globalAcc a 4 4 { wr := true }) (s.laneAddrs w) = .inl ls →
      s.raceLanes ls true = .inl race → s.fw = false → (s.prov = true → s.bufferRoom (ls.flatMap fun x => linesOf x.2.1 x.2.2) = true) →
      ∃ u, Does (.vscg w) s u ∧ Claim.OnlyStore s u ∧ (s.prov = true → u.mem = s.mem ∧ u.tags = s.tags) ∧
        (s.prov = false →
          let t := ls.foldl (fun t x => Claim.stored t x.2.2 (natBytes 4 (vlane (s.opV 2 w.d) x.1).toNat)) s
          u.mem = t.mem ∧ u.tags = t.tags))

/-- R145 to R148: LDL and VLDL land the bytes of the own core's scratchpad four cycles on, and VGTL its lanes; STL, VSTL and VSCL write theirs.
On an engine-owned block a load holds, and a store raises OWNER. -/
def Obligations.ScratchpadAccesses : Prop :=
  ∀ (w : SlotWord) (s : State),
    (∀ (i : Instr) va n align (f : List Byte → List PMark → Landing), (i, va, n, align, f) ∈
        [(Instr.ldl w, s.offAddr w (sizeOf_ w), sizeOf_ w, sizeOf_ w,
            fun bs m => scalarLanding 2 w (s.now + 4) (loadValue (w.mod.getLsbD 3) bs) 0 m),
         (Instr.vldl w, s.offAddr w 512, 512, 64,
            fun bs m => vectorLanding 2 w (s.now + 4) (vecOf bs) (BitVec.allOnes 128) (vecOf bs) 0 m)] → s.ready i = true →
      ∀ core off, s.localAcc va n align true false = .inl (core, off) →
        if (s.padOf core).ownedAt off n = true then Holds i s {}
        else ∃ mm marks, ((wordsOf off n).any (s.padOf core).spoison.has = false → marks = []) ∧
          Does i s (s.modThr fun t => { t with flight := t.flight ++ [f ((s.padOf core).scratch.read off n) marks]
                                               ctl := { t.ctl with mmst := mm } })) ∧
    (s.ready (.vgtl w) = true → ∀ ls, lanesOk (s.padLane false) (s.laneAddrs w) = .inl ls →
      ∃ v marks, (∀ l, l < 128 → vlane v l = match ls.find? fun x => x.1 = l with
          | some x => BitVec.ofNat 32 (s.core.scratch.le x.2.2 4)
          | none => vlane (s.opV 2 w.d) l) ∧
        Gives (.vgtl w) s [vectorLanding 2 w (s.now + 4) v (BitVec.allOnes 128) v 0 marks]) ∧
    (∀ i va align bs, (i, va, align, bs) ∈ [(Instr.stl w, s.offAddr w (sizeOf_ w), sizeOf_ w, s.storeBytes w),
        (Instr.vstl w, s.offAddr w 512, 64, (s.opV 2 w.d).bytes)] → s.ready i = true →
      ∀ core off, s.localAcc va bs.length align true true = .inl (core, off) →
        if (s.padOf core).ownedAt off bs.length = true then Traps i s { cause := 0x07, addr := va, slot := 2, wr := true }
        else ∃ u, Does i s u ∧ Claim.OnlyPad s u ∧ (u.padOf core).scratch = (s.padOf core).scratch.write off bs ∧
          ∀ a, (a < off ∨ off + bs.length ≤ a) → (u.padOf core).scratch.byte a = (s.padOf core).scratch.byte a) ∧
    (s.ready (.vscl w) = true → ∀ ls, lanesOk (s.padLane true) (s.laneAddrs w) = .inl ls →
      ∃ u, Does (.vscl w) s u ∧ Claim.OnlyPad s u ∧ (u.padOf s.cur).scratch =
        ls.foldl (fun m x => m.write x.2.2 (natBytes 4 (vlane (s.opV 2 w.d) x.1).toNat)) (s.padOf s.cur).scratch)

/-- R139 to R142, R283: an address that misses the micro-TLB holds the bundle and asks for a walk; one that does not translate raises the fault
found, with its address; after that an unaligned one raises MISALIGN. A local address out of bounds raises LOCAL_BOUND, then MISALIGN. -/
def Obligations.AccessExceptions : Prop :=
  ∀ (w : SlotWord) (s : State),
    (∀ (i : Instr) (va : DWord) (n align : Nat) (need : Need), (i, va, n, align, need) ∈
        [(Instr.ldg w, s.offAddr w (sizeOf_ w), sizeOf_ w, sizeOf_ w, ({ rd := true } : Need)),
         (.stg w, s.offAddr w (sizeOf_ w), sizeOf_ w, sizeOf_ w, { wr := true }),
         (.vldg w, s.offAddr w 512, 512, 64, { rd := true }), (.vstg w, s.offAddr w 512, 512, 64, { wr := true })] →
      s.ready i = true →
      (∀ a, s.look va n need = .miss a → exec i s = .next (s.holdBundle [(2, {})] [.walk a { need with user := s.user }])) ∧
      (∀ c d a, s.look va n need = .fault c d a → c ≠ 0 → s.prov = false →
        Traps i s { cause := c, detail := d, addr := a, slot := 2, wr := need.wr }) ∧
      (∀ l, s.look va n need = .ok l → va.toNat % align ≠ 0 → Traps i s { cause := 0x04, addr := va, slot := 2, wr := need.wr })) ∧
    (∀ (i : Instr) (va : DWord) (n align : Nat) (wr : Bool), (i, va, n, align, wr) ∈
        [(Instr.ldl w, s.offAddr w (sizeOf_ w), sizeOf_ w, sizeOf_ w, false),
         (.stl w, s.offAddr w (sizeOf_ w), sizeOf_ w, sizeOf_ w, true), (.vldl w, s.offAddr w 512, 512, 64, false),
         (.vstl w, s.offAddr w 512, 512, 64, true)] → s.ready i = true →
      (∀ d, s.localAt va n true = .inr d → Traps i s { cause := 0x09, detail := d, addr := va, slot := 2, wr := wr }) ∧
      (∀ x, s.localAt va n true = .inl x → va.toNat % align ≠ 0 → Traps i s { cause := 0x04, addr := va, slot := 2, wr := wr }))

/-- R150, R151: LDF and LDFE land a full word, LDFE sets it empty; STE and STFL store and set full; FEZ sets empty; FEQ lands the bit. LDF and LDFE
wait for full and STE for empty, within 2^(n + 5) cycles for a limit code n other than 0. -/
def Obligations.TaggedOperations : Prop :=
  ∀ (w : SlotWord) (s : State) (core off : Nat) (a : DWord),
    let c := s.padOf core
    let wait : WaitInfo := { limit := if w.mod = 0 then 0 else 2 ^ (w.mod.toNat + 5), detail := 3, wlim := true }
    (∀ i take, (i, take) ∈ [(Instr.ldf w, false), (Instr.ldfe w, true)] → s.ready i = true →
      s.tagWord w false wait = .inl (core, off, a) →
      if c.full.has (off / 8) = false then Holds i s wait
      else ∃ u mm marks, (c.spoison.has (off / 8) = false → marks = []) ∧ (take = false → u.seqWords = s.seqWords) ∧ Does i s u ∧
        u = { (if take then Claim.setFull s core (off / 8) false else s).modThr fun t =>
          { t with flight := t.flight ++ [scalarLanding 2 w (s.now + 4) (BitVec.ofNat 64 (c.scratch.le off 8)) 0 marks]
                   ctl := { t.ctl with mmst := mm } } with seqWords := u.seqWords }) ∧
    (∀ i waits, (i, waits) ∈ [(Instr.ste w, true), (Instr.stfl w, false)] → s.ready i = true →
      s.tagWord w true (if waits then wait else {}) = .inl (core, off, a) →
      if waits = true ∧ c.full.has (off / 8) = true then Holds i s wait
      else if c.ownedAt off 8 = true then Traps i s { cause := 0x07, addr := a, slot := 2, wr := true }
      else ∃ u mm, Does i s u ∧ (waits = false → mm = s.mmst) ∧
        u = { (Claim.setFull (Claim.putPad s core off (natBytes 8 (s.opS 2 w.d).toNat)) core (off / 8) true).modThr fun t =>
                { t with ctl := { t.ctl with mmst := mm } } with
              seqWords := u.seqWords, releases := u.releases }) ∧
    (s.ready (.fez w) = true → s.tagWord w true {} = .inl (core, off, a) →
      if c.ownedAt off 8 = true then Traps (.fez w) s { cause := 0x07, addr := a, slot := 2, wr := true }
      else ∃ u, Does (.fez w) s u ∧ u = { Claim.setFull s core (off / 8) false with seqWords := u.seqWords }) ∧
    (s.ready (.feq w) = true → s.tagWord w false {} = .inl (core, off, a) →
      Gives (.feq w) s [scalarLanding 2 w (s.now + 4) (if c.full.has (off / 8) then 1 else 0)])

/-- R152 to R154: an atomic updates its word and returns the old value as one interlocked result; a reduction updates it and returns nothing, and
counts against its launch until it is acknowledged; inside a reduction window it is a contribution to the canonical tree instead. What each operation makes of the old value, B and D: AFFCS sets the lowest clear bit, APLS each clear bit of B in ascending order
while the count stays within D[6:0], and AFADD rounds the sum in RNE whatever RMODE says, with canonical NaNs (R153). A provisional step's atomic stalls, and its global reduction is buffered (R172).
The model's own choices that it rests on: log entries 3, 4, 91, 100. -/
def Obligations.AtomicsAndReductions : Prop :=
  (∀ (n : Nat) (x b d : BitVec n), 0 < n →
    atomNew .add n x.toNat b.toNat d.toNat = ((x + b).toNat, x.toNat) ∧
    atomNew .min n x.toNat b.toNat d.toNat = ((if b.slt x then b else x).toNat, x.toNat) ∧
    atomNew .max n x.toNat b.toNat d.toNat = ((if x.slt b then b else x).toNat, x.toNat) ∧
    atomNew .and n x.toNat b.toNat d.toNat = ((x &&& b).toNat, x.toNat) ∧
    atomNew .or n x.toNat b.toNat d.toNat = ((x ||| b).toNat, x.toNat) ∧
    atomNew .xor n x.toNat b.toNat d.toNat = ((x ^^^ b).toNat, x.toNat) ∧
    atomNew .xchg n x.toNat b.toNat d.toNat = (b.toNat, x.toNat) ∧
    atomNew .cas n x.toNat b.toNat d.toNat = ((if x = b then d else x).toNat, x.toNat) ∧
    atomNew .insm n x.toNat b.toNat d.toNat = (((x &&& ~~~b) ||| (d &&& b)).toNat, x.toNat)) ∧
  (∀ (x : BitVec 64) (b d : Nat), if x = BitVec.allOnes 64 then atomNew .ffcs 64 x.toNat b d = (x.toNat, 64)
    else ∃ i, i < 64 ∧ x.getLsbD i = false ∧ (∀ j, j < i → x.getLsbD j = true) ∧
      atomNew .ffcs 64 x.toNat b d = ((x ||| BitVec.twoPow 64 i).toNat, i)) ∧
  (∀ (x b d : BitVec 64), ∃ set : BitVec 64, atomNew .pls 64 x.toNat b.toNat d.toNat = ((x ||| set).toNat, set.toNat) ∧
    ∀ i, i < 64 → set.getLsbD i = (b.getLsbD i && !x.getLsbD i &&
      decide (x.cpop.toNat + ((List.range i).filter fun j => b.getLsbD j && !x.getLsbD j).length + 1 ≤ d.toNat % 128))) ∧
  (∀ (f : FFmt) (n old b d : Nat), (f, n) ∈ [(FFmt.bf16, 16), (.fp32, 32)] →
    (atomNew .fadd n old b d).2 = old ∧ (atomNew .fadd n old b d).1 = (f.add .rne (f.decode old) (f.decode b)).val ∧
    ((∃ q, f.decode old = .nan q) → (atomNew .fadd n old b d).1 = f.nan ∧ (atomNew .fadd n b old d).1 = f.nan)) ∧
  (∀ x ∈ ([(.aadd, .add), (.afadd, .fadd), (.amin, .min), (.amax, .max), (.aand, .and), (.aor, .or), (.axor, .xor), (.axch, .xchg),
      (.acas, .cas), (.ainsm, .insm), (.affcs, .ffcs), (.apls, .pls)] : List ((SlotWord → Instr) × AtomOp)),
    ∀ (w : SlotWord) (s : State) (p : Place) (va : DWord), s.ready (x.1 w) = true →
      s.placeOf w (sizeOf_ w) (sizeOf_ w) { rd := true, wr := true } = .inl (p, va) →
      let n := sizeOf_ w
      let b := (if x.2 = .ffcs then 0 else (s.opS 2 w.b).toNat) % 2 ^ (8 * n)
      let old := s.placeRead p va n
      let r := atomNew x.2 (8 * n) (bytesNat old.1) b ((s.opS 2 w.d).toNat % 2 ^ (8 * n))
      if s.prov = true then Holds (x.1 w) s {}
      else match p.rank with
        | some rank => ∃ u v marks, Does (x.1 w) s u ∧
            u.outbox = s.outbox ++ [.remoteAtom rank x.2 n va (BitVec.ofNat 64 b)
              (BitVec.ofNat 64 ((s.opS 2 w.d).toNat % 2 ^ (8 * n))) (some s.tokens)] ∧
            (s.awayBad va.toNat n = false → marks = []) ∧
            u.thr.ilocks = s.thr.ilocks ++ [⟨destRegs false w, some (scalarLanding 2 w s.now v 0 marks), s.tokens, true, s.placeHome p va⟩] ∧
            u.mem = s.mem ∧ u.tags = s.tags ∧ u.core.scratch = s.core.scratch
        | none => (s.fw = true → va.toNat < deviceBase ∨ p.rank.isSome = true ∨ ∃ c o, p = .pad c o) →
            ∃ u marks, Does (x.1 w) s u ∧ (old.2 = false → marks = []) ∧
              u.thr.ilocks = s.thr.ilocks ++
                [⟨destRegs false w, some (scalarLanding 2 w s.now (BitVec.ofNat 64 r.2) 0 marks), s.lockToken (s.placeHome p va), true,
                  s.placeHome p va⟩] ∧
              Claim.ButAtomic (Claim.updated s p (natBytes n r.1)) u ∧ u.launches = s.launches) ∧
  (∀ x ∈ ([(.redadd, .add), (.redfadd, .fadd), (.redmin, .min), (.redmax, .max), (.redand, .and), (.redor, .or), (.redxor, .xor)] :
      List ((SlotWord → Instr) × AtomOp)),
    ∀ (w : SlotWord) (s : State) (p : Place) (va : DWord), s.ready (x.1 w) = true →
      s.placeOf w (sizeOf_ w) (sizeOf_ w) { wr := true } = .inl (p, va) → (s.prov = true → s.ownPlace p = true) → p.rank = none →
      (s.fw = true → va.toNat < deviceBase ∨ ∃ c o, p = .pad c o) →
      let n := sizeOf_ w
      let b := (s.opS 2 w.b).toNat % 2 ^ (8 * n)
      let r := atomNew x.2 (8 * n) (bytesNat (s.placeRead p va n).1) b 0
      let owes (u : State) : Prop :=
        u.launches = (s.modLaunch s.thr.launch fun l => { l with acks := l.acks ++
          [⟨s.thr.ctl.tid.toNat, none, s.tokens, 0, s.thr.step, s.core.bun.addr⟩] }).launches
      match s.windowPart p va (BitVec.ofNat 64 b) with
      | none => ∃ u, Does (x.1 w) s u ∧ u.thr.ilocks = s.thr.ilocks ∧ Claim.ButAtomic (Claim.updated s p (natBytes n r.1)) u ∧ owes u
      | some (c, own) => ∃ u, Does (x.1 w) s u ∧ u.mem = s.mem ∧ u.thr.ilocks = s.thr.ilocks ∧ owes u ∧
          if own then u.inputs = .reduceArrival c :: s.inputs ∧ u.outbox = s.outbox
          else u.outbox = s.outbox ++ [.contribution c ((tget none s.trust.jobs c.job).map fun j => j.redFlit c)] ∧ u.inputs = s.inputs) ∧
  (∀ x ∈ ([.redadd, .redfadd, .redmin, .redmax, .redand, .redor, .redxor] : List (SlotWord → Instr)), ∀ (w : SlotWord) (s : State) l va,
    s.ready (x w) = true → s.placeOf w (sizeOf_ w) (sizeOf_ w) { wr := true } = .inl (.mem l, va) → s.prov = true →
    s.noRoom va l = false → ∃ u, Does (x w) s u ∧ u = { s with psb := u.psb, dies := u.dies })

/-- R156 to R160, R408, R409: BARI writes an object with the target in B; BARV sends an arrival request, which adds B arrivals to the object, or
counts OVR for an arrival that is none or too many, and holds for the response; then it lands 16 + the old phase where they completed the
phase, else 2^16 · count + phase, or raises OVERRUN, and a freeze that it delayed comes one cycle on; once a pre-emption has been requested
it sends nothing; BARW holds while the object's phase is B
mod 16; a FENCE holds until every load and atomic has returned its value, and a releasing one until the accesses sent to other packages are
acknowledged.
The model's own choices that it rests on: log entries 3, 35, 91, 101, 118. -/
def Obligations.BarriersAndFences : Prop :=
  ∀ (w : SlotWord) (s : State) (p : Place) (va : DWord),
    (s.ready (.bari w) = true → s.placeOf w 16 16 { wr := true } = .inl (p, va) → s.barStall p = false →
      (s.fw = true → va.toNat < deviceBase ∨ ∃ c o, p = .pad c o) → p.rank = none →
      ∃ u, Does (.bari w) s u ∧ u.thr.ilocks = s.thr.ilocks ∧ u.launches = s.launches ∧
        Claim.ButAtomic (Claim.updated s p (natBytes 16 ((s.opS 2 w.b).toNat % 2 ^ 16 * 2 ^ 16))) u) ∧
    (s.ready (.barv w) = true → s.thr.barv = none → s.core.freezeReq.isSome = true → Holds (.barv w) s {}) ∧
    (s.ready (.barv w) = true → s.thr.barv = none → s.core.freezeReq = none → s.placeOf w 16 16 { rd := true, wr := true } = .inl (p, va) → s.barStall p = false →
      (s.fw = true → va.toNat < deviceBase ∨ ∃ c o, p = .pad c o) → p.rank = none →
      let b := Barrier.ofBytes (s.placeRead p va 16).1
      let n := (s.opS 2 w.b).toNat % 2 ^ 16
      if n = 0 ∨ b.target = 0 ∨ b.target < b.count + n then
        ∃ v, exec (.barv w) s = .next v ∧ Claim.Requested s (applyAll s (s.placeAtom p va { b with ovr := min (b.ovr + 1) 0xFFFFFFFF }.bytes)) v ∧
          v.thr.barv = some ⟨s.now + 8, .inr
            { cause := 0x0D, detail := if n = 0 ∨ b.target = 0 then 2 else 1, addr := va, slot := 2, wr := true }⟩
      else
        let full := decide (b.count + n = b.target)
        let b' : Barrier := { b with
          count := if full then 0 else b.count + n, phase := if full then (b.phase + 1) % 16 else b.phase, lastc := s.cur % 32
          nph := if full then (b.nph + 1) % 2 ^ 32 else b.nph }
        ∃ v, exec (.barv w) s = .next v ∧ Claim.Requested s (Claim.updated s p b'.bytes) v ∧
          v.thr.barv = some ⟨s.now + 8, .inl (BitVec.ofNat 64 (if full then 16 + b.phase else 2 ^ 16 * (b.count + n) + b.phase))⟩) ∧
    (∀ a, s.ready (.barv w) = true → s.thr.barv = some a →
      if s.now < a.due then Holds (.barv w) s {}
      else match a.reply with
        | .inl x => Does (.barv w) s ((Claim.answered s).modThr fun t => { t with flight := t.flight ++ [scalarLanding 2 w (s.now + 1) x] })
        | .inr t => t.cause = 0x0D → exec (.barv w) s = .next ((Claim.answered s).raises t)) ∧
    (∀ wait : WaitInfo, wait = { limit := (s.opS 2 w.d).toNat % 2 ^ 32, detail := 4, wlim := true } →
      s.ready (.barw w) = true → s.placeOf w 16 16 { rd := true } wait = .inl (p, va) → s.barStall p = false →
      if (Barrier.ofBytes (s.placeRead p va 16).1).phase = (s.opS 2 w.b).toNat % 16 then
        exec (.barw w) s = .next (s.holdBundle [(2, wait)] (p.asks va none)) ∧ (p.rank = none → Holds (.barw w) s wait)
      else ∃ u mm, Does (.barw w) s u ∧ u = { s.modThr fun t => { t with ctl := { t.ctl with mmst := mm } } with
        dies := u.dies, outbox := u.outbox, freeCtr := u.freeCtr } ∧ (p.rank = none → u.outbox = s.outbox)) ∧
    (s.ready (.fence w) = true →
      let owed : Bool := match s.myLaunch with
        | some l => l.acks.any fun a => a.tid = s.thr.ctl.tid.toNat && a.va.isSome
        | none => false
      if s.thr.ilocks.any Ilock.mem = true ∨ (isRel w = true ∧ owed = true) then Holds (.fence w) s {} else Does (.fence w) s s)

/-- R161, R162, R165, R166: CPY counts its wait counter up and hands a copy to the engine, and holds on a counter at 65,535; QBIND binds a stream to
the ring of its descriptor, QSTOP unbinds it, and QDRN waits until its ring is empty or its drainer has stopped on a fault. -/
def Obligations.CopiesAndStreams : Prop :=
  ∀ (w : SlotWord) (s : State),
    let q := vget {} s.thr.q w.d.toNat
    (s.ready (.cpy w) = true → (s.prov = true → s.tmplGlobal (s.thr.getS 7 + BitVec.ofNat 64 (64 * w.d.toNat)) = false) →
      if vget 0 s.thr.w (w.fmt.toNat % 4) = 0xFFFF then Holds (.cpy w) s {}
      else ∃ c : Copy, c.ctr = w.fmt.toNat % 4 ∧ c.src = s.opS 2 w.a ∧ c.dst = s.opS 2 w.b ∧ c.core = s.cur ∧ c.ctx = s.ctxOf ∧
        c.tmpl = s.thr.getS 7 + BitVec.ofNat 64 (64 * w.d.toNat) ∧ c.image = none ∧ c.prog = 0 ∧ c.dmbd = s.thr.ctl.dmbd ∧
        c.who = (if s.fw then none else some s.me) ∧ c.user = s.user ∧ c.scope = scopeOf w ∧ c.rel = isRel w ∧ c.no = s.tokens ∧ c.packet = none ∧
        Does (.cpy w) s { s.modThr fun t => { t with w := vset t.w (w.fmt.toNat % 4) (vget 0 t.w (w.fmt.toNat % 4) + 1) } with
          copies := tset none s.copies s.tokens (some c), tokens := s.tokens + 1 }) ∧
    (s.ready (.qbind w) = true → q.engine = none → ∀ core off, s.localAcc (s.opS 2 w.a) 32 32 true false = .inl (core, off) →
      s.core.ownedAt off 32 = false →
      if q.bound = true then Traps (.qbind w) s { cause := 0x14, detail := 3, slot := 2 }
      else match s.streamDesc (w.fmt.getLsbD 0) off (s.core.scratch.read off 32) with
        | none => Traps (.qbind w) s { cause := 0x14, detail := 4, slot := 2 }
        | some b =>
          (b.sub = 0 → Does (.qbind w) s (s.modThr fun t => { t with q := vset t.q w.d.toNat b })) ∧
          (b.sub ≠ 0 → b.sub.toNat % 64 = 0 → ∀ l r, s.globalAcc b.sub 64 64 { rd := true } = .inl l → anyAway l = false →
            Subscription.ofBytes b.size (s.loadAt b.sub l).1 = some r → r.drain = b.out →
            ∃ u, Does (.qbind w) s u ∧
              u = { s.modThr fun t => { t with q := vset t.q w.d.toNat { b with subs := some r } } with dies := u.dies })) ∧
    (s.ready (.qstop w) = true → if q.engine.isSome = true then Holds (.qstop w) s {}
      else Does (.qstop w) s (s.modThr fun t => { t with q := vset t.q w.d.toNat {} })) ∧
    (s.ready (.qdrn w) = true → q.engine = none →
      if q.bound = false ∨ q.out = false then Traps (.qdrn w) s { cause := 0x14, detail := 5, slot := 2 }
      else if q.fault = none ∧ (q.flying ≠ 0 ∨ ((wordsOf q.base (128 * q.lines)).any fun k => s.core.full.has k) = true) then Holds (.qdrn w) s {}
      else Does (.qdrn w) s s)

/-- R168 to R171: CSUB submits the record at its address; TRIG adds B to the counter that its handle names, and a handle that names none of the job
raises PROTECT with DETAIL 6; SIGOP stores B, or adds it to or subtracts it from the signal; PREF has no effect, whatever its address. -/
def Obligations.SignalsAndTriggers : Prop :=
  ∀ (w : SlotWord) (s : State),
    (s.ready (.csub w) = true → s.prov = false → ∀ l, s.globalAcc (s.opS 2 w.a) 128 128 { rd := true } = .inl l →
      ∃ r : Record, r.addr = s.opS 2 w.a ∧ r.launch = s.thr.launch ∧ r.ctx = (if s.fw then s.cur else s.ctxOf) ∧ r.packet = none ∧ r.started = false ∧
        r.die = (if s.fw then dieA else dieOf s.cur) ∧ r.user = s.user ∧ r.who = some s.me ∧ r.step = s.thr.step ∧ r.rel = isRel w ∧
        Does (.csub w) s { s with records := tset none s.records s.tokens (some r), tokens := s.tokens + 1 }) ∧
    (s.ready (.trig w) = true → s.prov = false → match s.trigCounter (s.opS 2 w.a) s.ctxOf with
      | some c => Does (.trig w) s (s.trigAdd c ((s.opS 2 w.b).toNat % 2 ^ 32))
      | none => Traps (.trig w) s { cause := 0x06, detail := 6, addr := s.opS 2 w.a, slot := 2 }) ∧
    (s.ready (.sigop w) = true → s.prov = false → ∀ pa key rck pool,
      s.globalAcc (s.opS 2 w.a) 8 8 { rd := true, wr := true } = .inl [(0, 8, .phys pa key rck pool)] →
      (s.fw = true → (s.opS 2 w.a).toNat < deviceBase) →
      let old := BitVec.ofNat 64 (bytesNat (s.readPA key pa 8))
      let new := if w.fmt = 0 then s.opS 2 w.b else if w.fmt = 1 then old + s.opS 2 w.b else old - s.opS 2 w.b
      ∃ u, Does (.sigop w) s u ∧ u = { s.writePA key pa (natBytes 8 new.toNat) with
        seqWords := u.seqWords, releases := u.releases, dies := u.dies }) ∧
    (s.ready (.pref w) = true → Does (.pref w) s s)

/-! ### The engines (R194 to R236) -/

namespace Sys2Proof.Claim
open Sys2Proof.Machine

/-- A matrix command is handed to the engine: the queue takes it at its end with the next token, the commands keep all but their nominal
completion times, and nothing else changes but an interlock on registers that the command will write (R202, R204). -/
def HandsX (s u : State) (op : XOp) (reads writes : List Nat) (regs : List RegId) : Prop :=
  (u.core.xq.map fun x => { x with due := none }) = (s.core.xq.map fun x => { x with due := none }) ++
    [{ op := op, token := s.tokens, commit := s.now, reads := reads, writes := writes }] ∧
  u.thr.ilocks = s.thr.ilocks ++ (if regs = [] then [] else [⟨regs, none, s.tokens, false, none⟩]) ∧
  u = { s with
    tokens := s.tokens + 1
    core := { s.core with
      xq := u.core.xq, xArray := u.core.xArray, xPort := u.core.xPort, thr := { s.thr with ilocks := u.thr.ilocks } } }

/-- The commands of a scan queue keep all but their nominal completion times, what is kept of bytes that they have still to read, and the
pair tile that a chunk command reads as it starts (R203, R220, R221, R231). -/
def KeepsN (c : Core) (old new : List NCmd) : Prop :=
  new.length = old.length ∧ ∀ (k : Nat) (x : NCmd), old[k]? = some x → ∃ d w, x.was <+: w ∧
    new[k]? = some { (if x.due = d then x else c.capture x) with
      due := d
      was := w }

/-- A command is handed to the scan engine in the same way (R231); a chunk command takes its streams (R222). -/
def HandsN (s u : State) (op : NOp) (units uwr blocks bwr : List Nat) (locks : List Ilock) : Prop :=
  KeepsN s.core (s.core.nq ++
    [{ op := op, token := s.tokens, commit := s.now, units := units, uwr := uwr, blocks := blocks, bwr := bwr }]) u.core.nq ∧
  (u.core.nq.map fun x => x.was) = (s.core.nq.map fun x => x.was) ++ [[]] ∧ u.thr.ilocks = s.thr.ilocks ++ locks ∧ u.thr.q = (match op with
    | .schk _ _ _ d | .sfix _ _ _ d => d.streams.foldl (fun v q => vset v q { vget {} v q with engine := some s.tokens }) s.thr.q
    | _ => s.thr.q) ∧
  u = { s with
    tokens := s.tokens + 1
    core := { s.core with nq := u.core.nq, nFree := u.core.nFree, thr := { s.thr with ilocks := u.thr.ilocks, q := u.thr.q } } }

/-- The wait counter of a command rises as the command is handed over (R15). -/
def counted (s : State) (c : Nat) : State := s.modThr fun t => { t with w := vset t.w c (vget 0 t.w c + 1) }

/-- The event that completes a matrix command. -/
def completionX (n : Nat) : XOp → Instr
  | .mstep .. => .mstepComplete n
  | .mzero _ => .mzeroComplete n
  | .amvr .. => .amvrComplete n
  | .amvw .. => .amvwComplete n
  | .mdrn .. => .mdrnComplete n

/-- Element k of row i of an operand tile of a floating step (R197, R201), from the bytes of the scratchpad. -/
def stepFloat (m : Mem) (f off : Nat) : Machine.Num := (if f = 0 then FFmt.bf16 else FFmt.fp16).decode (m.le off 2)

end Sys2Proof.Claim

/-- R85, R210: in handler mode without a lease an X-slot or F-slot instruction raises ENGINE_IN_HANDLER (MSTEP where it raises no ILLEGAL_OP,
R199), and so does an N-slot instruction that raises no ILLEGAL_OP; SXCH and SWT (R225) and DSYNC, SUSP, EXIT, CONFW and GRAB (R128) raise ILLEGAL_OP
with DETAIL 12 in handler mode. The holds of R74 come first (`roomHold`, R77). -/
def Obligations.NotInHandlerMode : Prop :=
  (∀ (w : SlotWord) (s : State), s.mayEngine = false →
    (∀ i ∈ [Instr.mcfg w, .mwin w, .mzero w, .amvr w, .amvw w, .mdrn w, .mfin w], s.ready i = true → s.roomHold i = false →
      Traps i s { cause := 0x0F, slot := 5 }) ∧
    (s.ready (.mstep w) = true → s.roomHold (.mstep w) = false → mstepIll w s = none → Traps (.mstep w) s { cause := 0x0F, slot := 5 }) ∧
    (∀ i ∈ [Instr.scld w, .scmv w, .patld w, .patsw w], s.ready i = true → s.roomHold i = false → Traps i s { cause := 0x0F, slot := 7 }) ∧
    (∀ i ∈ [Instr.sid w, .scmb w, .sstepAff w, .sstepSsm w, .srd w, .swr w, .sspl w, .sfil w], s.ready i = true →
      s.roomHold i = false → Traps i s { cause := 0x0F, slot := 6 }) ∧
    (s.ready (.sopd w) = true → sopdIll w s = none → Traps (.sopd w) s { cause := 0x0F, slot := 6 }) ∧
    (s.ready (.schk w) = true → s.roomHold (.schk w) = false → chunkIll (.schk w) false w s = none → Traps (.schk w) s { cause := 0x0F, slot := 6 }) ∧
    (s.ready (.sfix w) = true → s.roomHold (.sfix w) = false → chunkIll (.sfix w) true w s = none → Traps (.sfix w) s { cause := 0x0F, slot := 6 })) ∧
  ∀ (w : SlotWord) (s : State), s.thr.ctl.hnd = true →
    (∀ i ∈ [Instr.sxch w, .swt w], s.ready i = true → s.roomHold i = false → Traps i s { cause := 0x02, detail := 12, slot := 6 }) ∧
    ∀ i ∈ [Instr.dsync w, .susp w, .exit w, .confw w, .grab w], s.ready i = true → s.aboveGang w = none →
      Traps i s { cause := 0x02, detail := 12 }

/-- R194, R195, R200, R208, R209, R214: MCFG takes a record whose fields are in range and clears the window and the counters, MWIN takes a
window, and a field out of range is ILLEGAL_OP with DETAIL 16; a tile beyond the claim is STATE_BOUND with DETAIL 1. SCLD and SCMV land a scale
register and PATLD a pattern entry four cycles on; PATSW changes the bank; SOPD sets a combine word, and an invalid one is ILLEGAL_OP with DETAIL
19. What reads the scratchpad holds on an engine-owned block.
The model's own choices that it rests on: log entries 21. -/
def Obligations.EngineConfiguration : Prop :=
  ∀ (w : SlotWord) (s : State), s.mayEngine = true →
    (∀ core off, s.ready (.mcfg w) = true → s.localAt (s.opS 5 w.a) 64 true = .inl (core, off) → (s.opS 5 w.a).toNat % 64 = 0 →
      if s.core.ownedAt off 64 = true then Holds (.mcfg w) s {}
      else match MConfig.ofBytes (s.core.scratch.read off 64) with
        | none => Traps (.mcfg w) s { cause := 0x02, detail := 16, addr := s.opS 5 w.a, slot := 5 }
        | some c => if s.core.acc < c.amap + c.mt * c.nt then Traps (.mcfg w) s { cause := 0x13, detail := 1, slot := 5 }
          else Does (.mcfg w) s (s.modThr fun t => { t with mcfg := some c, mwin := none, mctr := (0, 0, 0) })) ∧
    (∀ core off, s.ready (.mwin w) = true → s.localAt (s.opS 5 w.a) 32 true = .inl (core, off) → (s.opS 5 w.a).toNat % 32 = 0 →
      if s.core.ownedAt off 32 = true then Holds (.mwin w) s {}
      else match MWindow.ofBytes (s.core.scratch.read off 32) with
        | none => Traps (.mwin w) s { cause := 0x02, detail := 16, addr := s.opS 5 w.a, slot := 5 }
        | some d => Does (.mwin w) s (s.modThr fun t => { t with mwin := some d })) ∧
    (∀ core off, s.ready (.scld w) = true → s.localAt (s.opS 7 w.a) 256 true = .inl (core, off) → (s.opS 7 w.a).toNat % 64 = 0 →
      if s.core.ownedAt off 256 = true then Holds (.scld w) s {}
      else ∃ x marks, (∀ j, j < 128 → vget 0 x j = BitVec.ofNat 16 (s.core.scratch.le (off + 2 * j) 2)) ∧
        ((wordsOf off 256).any s.core.spoison.has = false → marks = []) ∧
        Gives (.scld w) s [{ due := s.now + 4, writes := [.scale w.d.toNat x], marks := marks }]) ∧
    (s.ready (.scmv w) = true → s.thr.markOf [.e w.a.toNat] = none →
      Gives (.scmv w) s [{ due := s.now + 4, writes := [.scale w.d.toNat
        (if w.mod = 0 then vget Scale.zero s.thr.e w.a.toNat
         else Vector.replicate 128 (vget 0 (vget Scale.zero s.thr.e w.a.toNat) ((s.opS 7 w.b).toNat % 128)))] }]) ∧
    (∀ core off, s.ready (.patld w) = true → s.localAt (s.opS 7 w.a) 16 true = .inl (core, off) → (s.opS 7 w.a).toNat % 16 = 0 →
      if s.core.ownedAt off 16 = true then Holds (.patld w) s {}
      else Gives (.patld w) s [{ due := s.now + 4, writes := [.pattern (w.mod.getLsbD 0) w.d.toNat
        (BitVec.ofNat 96 (bytesNat ((s.core.scratch.read off 16).take 12)))] }]) ∧
    (s.ready (.patsw w) = true → Does (.patsw w) s (s.modThr fun t => { t with bank := !t.bank })) ∧
    (s.ready (.sopd w) = true →
      if 6 ≤ (s.opS 6 w.a).toNat % 8 ∨ 2 ^ 7 ≤ (s.opS 6 w.a).toNat % 2 ^ 32 then Traps (.sopd w) s { cause := 0x02, detail := 19, slot := 6 }
      else Does (.sopd w) s (s.modThr fun t => { t with o := vset t.o w.d.toNat ((s.opS 6 w.a).setWidth 32) }))

/-- R18, R196, R198, R202 to R206: MSTEP takes its tile, its operands' addresses and its scale registers from the configuration and the counters
and moves the counters on, k fastest; MZERO, AMVR, AMVW and MDRN name their tile, rows, counter and destination; MFIN holds while a command on
its tile is open. A full queue of 16, or a wait counter at 65,535, holds the bundle, before any check
of the instruction (R77). -/
def Obligations.MatrixCommands : Prop :=
  ∀ (w : SlotWord) (s : State), s.mayEngine = true →
    (∀ c m n k, s.ready (.mstep w) = true → s.thr.mcfg = some c → mstepIll w s = none → s.thr.mctr = (m, n, k) →
      let fa := w.fmt.toNat
      let fb := c.bfmt.toNat
      let ta : Int := c.abase + m * c.asm_ + k * c.ask
      let tb : Int := c.bbase + n * c.bsn + k * c.bsk
      let win := s.thr.mwin.map fun d => (d, m, k)
      let spans := aSpans fa ta c.aps (stepDepth fa fb) win ++ operandSpans fb tb c.bps (stepDepth fa fb)
      (∀ x ∈ spans, 0 ≤ x.1 ∧ x.1 + x.2 ≤ s.claimOf s.cur) →
      (2 ≤ fa → s.thr.markOf [.e (c.scaleA (m, n, k)), .e (c.scaleB (m, n, k))] = none) →
      if 16 ≤ s.core.xq.length then Holds (.mstep w) s {}
      else ∃ u, Claim.HandsX s u (.mstep (c.amap + c.nt * m + n) (w.mod.getLsbD 0) s.thr.ctl.rmode w.fmt c.bfmt c.ctra c.ctrb ta.toNat
          tb.toNat c.aps c.bps (vget Scale.zero s.thr.e (c.scaleA (m, n, k))) (vget Scale.zero s.thr.e (c.scaleB (m, n, k))) win)
          (spanBlocks spans) [] [] ∧
        Does (.mstep w) s (u.modThr fun t => { t with mctr :=
          if k + 1 < c.kt then (m, n, k + 1) else if n + 1 < c.nt then (m, n + 1, 0) else if m + 1 < c.mt then (m + 1, 0, 0)
          else (0, 0, 0) })) ∧
    (s.ready (.mzero w) = true → if 16 ≤ s.core.xq.length then Holds (.mzero w) s {}
      else if s.core.acc ≤ w.d.toNat then Traps (.mzero w) s { cause := 0x13, detail := 1, slot := 5 }
      else ∃ u, Claim.HandsX s u (.mzero w.d.toNat) [] [] [] ∧ Does (.mzero w) s u) ∧
    (∀ i ctr op regs, (i, ctr, op, regs) ∈
        [(Instr.amvr w, w.mod.toNat % 4,
            XOp.amvr (w.b.toNat / 8) (s.opS 5 w.a).toNat (w.b.toNat % 8 + 1) w.d.toNat (w.mod.toNat % 4), vregs w.d.toNat (w.b.toNat % 8 + 1)),
         (.amvw w, w.mod.toNat % 4, .amvw (w.b.toNat / 8) (s.opS 5 w.a).toNat (w.mod.toNat % 4)
            ((List.range (w.b.toNat % 8 + 1)).map fun i => s.thr.getV (w.d.toNat + i)), [])] → s.ready i = true →
      if 16 ≤ s.core.xq.length ∨ vget 0 s.thr.w ctr = 0xFFFF then Holds i s {}
      else if s.core.acc ≤ w.b.toNat / 8 then Traps i s { cause := 0x13, detail := 1, slot := 5 }
      else if 128 < (s.opS 5 w.a).toNat + (w.b.toNat % 8 + 1) then Traps i s { cause := 0x13, detail := 3, slot := 5 }
      else ∃ u, Claim.HandsX (Claim.counted s ctr) u op [] [] regs ∧ Does i s u) ∧
    (∀ core off, s.ready (.mdrn w) = true →
      let n := 16384 * (if w.mod.toNat % 4 = 0 then 4 else 2)
      s.localAt (s.opS 5 w.a) n true = .inl (core, off) → (s.opS 5 w.a).toNat % 128 = 0 →
      if 16 ≤ s.core.xq.length ∨ vget 0 s.thr.w (w.mod.toNat / 4) = 0xFFFF then Holds (.mdrn w) s {}
      else if s.core.acc ≤ w.d.toNat % 8 then Traps (.mdrn w) s { cause := 0x13, detail := 1, slot := 5 }
      else ∃ u, Claim.HandsX (Claim.counted s (w.mod.toNat / 4)) u (.mdrn (w.d.toNat % 8) (w.mod.toNat % 4)
          (if w.d.toNat / 8 = 0 then s.thr.ctl.rmode else BitVec.ofNat 2 (w.d.toNat / 8)) off (w.mod.toNat / 4)) [] (blocksOf off n) [] ∧
        Does (.mdrn w) s u) ∧
    (s.ready (.mfin w) = true → if s.core.acc ≤ w.d.toNat then Traps (.mfin w) s { cause := 0x13, detail := 1, slot := 5 }
      else if (∃ x ∈ s.core.xq, x.op.tile = w.d.toNat) then Holds (.mfin w) s {} else Does (.mfin w) s s)

/-- R46 to R51, R197: what a matrix step makes of element (i, j) of its tile. A floating step rounds once the sum of the old element (+0 with Z) and
32 exact products; a plane-integer step rounds once the sum of the old element and the exact integer product sum times both scales. -/
def Obligations.MatrixStepValues : Prop :=
  ∀ (m : Mem) (acc : Tile) (z : Bool) (mode : RMode) (fa fb : Nat) (ctra ctrb : Bool) (ta tb aps bps : Nat) (sa sb : Scale) (i j : Nat),
    i < 128 → j < 128 →
    let out := (runStep m acc z mode fa fb ctra ctrb ta tb aps bps sa sb none).1.at i j
    let base : Machine.Num := if z then .fin false 0 0 else FFmt.fp32.decode (acc.at i j).toNat
    (fa < 2 → fb < 2 → out = BitVec.ofNat 32 (FFmt.fp32.dot mode base ((List.range 32).map fun k =>
      (Claim.stepFloat m fa (ta + 64 * i + 2 * k), Claim.stepFloat m fb (tb + 256 * k + 2 * j)))).val) ∧
    (2 ≤ fa → 2 ≤ fb →
      let k := stepDepth fa fb
      let p := (List.range k).foldl (fun p x => p + planeInt m ta (planeStride aps k) (planesOf fa) ctra x i *
        planeInt m tb (planeStride bps k) (planesOf fb) ctrb x j) (0 : Int)
      out = BitVec.ofNat 32
        (planeElem mode base p (FFmt.bf16.decode (vget 0 sa i).toNat) (FFmt.bf16.decode (vget 0 sb j).toNat)).val)

/-- R23, R198, R202 to R207: an open matrix command that no earlier command on its tile or its blocks stands before may complete: a step and MZERO
write their tile, AMVR its vector registers, AMVW its rows, MDRN the scratchpad, in each case with the poison of what they read; flags join FPST, a
wait counter falls, the command leaves the queue; a step reads its operands as at its commit, a drain's blocks that later commands still own
remain to be returned (R203); the return of MDRN's blocks ends the sequences there and releases them at DIE scope. The
results of a trimmed step's commands are discarded (R321). With no thread to end, nothing else changes. A core whose masters are frozen
completes nothing (R377).
The model's own choices that it rests on: log entries 22, 103, 119. -/
def Obligations.MatrixCompletions : Prop :=
  ∀ (n : Nat) (x : XCmd) (s : State), s.core.xq[n]? = some x → s.core.canComplete n x = true → s.halted s.thr.launch = false →
    s.core.exiting = false → ∃ t : State, exec (Claim.completionX n x.op) s = .next t ∧
      ((t.core.xq.map fun y => { y with due := none }) = ((s.core.xq.eraseIdx n).map fun y => { y with due := none })) ∧
      t.core.drained = (s.core.drained ++ x.drains).filter (fun y => t.core.owned.contains y.2) ∧
      (s.core.discard = true → t = s.setCore { s.core with
        xq := t.core.xq, xArray := t.core.xArray, xPort := t.core.xPort, drained := t.core.drained }) ∧
      (s.core.discard = false → match x.op with
       | .mstep a z mode fa fb ctra ctrb ta tb aps bps sa sb win =>
         let r := runStep (s.core.asOf x.was).scratch (vget Tile.zero s.thr.acc a) z (.ofBits mode.toNat) fa.toNat fb.toNat ctra ctrb ta tb aps bps sa sb win
         t = s.setCore { s.core with
             xq := t.core.xq, xArray := t.core.xArray, xPort := t.core.xPort, drained := t.core.drained
             thr := { s.thr with
               acc := vset s.thr.acc a r.1, accPoison := t.thr.accPoison, landed := s.thr.landed ||| r.2
               ctl := { s.thr.ctl with fpst := s.thr.ctl.fpst ||| r.2 } } }
       | .mzero a =>
           t = s.setCore { s.core with
             xq := t.core.xq, xArray := t.core.xArray, xPort := t.core.xPort, drained := t.core.drained
             thr := { s.thr with acc := vset s.thr.acc a Tile.zero, accPoison := s.thr.accPoison.put a false } }
       | .amvr a r k vd c =>
           (∀ i, i < k → vd + i < 32 → k ≤ 8 → t.thr.getV (vd + i) = vget Vec.zero (vget Tile.zero s.thr.acc a) (r + i)) ∧
           (∀ v, (v < vd ∨ vd + k ≤ v) → t.thr.getV v = s.thr.getV v) ∧
           t.thr.w = vset s.thr.w c (vget 0 s.thr.w c - 1) ∧ t.thr.ilocks = s.thr.ilocks.filter (fun l => l.token ≠ x.token) ∧
           t = s.setCore { s.core with
             xq := t.core.xq, xArray := t.core.xArray, xPort := t.core.xPort, drained := t.core.drained
             thr := { s.thr with v := t.thr.v, w := t.thr.w, ilocks := t.thr.ilocks, marks := t.thr.marks } }
       | .amvw a r c rows =>
           t.thr.w = vset s.thr.w c (vget 0 s.thr.w c - 1) ∧
           (∀ b, b ≠ a → vget Tile.zero t.thr.acc b = vget Tile.zero s.thr.acc b) ∧
           (a < 8 → r + rows.length ≤ 128 → ∀ i, vget Vec.zero (vget Tile.zero t.thr.acc a) i =
             if r ≤ i ∧ i < r + rows.length then rows.getD (i - r) Vec.zero else vget Vec.zero (vget Tile.zero s.thr.acc a) i) ∧
           t = s.setCore { s.core with
             xq := t.core.xq, xArray := t.core.xArray, xPort := t.core.xPort, drained := t.core.drained
             thr := { s.thr with acc := t.thr.acc, w := t.thr.w, accPoison := t.thr.accPoison } }
       | .mdrn a fmt mode dst c =>
           t.thr.w = vset s.thr.w c (vget 0 s.thr.w c - 1) ∧
           t.core.scratch = s.core.scratch.write dst (drainTile (vget Tile.zero s.thr.acc a) fmt (.ofBits mode.toNat)).1 ∧
           t = State.returned (s.setCore { s.core with
             xq := t.core.xq, xArray := t.core.xArray, xPort := t.core.xPort, drained := t.core.drained, scratch := t.core.scratch, spoison := t.core.spoison
             thr := { s.thr with
               w := t.thr.w, landed := s.thr.landed ||| (drainTile (vget Tile.zero s.thr.acc a) fmt (.ofBits mode.toNat)).2
               ctl := { s.thr.ctl with
                 fpst := s.thr.ctl.fpst ||| (drainTile (vget Tile.zero s.thr.acc a) fmt (.ofBits mode.toNat)).2 } } }) dst (16384 * drainSize fmt))

namespace Sys2Proof.Claim
open Sys2Proof.Machine

/-- A tile at a relative unit index lies within the thread's state units (R19, R213, R232): SBASE is below SLIM, an FP32 tile starts at an
even unit, and the tile ends at or below SLIM. -/
def TileFits (s : State) (fp : Bool) (rel : Nat) : Prop :=
  s.thr.ctl.sbase.toNat < s.thr.ctl.slim.toNat ∧ (fp = true → (s.thr.ctl.sbase.toNat + rel) % 2 = 0) ∧
    s.thr.ctl.sbase.toNat + rel + tileUnits fp ≤ s.thr.ctl.slim.toNat

/-- A pair tile: the x tile and the y tile beside it (R213). -/
def PairFits (s : State) (fp : Bool) (rel : Nat) : Prop := TileFits s fp rel ∧ TileFits s fp (rel + tileUnits fp)

/-- U of an N instruction, and the unit that it names (R212). -/
def unitOf (w : SlotWord) : Nat := 4 * w.b.toNat + w.mod.toNat / 4
@[inherit_doc unitOf] def physOf (s : State) (w : SlotWord) : Nat := s.thr.ctl.sbase.toNat + unitOf w

/-- The operator word that MOD names, whose format is the instruction's (R214). -/
def OpFits (s : State) (w : SlotWord) : Prop := (vget 0 s.thr.o (w.mod.toNat % 4)).getLsbD 3 = decide (w.fmt = 1)

/-- Nothing but the course of issue and one result in flight, with its writes to state rows and to D, and its flags. -/
def GivesStep (i : Instr) (s : State) (w : SlotWord) (lat : Nat) (rows : List Write) (y : Vec) : Prop :=
  ∃ fl, Gives i s [{ due := s.now + lat, latch := some (6, .vector y), flags := fl
                     writes := rows ++ if w.wb then [.vec w.d.toNat y (BitVec.allOnes 128)] else [] }]

/-- After a completion of the scan engine: the command has left the queue with its interlock and its hold on streams, and nothing else has
changed but what is named: the units with their marks, the scratchpad with its marks and full/empty bits, and registers. -/
def AfterScan (s t : State) (n : Nat) (x : NCmd) : Prop :=
  KeepsN t.core (s.core.nq.eraseIdx n) t.core.nq ∧
  (t.core.xq.length = s.core.xq.length ∧ ∀ (k : Nat) (y : XCmd), s.core.xq[k]? = some y → ∃ d w, y.was <+: w ∧
    t.core.xq[k]? = some { y with
      due := d
      was := w }) ∧
  t.thr.ilocks = s.thr.ilocks.filter (fun l => l.token ≠ x.token) ∧ (∀ b ∈ t.thr.q.toList, b.engine ≠ some x.token) ∧
  t.core = { s.core with
    nq := t.core.nq, xq := t.core.xq, nFree := t.core.nFree, xArray := t.core.xArray, xPort := t.core.xPort, drained := t.core.drained, units := t.core.units
    upoison := t.core.upoison, idn := t.core.idn, pending := t.core.pending, aborted := t.core.aborted, scratch := t.core.scratch
    spoison := t.core.spoison, full := t.core.full
    thr := { s.thr with
      ilocks := t.thr.ilocks, q := t.thr.q, w := t.thr.w, v := t.thr.v, lS := t.thr.lS, lV := t.thr.lV, marks := t.thr.marks
      landed := t.thr.landed, ctl := { s.thr.ctl with fpst := t.thr.ctl.fpst } } } ∧
  (match x.op with
   | .srd .. => True
   | _ => t.thr.lS = s.thr.lS ∧ t.thr.lV = s.thr.lV)

/-- Where nothing outside the core changes but the release sequences and records of its scratchpad. -/
def Releases (s t : State) : Prop := t = { s.setCore t.core with seqWords := t.seqWords, releases := t.releases }

/-- An open chunk command goes on to the end of its time step as far as its streams allow, and no further step begins once a freeze is due,
unless a command that must complete waits for this one (R222, R232, R301). After its last step it is complete: its destinations return, which releases them, its flags join FPST, and the state units are
those given (R220, R221, R247). -/
def Goes (s : State) (n : Nat) (x : NCmd) (i : Instr) (fp : Bool) (d : Chunk) (piece : Core → NCmd → Option (Core × NCmd))
    (fin : Core → NCmd → Mem) : Prop :=
  (x.done % stepPieces fp = 0 → s.unfrozen = true ∨ s.core.mustEnd x (s.core.nq.drop (n + 1)) = true) →
  let r := s.core.chunkRun piece (d.pieces fp) (stepPieces fp - x.done % stepPieces fp) x
  if r.2.done = d.pieces fp then ∃ t, exec i s = .next t ∧ AfterScan s t n x ∧ Releases s t ∧
    t.core.units = fin r.1 r.2 ∧ t.core.scratch = r.1.scratch ∧ t.core.full = r.1.full ∧
    t.thr.ctl.fpst = s.thr.ctl.fpst ||| r.2.flags ∧ t.thr.v = s.thr.v ∧ t.thr.w = s.thr.w ∧
    t.releases = ((d.hd.tiles d.len ++ d.xd.tiles d.len).foldl (fun s b => s.returned b.toNat (tileBytes fp)) s).releases
  else x.done < r.2.done → ∃ t, exec i s = .next t ∧ Releases s t ∧ t.core.units = s.core.units ∧
    KeepsN t.core (s.core.nq.set n r.2) t.core.nq ∧
    t.core.scratch = r.1.scratch ∧ t.core.full = r.1.full ∧ t.thr.ctl = s.thr.ctl ∧ t.thr.v = s.thr.v ∧ t.releases = s.releases

/-- The event that completes a scan command. -/
def completionN (n : Nat) : NOp → Instr
  | .sid .. => .sidComplete n
  | .schk .. => .schkComplete n
  | .sfix .. => .sfixComplete n
  | .sxch .. => .sxchPost n
  | .srd .. => .srdComplete n
  | .swr .. => .swrComplete n
  | .sspl .. => .ssplComplete n
  | .sfil .. => .sfilComplete n

end Sys2Proof.Claim

/-- R212 to R214, R217, R219 to R223, R229 to R233: the queued commands of the N slot, where their tiles, operators and addresses are within
bounds: each is handed to the engine with the units, blocks and registers that it names; a full queue of 16, or a counter at 65,535, holds the
bundle; SSPL to global memory and SXCH stall in a provisional step; a global range pins its pool lines.
The model's own choices that it rests on: log entries 19, 20. -/
def Obligations.ScanCommands : Prop :=
  ∀ (w : SlotWord) (s : State), s.mayEngine = true →
    let fp := decide (w.fmt = 1)
    let p := Claim.physOf s w
    let op := vget 0 s.thr.o (w.mod.toNat % 4)
    let us := (List.range (2 * tileUnits fp)).map fun i => p + i
    let hand (i : Instr) (op : NOp) (units uwr rd wr : List Nat) (locks : List Ilock) : Prop :=
      if 16 ≤ s.core.nq.length then Holds i s {} else ∃ u, Claim.HandsN s u op units uwr rd wr locks ∧ Does i s u
    (s.ready (.sid w) = true → Claim.PairFits s fp (Claim.unitOf w) → Claim.OpFits s w → hand (.sid w) (.sid p fp op) us us [] [] []) ∧
    (∀ core off d, s.ready (.schk w) = true → s.localAt (s.opS 6 w.a) 64 true = .inl (core, off) → (s.opS 6 w.a).toNat % 64 = 0 →
      s.core.ownedAt off 64 = false → Chunk.ofBytes fp (s.core.scratch.read off 64) = some d → Claim.PairFits s fp (Claim.unitOf w) →
      (∀ u, d.init = some u → Claim.PairFits s fp u) → Claim.OpFits s w → s.chunkStreams d = none →
      s.chunkBound fp (d.as_.tiles d.len ++ d.bs.tiles d.len ++ (d.hd.tiles d.len ++ d.xd.tiles d.len)) = none →
      let iu := d.init.map fun x => s.thr.ctl.sbase.toNat + x
      hand (.schk w) (.schk p fp op { d with init := iu }) (us ++ (iu.map (pairUnits fp)).getD []) us
        (tileBlocks fp (d.as_.tiles d.len ++ d.bs.tiles d.len)) (tileBlocks fp (d.hd.tiles d.len ++ d.xd.tiles d.len)) []) ∧
    (∀ core off d, s.ready (.sfix w) = true → s.localAt (s.opS 6 w.a) 64 true = .inl (core, off) → (s.opS 6 w.a).toNat % 64 = 0 →
      s.core.ownedAt off 64 = false → Chunk.ofBytes fp (s.core.scratch.read off 64) = some d → d.hd.isPad = true → d.xd.isPad = true →
      Claim.PairFits s fp (Claim.unitOf w) → (∀ u, d.init = some u → Claim.PairFits s fp u) → Claim.OpFits s w → s.chunkStreams d = none →
      s.chunkBound fp (d.hd.tiles d.len ++ d.xd.tiles d.len) = none →
      hand (.sfix w) (.sfix p fp op d) us [] (tileBlocks fp (d.hd.tiles d.len ++ d.xd.tiles d.len))
        (tileBlocks fp (d.hd.tiles d.len ++ d.xd.tiles d.len)) []) ∧
    (s.ready (.sxch w) = true → s.thr.ctl.hnd = false → Claim.PairFits s fp (Claim.unitOf w) → Claim.OpFits s w →
      s.leafErr_ (s.opS 6 w.a).toNat op = none →
      if s.thr.ctl.prov = true then Holds (.sxch w) s {}
      else hand (.sxch w) (.sxch p fp op ((s.opS 6 w.a).toNat / 2 ^ 24 % 16) ((s.opS 6 w.a).toNat % 2 ^ 24)) us us [] [] []) ∧
    (s.ready (.srd w) = true → w.a.toNat + 2 ^ (w.mod.toNat % 4) ≤ 16 → Claim.TileFits s fp (Claim.unitOf w) →
      hand (.srd w) (.srd p w.a.toNat (2 ^ (w.mod.toNat % 4)) w.d.toNat w.wb fp) (tileUnitsAt fp p) [] [] []
        [⟨if w.wb then vregs w.d.toNat (2 ^ (w.mod.toNat % 4)) else [], none, s.tokens, false, none⟩]) ∧
    (s.ready (.swr w) = true → w.a.toNat + 2 ^ (w.mod.toNat % 4) ≤ 16 → Claim.TileFits s fp (Claim.unitOf w) →
      hand (.swr w) (.swr p w.a.toNat fp ((List.range (2 ^ (w.mod.toNat % 4))).map fun i => s.thr.getV (w.d.toNat + i)))
        (tileUnitsAt fp p) (tileUnitsAt fp p) [] [] []) ∧
    (∀ (i : Instr) (save : Bool), (i, save) ∈ [(Instr.sspl w, true), (.sfil w, false)] → s.ready i = true →
      let n := w.d.toNat % 32 + 1
      let ctr := w.mod.toNat % 4
      let units := (List.range n).map fun k => p + k
      let cmd (x : Nat ⊕ List Piece) : NOp := if save then .sspl p n ctr x else .sfil p n ctr x
      let full := 16 ≤ s.core.nq.length ∨ vget 0 s.thr.w ctr = 0xFFFF
      s.thr.ctl.sbase.toNat < s.thr.ctl.slim.toNat → p + n ≤ s.thr.ctl.slim.toNat → (s.opS 6 w.a).toNat % 128 = 0 →
      (∀ core off, w.d.getLsbD 5 = true → s.localAt (s.opS 6 w.a) (4096 * n) true = .inl (core, off) →
        (full → Holds i s {}) ∧
        (¬ full → ∃ u, Claim.HandsN s u (cmd (.inl off)) units (if save then [] else units) (if save then [] else blocksOf off (4096 * n))
          (if save then blocksOf off (4096 * n) else []) [] ∧ Does i s (Claim.counted u ctr))) ∧
      (∀ l, w.d.getLsbD 5 = false → s.look (s.opS 6 w.a) (4096 * n) { rd := !save, wr := save } = .ok l →
        (full ∨ (save = true ∧ s.thr.ctl.prov = true) → Holds i s {}) ∧
        (¬ full → (save = true → s.thr.ctl.prov = false) →
          ∃ u v, Claim.HandsN s u (cmd (.inr (piecesOf (s.opS 6 w.a) l))) units (if save then [] else units) [] [] [] ∧
            Does i s v ∧ v = { Claim.counted u ctr with dies := v.dies })))

/-- R214 to R216, R218, R225 to R228: SCMB combines lane by lane and lands x and y; SSTEP.AFF and SSTEP.SSM hold while a unit that they name is
written or awaits a carry, and SSTEP.SSM once a pre-emption has been requested, and else land the new rows with y; SWT holds while its unit awaits a carry, raises STATE_BOUND with DETAIL 9 once for
an aborted carry, and else has no effect. What combining makes of two pairs, by the kind of the operator word. -/
def Obligations.ScanUpdates : Prop :=
  (∀ (op : Word) (l r : Pair),
    let f := if op.getLsbD 3 then FFmt.fp32 else FFmt.bf16
    let m := RMode.ofBits (op.toNat / 16 % 4)
    let n (x : Word) : Machine.Num := f.decode x.toNat
    let w (x : Flt) : Word := BitVec.ofNat 32 x.val
    (op.toNat % 8 = 0 → (combine op l r).1 = (w (f.mul m (n r.1) (n l.1)), w (f.dot m (n r.2) [(n r.1, n l.2)]))) ∧
    (op.toNat % 8 = 1 → (combine op l r).1 = (r.1, w (f.add m (n l.2) (n r.2)))) ∧
    (op.toNat % 8 = 2 → (combine op l r).1 =
      (w (f.add m (n r.1) (n l.1)), w (f.minmax true (f.add m (n r.1) (n l.2)).val r.2.toNat))) ∧
    (op.toNat % 8 = 3 → (combine op l r).1 = (r.1, w (f.minmax true l.2.toNat r.2.toNat))) ∧
    (op.toNat % 8 = 4 → (combine op l r).1 = (r.1, w (f.minmax false l.2.toNat r.2.toNat))) ∧
    (op.toNat % 8 = 5 → (combine op l r).1 = if r.1.toNat % 2 ^ (f.width - 1) ≠ 0 then r else l) ∧
    (op.getLsbD 6 = false → combinePad op none (some r) = (some r, 0) ∧ combinePad op (some l) none = (some l, 0))) ∧
  ∀ (w : SlotWord) (s : State), s.mayEngine = true →
    let fp := decide (w.fmt = 1)
    let el (x : Word) : Word := if fp then x else BitVec.ofNat 32 (x.toNat % 2 ^ 16)
    let base := s.thr.ctl.sbase.toNat
    (s.ready (.scmb w) = true → Claim.OpFits s w → ∃ x y fl,
      (∀ l, l < 128 → (vlane x l, vlane y l) = (combine (vget 0 s.thr.o (w.mod.toNat % 4))
        (el (vlane (s.thr.getV w.a.toNat) l), el (vlane (s.thr.getV (w.a.toNat + 1)) l))
        (el (vlane (s.thr.getV w.b.toNat) l), el (vlane (s.thr.getV (w.b.toNat + 1)) l))).1) ∧
      Gives (.scmb w) s [{ due := s.now + 4, latch := some (6, .vector y), flags := fl
                           writes := if w.wb then [.vec w.d.toNat x (BitVec.allOnes 128), .vec (w.d.toNat + 1) y (BitVec.allOnes 128)]
                             else [] }]) ∧
    (s.ready (.sstepAff w) = true → (s.opS 6 w.b).toNat < 2 ^ 14 →
      let rel := (s.opS 6 w.b).toNat % 256
      let row := (s.opS 6 w.b).toNat / 256 % 16
      let op := vget 0 s.thr.o ((s.opS 6 w.b).toNat / 4096 % 4)
      Claim.TileFits s fp rel → op.getLsbD 3 = fp → s.core.unitsBad [unitAddr fp (base + rel) row 0 / unitBytes] = false →
      if s.core.unitBusy (tileUnitsAt fp (base + rel)) = true then Holds (.sstepAff w) s {}
      else ∃ y : Vec, (∀ l, l < 128 → vlane y l = (combineY op (0, s.core.elem fp (base + rel) row l)
          (el (vlane (s.thr.getV w.a.toNat) l), el (vlane (s.thr.getV (w.a.toNat + 1)) l))).1) ∧
        Claim.GivesStep (.sstepAff w) s w 4 (rowWrites fp (base + rel) row y) y) ∧
    (s.ready (.sstepSsm w) = true → (s.opS 6 w.b).toNat < 2 ^ 12 →
      let rel := (s.opS 6 w.b).toNat % 256
      let u := base + rel
      let e := vget Scale.zero s.thr.e ((s.opS 6 w.b).toNat / 256 % 16)
      let f := if fp then FFmt.fp32 else FFmt.bf16
      let us := tileUnitsAt fp u ++ tileUnitsAt fp (u + tileUnits fp)
      let h (i c : Nat) : Flt := ssmElem f s.rmode (f.decode (el (vlane (s.thr.getV w.a.toNat) c)).toNat)
        (f.decode (s.core.elem fp (u + tileUnits fp) i c).toNat) (FFmt.bf16.decode (vget 0 e i).toNat)
        (f.decode (el (vlane (s.thr.getV (w.a.toNat + 1)) c)).toNat) (f.decode (s.core.elem fp u i c).toNat)
      Claim.PairFits s fp rel → s.core.unitsBad us = false → s.thr.markOf [.e ((s.opS 6 w.b).toNat / 256 % 16)] = none →
      if s.core.unitBusy us = true ∨ (s.core.freezeReq.isSome = true ∧ s.thr.barv = none) then Holds (.sstepSsm w) s {}
      else ∃ (y : Vec) (hs : Nat → Vec),
        (∀ i c, i < 16 → c < 128 → vlane (hs i) c = BitVec.ofNat 32 (h i c).val) ∧
        (∀ c, c < 128 → vlane y c = BitVec.ofNat 32 (ssmOut f s.rmode
          ((List.range 16).map fun i => FFmt.bf16.decode (vget 0 e (16 + i)).toNat) ((List.range 16).map fun i => (h i c).val)).val) ∧
        Claim.GivesStep (.sstepSsm w) s w 12 ((List.range 16).flatMap fun i => rowWrites fp u i (hs i)) y) ∧
    (s.ready (.swt w) = true → s.thr.ctl.hnd = false → Claim.PairFits s fp (Claim.unitOf w) →
      if s.core.waitsFor (Claim.physOf s w) = true then
        Holds (.swt w) s { limit := (s.opS 6 w.d).toNat % 2 ^ 32, detail := 5, wlim := true }
      else match s.core.aborted.find? fun k => k % 256 = Claim.physOf s w with
        | some k => exec (.swt w) s = .next (State.raises (s.setCore { s.core with aborted := s.core.aborted.put k false })
            { cause := 0x13, detail := 9, slot := 6 })
        | none => Does (.swt w) s s)

/-- R213, R217 to R223, R229 to R231: an open scan command whose turn it is completes: SID fills its pair tile with the identity, SCHK goes on as
far as its streams allow and ends in its unit, SFIX fixes the tiles of its descriptor up (nothing under EXACT with IDN), SRD and SWR move rows,
SSPL and SFIL units and memory or scratchpad with a wait counter falling, and SXCH posts its summary and becomes carry-pending. The results of a
trimmed step's commands are discarded (R321). SFIX works with the pair tile and IDN as they were at its start, and scratchpad tiles are read as
they stood at the command's commit (R221, R222). A core whose masters are frozen completes nothing (R377).
The model's own choices that it rests on: log entries 17, 18, 22, 23, 103, 116, 117. -/
def Obligations.ScanCompletions : Prop :=
  ∀ (n : Nat) (x : NCmd) (s : State), s.core.nq[n]? = some x → s.core.turnN (s.core.nq.take n) x = true →
    s.halted s.thr.launch = false → s.core.exiting = false →
    if s.core.discard = true then ∃ t, exec (Claim.completionN n x.op) s = .next t ∧ Claim.AfterScan s t n x ∧ t = s.setCore t.core ∧
      t.core.units = s.core.units ∧ t.core.scratch = s.core.scratch ∧ t.core.full = s.core.full ∧ t.thr.v = s.thr.v ∧ t.thr.w = s.thr.w ∧
      t.thr.ctl = s.thr.ctl
    else match x.op with
    | .sid u fp op => ∃ t, exec (.sidComplete n) s = .next t ∧ Claim.AfterScan s t n x ∧ t = s.setCore t.core ∧
        t.core.units = (s.core.putPair fp u (List.replicate 2048 (identityOf op)) []).units ∧ t.core.scratch = s.core.scratch ∧
        (op.getLsbD 6 = false → t.core.isIdn fp u = true) ∧
        (op.getLsbD 6 = true → u + 2 * tileUnits fp ≤ 256 → t.core.isIdn fp u = false) ∧ t.thr.v = s.thr.v ∧ t.thr.w = s.thr.w ∧ t.thr.ctl = s.thr.ctl
    | .schk u fp op d => Claim.Goes s n x (.schkComplete n) fp d (fun c y => c.schkPiece fp op d y) fun c y =>
        (c.putPair fp u (y.accs.map fun p => p.getD (0, 0)) y.bad).units
    | .sfix u fp op d => Claim.Goes s n x (.sfixComplete n) fp d (fun c y => c.sfixPiece fp op d y) (fun _ _ => s.core.units) ∧
        ((if x.captured then ∀ p ∈ x.accs, p = none else s.core.isIdn fp u = true) → op.getLsbD 6 = false → ∀ t, exec (.sfixComplete n) s = .next t → t.core.scratch = s.core.scratch)
    | .srd u row k vd wb fp => ∃ t, exec (.srdComplete n) s = .next t ∧ Claim.AfterScan s t n x ∧ t = s.setCore t.core ∧
        t.core.units = s.core.units ∧ t.core.scratch = s.core.scratch ∧ t.thr.w = s.thr.w ∧ t.thr.ctl = s.thr.ctl ∧
        t.thr.lV = vset s.thr.lV 6 (s.core.row fp u (row + k - 1)) ∧ t.thr.lS = vset s.thr.lS 6 0 ∧
        (wb = true → ∀ j, j < k → vd + j < 32 → t.thr.getV (vd + j) = s.core.row fp u (row + j)) ∧
        (∀ v, (wb = false ∨ v < vd ∨ vd + k ≤ v) → t.thr.getV v = s.thr.getV v)
    | .swr u row fp vs => ∃ t, exec (.swrComplete n) s = .next t ∧ Claim.AfterScan s t n x ∧ t = s.setCore t.core ∧
        t.core.scratch = s.core.scratch ∧ t.thr.v = s.thr.v ∧ t.thr.w = s.thr.w ∧ t.thr.ctl = s.thr.ctl ∧
        t.core.units = (List.range vs.length).foldl (fun m j => m.write (unitAddr fp u (row + j) 0) (rowBytes fp (vs.getD j Vec.zero))) s.core.units
    | .sspl u k c dst => ∃ t, exec (.ssplComplete n) s = .next t ∧ Claim.AfterScan s t n x ∧ t.core.units = s.core.units ∧
        t.thr.v = s.thr.v ∧ t.thr.ctl = s.thr.ctl ∧ t.thr.w = vset s.thr.w c (vget 0 s.thr.w c - 1) ∧
        (∀ off, dst = .inl off → Claim.Releases s t ∧ t.releases = (s.returned off (4096 * k)).releases ∧
          t.core.scratch = s.core.scratch.write off (s.core.units.read (4096 * u) (4096 * k))) ∧
        (∀ ps, dst = .inr ps → t.core.scratch = s.core.scratch ∧
          t.mem = (s.putPieces (s.core.units.read (4096 * u) (4096 * k)) (fun _ => false) ps).mem)
    | .sfil u k c src => ∃ t, exec (.sfilComplete n) s = .next t ∧ Claim.AfterScan s t n x ∧ t.mem = s.mem ∧ t.core.scratch = s.core.scratch ∧
        t.thr.v = s.thr.v ∧ t.thr.ctl = s.thr.ctl ∧ t.thr.w = vset s.thr.w c (vget 0 s.thr.w c - 1) ∧
        (∀ off, src = .inl off → t = s.setCore t.core ∧
          t.core.units = s.core.units.write (4096 * u) ((s.core.asOf x.was).scratch.read off (4096 * k))) ∧
        (∀ ps, src = .inr ps → t.core.units = s.core.units.write (4096 * u) (s.getPieces ps).1)
    | .sxch u fp _ scan leaf => ∀ c, s.scan? s.thr.launch scan = some c → c.aborted = false →
        ∃ t v, exec (.sxchPost n) s = .next t ∧ t.core.units = s.core.units ∧ t.core.pending = s.core.pending.put (pairKey fp u) true ∧
          v = s.core.summary fp u ∧
          t.launches = ((s.modScan s.thr.launch scan fun c =>
            let q : Post := { leaf := leaf, sum := v, who := s.me, unit := pairKey fp u, step := s.thr.step }
            if c.posts.any fun y => y.leaf = leaf then { c with next := c.next ++ [q] } else { c with posts := c.posts ++ [q] }).closeRound
              s.thr.launch scan).launches

/-! ### Exceptions, reset, memory (R75, R255, R259, R264, R399, R400) -/

/-- R255, R256, R259, R75, R264: an exception at user level saves EPC, ECAUSE, EADDR and EINFO, sets HND, shadows and empties the held values and
the loop stack, clears the latches, and goes to HBASE + 64 * cause, where the first bundle waits three cycles and for every exposed result; all
other registers stay live. In handler mode, or where HBASE is 0, the thread freezes with its registers as they were, and the launch error record
counts one more entry.
The model's own choices that it rests on: log entries 84. -/
def Obligations.TrapEntry : Prop :=
  ∀ (s : State) (x : TrapInfo) (epc : DWord),
    let t := s.takeTrap x epc
    (s.thr.ctl.hnd = false → s.thr.ctl.hbase ≠ 0 →
      t.thr = { s.thr with
        pc := s.thr.ctl.hbase + BitVec.ofNat 64 (64 * x.cause.toNat)
        ctl := { s.thr.ctl with
          epc := epc, ecause := x.cause, eaddr := x.addr, hnd := true
          einfo := { xnum := x.xnum, xrow := x.xrow, xcl := x.xcl, detail := x.detail, remote := x.remote, wr := x.wr, slot := x.slot
                     applied := x.applied }
          mmst := if x.cause = 0x08 then s.thr.ctl.mmst ||| 4 else s.thr.ctl.mmst }
        heldShadow := s.thr.held, held := {}, loopShadow := s.thr.loops, loops := []
        lS := Vector.replicate 8 0, lV := Vector.replicate 8 Vec.zero, marks := t.thr.marks, waited := 0, wlimF := none, deferred := none } ∧
      t = s.setCore t.core ∧ s.now + 3 ≤ t.core.nextIssue ∧ (∀ l ∈ s.thr.flight, l.due ≤ t.core.nextIssue) ∧
      t.core.scratch = s.core.scratch ∧ t.core.full = s.core.full ∧ t.core.units = s.core.units ∧ t.core.xq = s.core.xq ∧
      t.core.nq = s.core.nq) ∧
    (s.thr.ctl.hnd = true ∨ s.thr.ctl.hbase = 0 →
      t.core.frozen = true ∧ t.thr = s.thr ∧ t.core.xq = s.core.xq ∧ t.core.nq = s.core.nq ∧ t.core.scratch = s.core.scratch ∧
      (s.fw = false → Table.wf none s.launches = true → ∀ l, s.launch? s.thr.launch = some l →
        ∃ k, t.launch? s.thr.launch = some k ∧ k = { l with errs := min (l.errs + 1) 0xFFFFFFFF, errSent := true }))

/-- R338, R389, R399, R404, R271, R286, R310, R314, R361, R368, R369, R379: what a host reads of the device's registers after reset, where the
spec states their reset values; no thread is resident, no queue is enabled, memory lists nothing and is in its canonical form.
The model's own choices that it rests on: log entries 5, 6. -/
def Obligations.ResetState : Prop :=
  State.reset.deviceReg 0x10 = 0 ∧ State.reset.deviceReg 0x18 = 0 ∧ State.reset.deviceReg 0x20 = 2600 ∧
  State.reset.deviceReg 0x28 = 600 ∧ State.reset.deviceReg 0x40 = 100 * 2 ^ 32 + 24 * 2 ^ 8 + 40 ∧ State.reset.deviceReg 0x48 = 0 ∧
  (∀ d, d < 8 → State.reset.deviceReg (0x1000 + 64 * d + 16) = 128 + 64 * 2 ^ 12 + 128 * 2 ^ 24 + 64 * 2 ^ 36 ∧
    State.reset.deviceReg (0x1000 + 64 * d + 24) = 0 ∧ State.reset.deviceReg (0x1000 + 64 * d + 40) = 0) ∧
  (∀ p, p < 16 → State.reset.deviceReg (0x2000 + 8 * p) = 0 ∧ State.reset.deviceReg (0x2080 + 8 * p) = 2 + 2 ^ 8 + 2 ^ 16) ∧
  (∀ p, p < 64 → State.reset.deviceReg (0x11000 + 16 * p) = 0 ∧ State.reset.deviceReg (0x11000 + 16 * p + 8) = 0) ∧
  (∀ q, q < 1024 → State.reset.deviceReg (0x20000 + 32 * q) = 0 ∧
    State.reset.deviceReg (0x20000 + 32 * q + 8) = 4 + 1200 * 2 ^ 16 + 3 * 2 ^ 38 + 2 ^ 40 ∧
    State.reset.deviceReg (0x20000 + 32 * q + 16) = 0) ∧
  (∀ r, r < 65536 → State.reset.deviceByte (0x100000 + 2 * r) = 0 ∧ State.reset.deviceByte (0x100000 + 2 * r + 1) = 0) ∧
  (∀ n, n < 260 → (State.reset.coreAt n).live = false) ∧ (∀ q, (tget {} State.reset.queues q).en = false) ∧
  State.reset.mem = [] ∧ State.reset.mem.wf = true ∧ Table.wf (0, 0) State.reset.tags = true

/-- Memory and the table of line tags are in their canonical form: addresses strictly rising, and no entry that an unlisted address reads as. -/
def Claim.CanonicalMemory (s : State) : Prop := s.mem.wf = true ∧ Table.wf (0, 0) s.tags = true

/-- R274, R275: every step keeps memory and the tags of its lines in the canonical form, whatever the state and whatever event comes next; so a
read of memory after any step is determined by the bytes and tags that were written.
The model's own choices that it rests on: log entries 6. -/
def Obligations.MemoryStaysCanonical : Prop := Kept Claim.CanonicalMemory

/-! ### Events of cores and engines (R72, R73, R117, R161 to R164, R260 to R264, R277, R281 to R283, R300, R303, R306, R307) -/

/-- R12, R23, R72, R73, R154, R283, R303: the exposed results that are due land and stay in flight no longer, those of the replay buffer, of
earlier bundles, first (R81); an interlocked result lands and its interlock is released; a result writes its register words and its latch, ORs its flags into FPST and
changes no other register; an acknowledgement is one that the launch awaits no longer; a walk fills the TLBs of the cores that wait for its page and
whose accesses pass the checks of its leaf (R281), or leaves its fault with them.
The model's own choices that it rests on: log entries 4, 91, 115. -/
def Obligations.ResultsLand : Prop :=
  (∀ (c : Core) (l : Landing) (n : Nat) (x : DWord), l.writes = [.scalar n x] → 0 < n → n < 32 →
    (c.land l).thr.getS n = x ∧ (∀ m, m ≠ n → (c.land l).thr.getS m = c.thr.getS m) ∧ (c.land l).thr.v = c.thr.v ∧
      (c.land l).thr.ctl = { c.thr.ctl with fpst := c.thr.ctl.fpst ||| l.flags } ∧
      (∀ k y, l.latch = some (k, .scalar y) → (c.land l).thr.lS = vset c.thr.lS k y)) ∧
  (∀ (c : Core) (l : Landing) (n : Nat) (x : Vec) (en : BitVec 128), l.writes = [.vec n x en] → n < 32 →
    (∀ i, i < 128 → vlane ((c.land l).thr.getV n) i = if en.getLsbD i then vlane x i else vlane (c.thr.getV n) i) ∧
      (∀ m, m ≠ n → (c.land l).thr.getV m = c.thr.getV m) ∧ (c.land l).thr.s = c.thr.s) ∧
  ∀ (s : State), s.lands = true →
    (s.thr.due s.landLimit false = true → s.thr.due s.landLimit true = false → ∃ t, exec .resultLanding s = .next t ∧ t = { s.setCore t.core with seqWords := t.seqWords } ∧
      t.thr.flight = s.thr.flight.filter (fun l => l.replay || s.landLimit < l.due) ∧
      (∀ l, s.thr.flight = [l] → l.due = s.landLimit → t.core = ({ s.core with thr := { s.thr with flight := [] } } : Core).land l)) ∧
    (s.thr.due s.landLimit true = true → ∃ t, exec .replayLanding s = .next t ∧
      t = { s.setCore t.core with seqWords := t.seqWords } ∧
      t.thr.flight = s.thr.flight.filter (fun l => !l.replay || s.landLimit < l.due)) ∧
    (∀ i x l, s.thr.ilocks[i]? = some x → x.land = some l → ∃ t, exec (.interlockedResult i) s = .next t ∧
      t = { s.setCore t.core with seqWords := t.seqWords } ∧
      t.core = ({ s.core with thr := { s.thr with ilocks := s.thr.ilocks.eraseIdx i } } : Core).land l) ∧
    (∀ a n i, s.awaited[a]? = some (n, i) → exec (.reductionAck a) s = .next (s.modLaunch n fun l => { l with acks := l.acks.eraseIdx i })) ∧
    (∀ die i w, die < 8 → i < 64 → (s.die die).walks[i]? = some w → match s.walkFor die w with
      | .inl e => ∃ t, exec (.walkComplete die i) s = .next t ∧ t.mem = s.mem ∧
          (t.die die).ltlb = (if s.walkOk e w = true ∨ ∃ x ∈ (s.die die).walks, x.ctx = w.ctx ∧ x.va.toNat / 2 ^ e.shift = e.page ∧ s.walkOk e x = true
            then tlbAdd 24576 (s.die die).ltlb e else (s.die die).ltlb) ∧
          (t.die die).walks = (s.die die).walks.filter (fun x => !(x.ctx = w.ctx && x.va.toNat / 2 ^ e.shift = e.page)) ∧
          (w.core = s.cur → w.va.toNat / 2 ^ e.shift = e.page → e ∈ t.core.found ∧ (s.walkOk e w = true → e ∈ t.core.utlb)) ∧
          ((∀ x ∈ (s.die die).walks, s.walkOk e x = false) → t.core.utlb = s.core.utlb) ∧ t.thr = s.thr
      | .inr (c, d) => ∃ t, exec (.walkComplete die i) s = .next t ∧ t.mem = s.mem ∧ (t.die die).ltlb = (s.die die).ltlb ∧
          (w.core = s.cur → ⟨w.ctx, w.va, c, d⟩ ∈ t.core.wfaults) ∧ t.core.utlb = s.core.utlb ∧ t.thr = s.thr)

/-- The cycle at which a freeze that is asked for at cycle z falls due: a trap entry that is under way completes first (R258). -/
def Claim.freezeAfter (s : State) (z : Nat) : Nat := if s.core.entering s.now then max z s.core.nextIssue else z

/-- R77, R117, R255, R260 to R262, R264, R297, R299: the exception of fetch or decode is taken at the bundle boundary; a wait at its limit raises
WAIT_TIMEOUT, and one at WLIM asks for suspension with reason 2; a pre-emption freezes the core three cycles on; a late report is taken by the
thread that it names at its boundary, kept for one that cannot take it, and becomes an error entry where the thread has exited. A freeze that is
asked for during a trap entry waits for its end (R258), and one that falls due while an arrival of a BARV is in flight for its response (R409).
The model's own choices that it rests on: log entries 26, 70, 82, 102. -/
def Obligations.BoundaryEvents : Prop :=
  ∀ (s : State),
    (∀ t, s.canIssue = true → s.thr.deferred = none → s.thr.late = [] → s.boundaryTrap = some t →
      ∃ k, exec (.trapEntry t) s =
        .next (((s.tableFetched.setCore { s.core with segFails := s.failRaised }).modThr fun x => { x with breakSkip := k }).takeTrap t s.thr.pc) ∧
        (s.thr.breakSkip = false → k = false)) ∧
    (∀ w, s.core.waitInfo = some w → s.canIssue = true → w.limit ≠ 0 → w.limit ≤ s.thr.waited →
      exec .waitTimeout s = .next (s.takeTrap { cause := 0x0C, detail := w.detail, slot := BitVec.ofNat 3 w.slot } s.thr.pc)) ∧
    (∀ w, s.core.waitInfo = some w → s.canIssue = true → w.wlim = true → s.thr.wlimF.getD s.thr.ctl.wlim.toNat ≤ s.thr.waited →
      (w.limit = 0 ∨ s.thr.waited < w.limit) → s.frameFree = true → s.fw = false →
      ∃ t, exec .waitSuspend s = .next t ∧ t.core.freezeReq = some (Claim.freezeAfter s s.now, 2) ∧ t.thr.frame.isSome = true ∧
        t.thr = { s.thr with frame := t.thr.frame, wlimF := some (s.thr.wlimF.getD s.thr.ctl.wlim.toNat) } ∧
        t.core = { s.core with thr := t.thr, freezeReq := t.core.freezeReq, nextIssue := s.now } ∧ t.mem = s.mem) ∧
    (∀ z r, s.core.freezeReq = some (z, r) → s.running = true → s.core.exiting = false →
      (s.canIssue = true ↔ s.now < z ∨ s.thr.barv.isSome = true)) ∧
    (∀ r, 3 ≤ r → r ≤ 5 → s.preemptable = true → ∃ t, exec (.preemptRequest r) s = .next t ∧
      t.core.freezeReq = some (Claim.freezeAfter s (s.now + 3), r) ∧
      t.thr.frame.isSome = true ∧ t.thr = { s.thr with frame := t.thr.frame } ∧ t.mem = s.mem ∧ t.core.scratch = s.core.scratch) ∧
    (∀ (r : LateReport) l, s.launch? r.launch = some l → reportOk r.info = true →
      (s.canIssue = true → s.thr.barv = none → reportNames r s.thr = true → exec (.lateReport r) s =
        .next ((s.modThr fun t => { t.cancel r.token with late := t.late.erase r }).takeTrap { r.info with remote := true } s.thr.pc r.pc)) ∧
      (s.canIssue = false ∨ s.thr.barv.isSome = true → s.core.live = true → reportNames r s.thr = true → s.hasExited r = false → ∃ t, exec (.lateReport r) s = .next t ∧ r ∈ t.thr.late ∧
        t.thr = { s.thr.cancel r.token with late := t.thr.late }) ∧
      (s.hasExited r = true ∨ (s.threadsOf r.launch).any (reportNames r) = false → (s.canIssue = true → reportNames r s.thr = false) →
        exec (.lateReport r) s = .next (s.appendError r.launch
          { cause := r.info.cause, detail := r.info.detail, remote := true, wr := r.info.wr, applied := r.info.applied, late := true
            slot := r.info.slot.toNat, tid := r.tid % 2 ^ 32, step := r.step, pc := r.pc, addr := r.info.addr })))

/-- R161 to R164, R277, R306, R307: a feeder puts the next element into its empty ring slot and sets its words full, poisoned with the feeder
stopped where the element cannot be read; a drainer writes a full element to memory and empties its words; a copy moves the words of the next
line in the order of its template, with REL once its thread's earlier accesses are performed, and ends, once what it has written in another
package is acknowledged, with its counter decremented or with its failure recorded and the rest of its destination poisoned; a fetch outside the banks starts a segment
copy, and a finished copy fills the idle bank, marked failed where a line of its image is poisoned.
A segment is at most the 131,072 bytes that a bank holds (R2).
The model's own choices that it rests on: log entries 29, 30, 101, 103, 104, 120. -/
def Obligations.MemoryEngines : Prop :=
  ∀ (s : State),
    (∀ (q : Fin 8) u, (s.thr.q[q]).subs = some u →
      let b := s.thr.q[q]
      let ws := wordsOf b.feedSlot b.size
      (s.feeds b false = true → ws.any s.core.full.has = false → s.busHeld s.ctxOf (u.addr b.fed) b.size (dieOf s.cur) false = false → ∃ t, exec (.feedElement q) s = .next t ∧ t.mem = s.mem ∧
        (∀ w ∈ ws, t.core.full.has w = true) ∧ t.thr = { s.thr with q := t.thr.q } ∧
        match s.agentRead s.ctxOf (!b.priv) (u.addr b.fed) b.size with
        | .inl (bs, false) => t.core.scratch = s.core.scratch.write b.feedSlot bs ∧
            t.thr.q = vset s.thr.q q { b with fed := b.fed + 1, idle := b.idle || u.count ≤ b.fed + 1 }
        | _ => t.core.scratch = s.core.scratch ∧ (∀ w ∈ ws, t.core.spoison.has w = true) ∧
            t.thr.q = vset s.thr.q q { b with idle := true, fault := some (u.addr b.fed) }) ∧
      (s.feeds b true = true → ws.all s.core.full.has = true → s.busHeld s.ctxOf (u.addr b.fed) b.size (dieOf s.cur) true = false → ∃ t, exec (.drainElement q) s = .next t ∧
        t.core.full = s.core.full.putAll ws false ∧ t.core.scratch = s.core.scratch ∧ t.thr = { s.thr with q := t.thr.q } ∧
        match s.agentWrite s.ctxOf (!b.priv) (u.addr b.fed) (s.core.scratch.read b.feedSlot b.size) (s.byLaunch s.thr.launch) with
        | some v => t.mem = v.mem ∧ t.thr.q = vset s.thr.q q { b with fed := b.fed + 1, idle := b.idle || u.count ≤ b.fed + 1 }
        | none => t.thr.q = vset s.thr.q q { b with idle := true, fault := some (u.addr b.fed) })) ∧
    (∀ i c, tget none s.copies i = some c → s.copyFrozen c = false → (c.rel = true → c.prog = 0 → s.owedBefore c.who i = false) →
      s.copyStray c = false →
      (s.copyImage c = none → exec (.copyComplete i) s = .next (s.draw.copyEnd i c (some (0, 1)))) ∧
      (∀ bs, s.copyImage c = some bs → Template.ofBytes bs = none →
        exec (.copyComplete i) s = .next (s.draw.copyEnd i c (some (0, 1)))) ∧
      (∀ bs tm, s.copyImage c = some bs → Template.ofBytes bs = some tm →
        (∀ k d, c.prog = 0 → s.copyCheck c tm tm.words 0 = some (k, d) →
          exec (.copyComplete i) s = .next (s.draw.copyEnd i c (some (k, d)))) ∧
        ((c.prog = 0 → s.copyCheck c tm tm.words 0 = none) → ∀ u k m,
          (s.draw.copyBegin c).copyLine c tm ((c.dstAt tm c.prog).toNat / 128) 16 c.prog = (u, k, m) →
          (∀ d, m = some (.fail d) → u.copyHeld c tm (tm.words - k) k = false →
            exec (.copyComplete i) s = .next ((u.copyPoison c tm (tm.words - k) k).copyEnd i c (some (k, d)))) ∧
          (m = none ∨ m = some .wait →
          let v := if k = c.prog + 16 ∧ s.copyWhole c tm c.prog = true then u.copyClear c (c.dstAt tm c.prog) else u
          (k = tm.words → v.copyAway c = false → exec (.copyComplete i) s = .next (v.copyEnd i c none)) ∧
          (k ≠ tm.words ∨ v.copyAway c = true → k ≠ c.prog → exec (.copyComplete i) s =
            .next { v with copies := tset none v.copies i (some { c with image := some bs, prog := k }) }))) ∧
        ∀ k src off, s.copySource c tm k = .inl (src, false) → tm.dsp = 1 → s.copyLocal c (c.dstAt tm k) = some (s.cur, off, true) →
          s.core.owner = some c.launch → s.core.ownedAt off 8 = false → (tm.wemp = true → s.core.full.has (off / 8) = false) →
          ∃ u, s.copyWord c tm k = .ok u ∧ u.core.scratch = s.core.scratch.write off src ∧ u.mem = s.mem ∧ u.thr = s.thr ∧
            (tm.full = true → isFw c.core = false → u.core.full.has (off / 8) = true ∧
              tget none u.releases (scratchLoc c.launch s.cur off / 64) = some ⟨s.cur, scopeDie, none, none⟩))) ∧
    (∀ i c r, tget none s.copies i = some c → c.packet = none → c.who = some r → r = s.me → s.core.live = true →
      let u := s.copyEnd i c none
      u.thr.w = vset s.thr.w c.ctr (vget 0 s.thr.w c.ctr - 1) ∧ u.copies = tset none s.copies i none ∧ u.thr.fails = s.thr.fails) ∧
    (∀ g, s.fetch = .stall g → s.canIssue = true → s.core.copying = none → exec .segmentFetchMiss s =
      .next (s.tableFetched.setCore { s.core with copying := some g, segFails := s.core.segFails.filter fun x => x.1 ≠ g.index })) ∧
    (∀ g, s.core.copying = some g → s.canIssue = true →
      match s.agentRead s.ctxOf s.user g.img g.len true with
      | .inr (c, d, va) => exec .segmentCopyDone s = .next (s.setCore { s.core with
          copying := none, segFails := (g.index, { cause := c, detail := d, addr := va }) :: s.core.segFails })
      | .inl (bs, bad) => ∃ t p, exec .segmentCopyDone s = .next t ∧ (bad = false → p = []) ∧ t.thr = s.thr ∧ t.mem = s.mem ∧
          t.core = { s.core with
            copying := none
            banks := vset (if (vget none s.core.banks s.core.active.toNat).any (fun h => h.index = g.index) then
                vset s.core.banks s.core.active.toNat none else s.core.banks) (!s.core.active).toNat
              (some { index := g.index, start := g.start, len := g.len, img := g.img, bytes := Mem.write [] 0 bs, poison := p
                      failed := bad }) }) ∧
    ∀ i st len img, s.segEntry i = .inl (st, len, img) → len ≤ 131072

/-! ### Scheduling, prediction and the scan network (R9, R20, R25 to R32, R224, R287 to R303, R308 to R337, R402) -/

/-- The chunk that the walker grants where a launch's claim is on p cores: the first steps, or one step from F on (R287, R313). -/
def Claim.chunk (l : Launch) (p : Nat) : Nat :=
  let rem := l.n - l.next
  if l.f ≤ l.next then 1 else min (min (max l.minc ((rem + 2 * max p 1 - 1) / (2 * max p 1))) (l.f - l.next)) rem

/-- A step is the work of a core: R291 chooses it, or its launch is the only one with work for the core and has no continuation, and the core
can be given its claim. -/
def Claim.stepFor (s : State) (n : Nat) (l : Launch) (core : Nat) : Prop :=
  s.workOn core = some (n, .step) ∨
    (s.canRun l = true ∧ l.ganged = false ∧ l.conts = [] ∧ s.canGive n l core = true ∧
      ∀ x ∈ s.allLaunches, x.1 ≠ n → s.workOf x.1 x.2 core = none)

/-- R9, R20, R24 to R26, R287, R289: CHUNK_REQUEST and STEP_START answer a next state. A dispatcher that has started its steps is granted the next
chunk while steps remain, and stops when none does; a step that a dispatcher holds starts on the core chosen for it with the step-start
registers s0 to s7 (the nest indices in s1 to s4, PARAM, the launch flags, TMPL), and with its own registers zero.
The model's own choices that it rests on: log entries 36, 38, 92. -/
def Obligations.StepsStart : Prop :=
  ∀ (s : State) (n : Nat) (l : Launch), Table.wf none s.launches = true → Table.wf {} s.parked = true → s.launch? n = some l →
    (∀ die, s.canRun l = true → l.ganged = false → die < 8 → l.dies.getLsbD die = true → (s.die die).fenced = false → l.newOn die = false →
      die ∉ l.stopped → l.lost = false → l.again = [] →
      (l.next < l.n → 0 < l.minc →
        let k := Claim.chunk l (s.claimants n).length
        ∃ t, exec (.chunkRequest n die) s = .next t ∧ t = { s with launches := t.launches, queues := t.queues } ∧ 0 < k ∧
          l.next + k ≤ l.n ∧ t.launch? n = some { l with
            next := l.next + k
            grants := l.grants ++ [⟨die, l.next, k, none, 0⟩]
            prov := if l.isProv l.next then l.prov ++ [{ step := l.next, die := die }] else l.prov
            disp := l.disp.filter (fun d => d.die ≠ die) ++ [⟨die, l.next, l.next + k⟩] }) ∧
      (l.n ≤ l.next → ∃ t, exec (.chunkRequest n die) s = .next t ∧ t = { s with launches := t.launches } ∧
        t.launch? n = some { l with stopped := l.stopped ++ [die] })) ∧
    (∀ core d, core < 256 → Claim.stepFor s n l core → (l.disp.find? fun d => d.die = dieOf core && d.next < d.stop) = some d →
      ∃ t : State, exec (.stepStart n core) s = .next t ∧
        let c := t.coreAt core
        let r := c.thr
        c.live = true ∧ c.frozen = false ∧ c.acc = l.acc ∧ c.units = [] ∧ c.xq = [] ∧ c.nq = [] ∧ r.launch = n ∧ r.step = d.next ∧
        r.getS 0 = 0 ∧ r.getS 1 = BitVec.ofNat 64 (d.next % l.bounds.getD 0 1) ∧
        let b (k : Nat) : Nat := l.bounds.getD k 1
        r.getS 2 = BitVec.ofNat 64 (d.next / b 0 % b 1) ∧ r.getS 3 = BitVec.ofNat 64 (d.next / (b 0 * b 1) % b 2) ∧
        r.getS 4 = BitVec.ofNat 64 (d.next / (b 0 * b 1 * b 2) % b 3 + b 3 * (d.next / (b 0 * b 1 * b 2 * b 3) % b 4 +
          b 4 * (d.next / (b 0 * b 1 * b 2 * b 3 * b 4) % b 5))) ∧
        r.getS 5 = l.param ∧ r.getS 6 = BitVec.ofNat 64 ((if l.isProv d.next then 1 else 0) + (if l.idem then 2 else 0) +
          (if l.migr then 4 else 0) + if l.lchk then 8 else 0) ∧ r.getS 7 = l.tmpl ∧
        (∀ i, 8 ≤ i → r.getS i = 0) ∧ (∀ i, r.getP i = decide (i = 0)) ∧ r.getK 0 = BitVec.allOnes 128 ∧ (∀ i, 0 < i → r.getK i = 0) ∧
        (∀ i, r.getV i = Vec.zero) ∧ (∀ i, vget 0 r.w i = 0) ∧ (∀ i, vget 0 r.o i = 0) ∧ (∀ i, vget Scale.zero r.e i = Scale.zero) ∧
        (∀ i, vget Tile.zero r.acc i = Tile.zero) ∧ (∀ i, (vget {} r.q i).bound = false) ∧ r.bank = false ∧ r.loops = [] ∧ r.held = {} ∧
        r.ctl.tid = BitVec.ofNat 48 d.next ∧ r.ctl.core = BitVec.ofNat 5 core ∧ r.ctl.die = BitVec.ofNat 3 (core / 32) ∧
        r.ctl.launch = BitVec.ofNat 32 l.id ∧ r.ctl.hnd = false ∧ r.ctl.lease = false ∧ r.ctl.lchk = l.lchk ∧
        r.ctl.prov = l.isProv d.next ∧ r.ctl.rmode = 0 ∧ r.ctl.fpst = 0 ∧ r.ctl.mmst = 0 ∧ r.ctl.epc = 0 ∧ r.ctl.ecause = 0 ∧
        r.ctl.eaddr = 0 ∧ r.ctl.einfo = {} ∧ r.ctl.hbase = l.hb ∧ r.ctl.sbase = 0 ∧ r.ctl.slim = BitVec.ofNat 9 l.stu ∧
        r.ctl.segt = l.segt ∧ r.ctl.wlim = 65536)

/-- R29, R292 to R303: a frozen thread becomes a continuation with its registers and its core idle, the claim's bytes staying; a resume restores
the registers and state units that the frame holds; a quantum that is over, and ready work of a higher priority, pre-empt a thread; a gang instance is suspended as
a whole, and its members are placed together.
The model's own choices that it rests on: log entries 31, 37, 40, 41, 85, 107, 124. -/
def Obligations.ThreadsMove : Prop :=
  ∀ (s : State), Table.wf none s.launches = true → Table.wf {} s.parked = true →
    (∀ z reason l, s.core.freezeReq = some (z, reason) → s.myLaunch = some l → s.canSave = true → l.lost = false ∨ l.gang < 2 →
      ∃ (t : State) (k : Cont), exec .spillSave s = .next t ∧ t.core.live = false ∧ t.core.scratch = s.core.scratch ∧ t.core.full = s.core.full ∧
        t.core.owner = s.core.owner ∧ k.core = s.cur ∧ k.reason = (if (l.gangOf s.thr.ctl.tid.toNat).isSome then 5 else reason) ∧
        k.thr = { s.thr with flight := k.thr.flight, landed := 0 } ∧ k.units = s.core.units ∧ k.idn = s.core.idn ∧ k.pending = s.core.pending ∧
        ∃ j, t.launch? s.thr.launch = some j ∧ j.conts = l.conts ++ [(l.contNo, k)]) ∧
    (∀ n l k c core, core < 256 → s.launch? n = some l → (l.conts.find? fun x => x.1 = k) = some (k, c) → s.workOn core = some (n, .cont k) →
      let u := ((s.vacate n core).modLaunch n fun l => { l with conts := l.conts.filter fun x => x.1 ≠ k }).focus core
      let rd := u.frameRead l (c.thr.frame.getD 0)
      let x := c.reload rd l
      ∃ t : State, exec (.resume n k core) s = .next t ∧
        let r := (t.coreAt core).thr
        (t.coreAt core).live = true ∧ (t.coreAt core).units = x.units ∧ (t.coreAt core).idn = x.idn ∧
        r.pc = c.thr.pc ∧ r.s = x.thr.s ∧ r.p = x.thr.p ∧ r.k = x.thr.k ∧ r.v = x.thr.v ∧ r.lS = x.thr.lS ∧ r.lV = x.thr.lV ∧
        (c.core / 32 = core / 32 → r.q = x.thr.q) ∧
        r.w = x.thr.w ∧ r.o = x.thr.o ∧ r.e = x.thr.e ∧ r.pat = x.thr.pat ∧ r.acc = x.thr.acc ∧ r.held = x.thr.held ∧ r.loops = x.thr.loops ∧
        r.mcfg = x.thr.mcfg ∧ r.ctl = { x.thr.ctl with core := BitVec.ofNat 5 core, die := BitVec.ofNat 3 (core / 32) } ∧
        (∀ bs, rd 0x1000 512 = some bs → ∀ i, 0 < i → i < 32 → r.getS i = BitVec.ofNat 64 (bytesNat ((bs.drop (8 * i)).take 8))) ∧
        (rd 0x1000 512 = none → r.s = c.thr.s)) ∧
    (∀ l, s.myLaunch = some l → s.running = true → s.fw = false →
      let q := tget {} s.queues l.queue
      s.thr.quantum + 1000 * q.quant.toNat ≤ s.now →
      let u := s.modThr fun t => { t with quantum := s.now }
      let waits := s.allLaunches.any fun x => x.2.queue ≠ l.queue && s.prioOf x.2 = q.prio.toNat && s.readyOn x.1 x.2 (dieOf s.cur) .same
      exec .quantumExpiry s =
        .next (if waits && !s.idleOn (dieOf s.cur) && s.preemptable then u.freezeAt (s.now + 3) 3 else u)) ∧
    (∀ die p n, die < 8 → s.readyPrio die = some p → s.lacks die p = true → s.victim die p = some n →
      exec (.priorityPreempt die) s = .next (s.onCore n fun u => u.freezeAt (s.now + 3) 4)) ∧
    (∀ n l g, s.launch? n = some l → (l.gangs.find? fun x => x.inst = g) ≠ none → (∀ x ∈ l.gangs, x.inst = g → x.swapped = true) →
      s.core.live = true → s.core.frozen = false → s.core.exiting = false → s.core.freezeReq = none → s.thr.launch = n →
      (∀ x ∈ l.gangs, x.inst = g → s.thr.ctl.tid.toNat ∈ x.tids) →
      ∃ t, exec (.gangSwap n g) s = .next t ∧ t.core.freezeReq = some (Claim.freezeAfter s (s.now + 3), 5) ∧ t.mem = s.mem) ∧
    (∀ n l first k used cores, s.launch? n = some l → s.canRun l = true → l.ganged = true → s.gangCores n l cores = true →
      s.gangFits n l l.gangs.length cores = true →
      (l.gangs.find? fun g => g.inst = l.gangs.length) = none → l.nextGang = some (first, k, used) → cores.length = k →
      ∃ t j, exec (.gangPlace n l.gangs.length cores) s = .next t ∧ t.launch? n = some j ∧ j.next = max l.next (first + k) ∧
        j.gangs = l.gangs ++ [{ inst := l.gangs.length, first := first, tids := (List.range k).map fun i => first + i }] ∧
        j.prov = l.prov ++ if l.isProv first then (List.range k).map fun i => { step := first + i, die := dieOf (cores.headD 0) } else []) ∧
    (∀ die, die < 8 → (s.die die).fenced = false → ∃ t, exec (.dieFence die) s = .next t ∧ (t.die die).fenced = true ∧
      (t.die die).walks = [] ∧ t.host.intst.getLsbD 4 = true ∧ (∀ e ∈ t.psb, e ∈ s.psb ∧ e.die ≠ die) ∧
      (∀ e ∈ s.psb, e.die ≠ die → (∀ l, s.launch? e.launch = some l → l.dies.getLsbD die = false) → e ∈ t.psb) ∧
      (s.cur < 256 → dieOf s.cur = die → t.core.live = false ∧ t.core.thr = {} ∨ s.core.live = false ∧ s.core.owner = none))

/-- R215, R224, R315, R317, R318, R320, R322, R330 to R332, R336: the true shape of a predicted launch, when it arrives or the time limit passes,
sets N, F and NEXT; the lowest confirmed step's buffered stores are performed and its PROV clears; a carry lands in the pair tile of the thread that
posted it; a node combines its operands in the canonical order; an abort ends the round.
The model's own choices that it rests on: log entries 8, 17, 43, 105. -/
def Obligations.PredictionAndNetwork : Prop :=
  (∀ op (a b : List Pair) f g, (combineSum op { vals := some a, flags := f } { vals := some b, flags := g }).vals =
    some (List.zipWith (fun l r => (combine op l r).1) a b)) ∧
  ∀ (s : State) (n : Nat) (l : Launch), Table.wf none s.launches = true → s.launch? n = some l →
    (∀ h bs p x, s.openShape n = some (l, h) → h.cell ≠ 0 → s.agentRead l.ctx false h.cell 8 = .inl (bs, p) →
      cellShape h.nmax (bytesNat bs) = some x → exec (.shapeCellArrival n) s =
        .next ((s.agentReach l.ctx h.cell 8).draw.settle n (some x))) ∧
    (∀ h d, s.openShape n = some (l, h) → h.deadline = some d → d ≤ s.now → exec (.shapeTimeout n) s = .next (s.settle n none)) ∧
    (∀ h x, l.shape = some h → l.prov = [] → h.allocs = [] → h.scans = 0 →
      let top := max (match x with | some y => if h.nmax < y then l.f else y * h.inner | none => l.f) l.f
      (s.settle n x).launch? n = some
        { l with
          n := top, f := top, next := min l.next top, again := l.again.filter fun g => g.first < top
          stopped := if l.n < top then [] else l.stopped
          shape := some { h with settled := true, deadline := none }
          status := joinCode l.status (match x with | some y => if h.nmax < y then 7 else if y < h.firm then 8 else 0 | none => 6) }) ∧
    (∀ p, l.commitNext = some p → l.dead = false → l.frozen = false →
      ∃ t j, exec (.provisionalCommit n) s = .next t ∧
        t.mem = ((s.psbOf n p.step).foldl (fun s e => e.items.foldl (fun s i => s.commitItem e i) s) s).mem ∧ t.launch? n = some j ∧
        j.commit = p.step + 1 ∧ j.prov = l.prov.filter (fun q => q.step ≠ p.step) ∧
        (s.core.live = true → s.thr.launch = n → s.thr.step = p.step → t.thr.ctl = { s.thr.ctl with prov := false })) ∧
    (∀ k c leaf p, s.scan? n k = some c → c.carryFor leaf = some p → s.core.live = true → s.core.frozen = false →
      s.thr.ctl.hnd = false → s.me = p.who →
      ∃ t, exec (.carryLand n k leaf) s = .next t ∧ t.core.pending = s.core.pending.put p.unit false ∧
        t.core.units = (s.core.putPair (decide (256 ≤ p.unit)) (p.unit % 256)
          (p.sum.vals.getD (List.replicate 2048 (identityOf c.opw))) p.sum.poison).units ∧
        t.thr.ctl = { s.thr.ctl with fpst := s.thr.ctl.fpst ||| p.sum.flags } ∧ t.thr.s = s.thr.s ∧ t.thr.v = s.thr.v ∧ t.mem = s.mem) ∧
    (∀ k c down d leaf, s.scan? n k = some c → c.aborted = false → c.formed down d leaf = true →
      let u := if d = 0 ∧ (down = false ∨ c.depth = 1) then s.farPosts n k c (leaf + 1 - 2 ^ (d + 1)) 2 else s
      ∀ x a b, u.scan? n k = some x → x.operands down d leaf = some (a, b) →
      ∃ t, exec (.scanNodeCombine n k down d leaf) s = .next t ∧ t.core = s.core ∧
        t.launches = ((u.modScan n k fun c =>
          { c with nodes := c.nodes ++ [⟨down, d, leaf, combineSum c.opw a b⟩] }).closeRound n k).launches ∧
        (c.wide = false → u.launches = s.launches)) ∧
    (∀ k c, s.scan? n k = some c → c.aborted = false → ∃ t j, exec (.scanRoundAbort n k) s = .next t ∧
      t.launch? n = some j ∧ j.errs = min (l.errs + 1) 0xFFFFFFFF ∧
      j.scans = l.scans.modify k fun c => { c with aborted := true, posts := [], far := [], next := [], nodes := [], landed := [] })

/-! ### Queues, packets and launches (R284, R316, R325 to R329, R338 to R351) -/

/-- R25, R284, R316, R327 to R329, R339, R340, R342 to R348, R350, R351: a visit clears PEND and serves the packets at the head; a packet is
taken as its word 0 becomes zero and RIDX moves past it, and does what its type says; a held one is read once and waits; a rejected packet stops its queue with RIDX unchanged; a
granule that cannot be read gives STATE 2 and a page request; a SETSIG whose signal is in another package completes once it is acknowledged; a RESET stops its queue's work at once and completes, with the queue empty, once what was sent is acknowledged; a completion writes the status word, sends the interrupt and the releases, and its
launch leaves the package.
The model's own choices that it rests on: log entries 46, 47, 48, 49, 79, 93, 129, 133, 134. -/
def Obligations.QueuesAndPackets : Prop :=
  ∀ (s : State) (q : Nat), Table.wf {} s.queues = true → Table.wf none s.packets = true → Table.wf none s.copies = true →
    Table.wf none s.records = true → Table.wf none s.launches = true → Table.wf 0 s.releasesQ = true →
    (q < 1024 → s.host.qen = true → (s.coreAt (256 + q % 4)).frozen = false →
      let u := s.modQueue q fun d => { d with pend := false }
      (u.nextPacket q = .nothing ∨ u.nextPacket q = .held none → exec (.queueVisit q) s = .next u) ∧
      (∀ x, u.nextPacket q = .held (some x) → exec (.queueVisit q) s = .next ((u.headReach q).draw.modQueue q fun d => { d with seen := some x })) ∧
      (∀ x, (s.queue q).seen = none → s.nextPacket q = .held (some x) → x.1.queue = q ∧ x.1.index = (s.queue q).ridx.toNat) ∧
      (∀ bs, u.nextPacket q = .bad bs → ∃ t, exec (.queueVisit q) s = .next t ∧ (t.queue q).st = 1 ∧ (t.queue q).pend = false ∧
        (t.queue q).ridx = (s.queue q).ridx ∧ t.packets = s.packets ∧ t.releasesQ = s.releasesQ ∧ t.host = s.host) ∧
      (∀ p len, u.nextPacket q = .packet p len → ((u.headReach q).startPacket q p len).nextPacket q = .nothing →
        exec (.queueVisit q) s = .next ((u.headReach q).startPacket q p len))) ∧
    (∀ p len, s.nextPacket q = .packet p len → (∀ x, (s.queue q).seen = some x → x.1.queue = q) →
      let h := s.headReach q
      let u := h.takePacket q p len
      let f := pktField p.body
      let ctx := (s.queue q).ctx.toNat
      let va (o : Nat) : DWord := BitVec.ofNat 64 (f o 8)
      let done (t : State) (c : Nat) : Prop := tget none t.packets s.tokens = some { p with code := some c }
      (h = { s with dies := h.dies, outbox := h.outbox, core := h.core, parked := h.parked } ∧ h.thr = s.thr ∧
        (u.queue q).ridx = (s.queue q).ridx + BitVec.ofNat 32 len ∧ tget none u.packets s.tokens = some p ∧
        tget 0 u.releasesQ (q + 1024 * p.index) = 0 ∧
        ∀ v, h.agentWrite ctx false ((s.queue q).granule (s.queue q).ridx.toNat) (natBytes 4 0) { queue := some q } = some v →
          u.mem = v.mem) ∧
      (p.typ = 1 → ∃ t, exec (.launch q) s = .next t ∧ (f 0 4 / 2 ^ 17 % 2 = 0 →
        match u.scanTable ctx (va 80) (BitVec.ofNat 8 (f 127 1)) (f 88 1) with
        | none => done t 10 ∧ t.launches = s.launches
        | some c => ∃ l, t.launch? u.tokens = some l ∧ l.n = boundProduct p.body 6 ∧ l.f = l.n ∧ l.next = 0 ∧ l.scans = c ∧
            l.packet = s.tokens ∧ l.queue = q ∧ l.ctx = ctx ∧ l.segt = va 32 ∧ l.param = va 40 ∧ l.tmpl = va 48 ∧ l.erec = va 64 ∧
            l.scr = f 120 4 ∧ l.dies = BitVec.ofNat 8 (f 127 1) ∧ l.bounds = (List.range 6).map (fun i => f (96 + 4 * i) 4) ∧
            l.id = q * 2 ^ 22 + p.index % 2 ^ 22)) ∧
      (p.typ = 2 → ∃ t c, exec (.copy q) s = .next t ∧ tget none t.copies u.tokens = some c ∧ c.src = va 40 ∧ c.dst = va 48 ∧
        c.image = p.image ∧ c.user = true ∧ c.ctx = ctx ∧ c.scope = 0 ∧ c.packet = some s.tokens) ∧
      (p.typ = 3 → ∃ t, exec (.waitsig q) s = .next t ∧
        if u.waitMet p then done t 0 ∧ t.queues = u.queues else (t.queue q).wait = some s.tokens ∧ t.packets = u.packets) ∧
      (p.typ = 4 →
        let v := u.signal ctx (va 48) (f 32 1) (va 40) { queue := some q, packet := some s.tokens }
        exec (.setsig q) s = .next (if v.packetAway s.tokens then v else v.packetCode s.tokens 0)) ∧
      (p.typ = 5 → ∃ t r, exec (.coll q) s = .next t ∧ tget none t.records u.tokens = some r ∧ r.addr = va 32 ∧ r.ctx = ctx ∧
        r.loaded = false ∧ r.started = false ∧ r.packet = some s.tokens) ∧
      (p.typ = 6 → ∃ t, exec (.shape q) s = .next t ∧
        ((u.launchNamed (f 32 8)).bind u.openShape = none → done t 9 ∧ t.launches = s.launches) ∧
        ∀ n x, u.launchNamed (f 32 8) = some n → u.openShape n = some x → t = (u.settle n (some (f 40 4))).packetCode s.tokens 0) ∧
      (p.typ = 7 → exec (.mark q) s = .next u) ∧
      (p.typ = 8 → f 32 1 = 1 → ∃ t, exec (.qctlReset q) s = .next t ∧ (t.queue (f 34 2)).st = 3 ∧ (t.queue (f 34 2)).wait = none ∧
        (∀ k p', tget none t.packets k = some p' → p'.queue ≠ f 34 2) ∧
        ∀ n l, t.launch? n = some l → l.queue = f 34 2 → l.dead = true ∧ l.conts = [] ∧ l.grants = [] ∧ l.prov = []) ∧
      (p.typ = 8 → f 32 1 = 2 → ∃ t, exec (.qctlShoot q) s = .next t ∧
        (∀ e ∈ t.core.utlb ++ t.core.found, e.within (f 33 1) (f 40 8) (f 48 8) = false) ∧
        ∀ die < 8, (∀ e ∈ (t.die die).ltlb, e.within (f 33 1) (f 40 8) (f 48 8) = false) ∧
          ∀ e ∈ (t.die die).tables, e.within (f 33 1) (f 40 8) (f 48 8) = false) ∧
      (p.typ = 8 → f 32 1 = 3 → ∃ t, exec (.qctlPoolfree q) s = .next t ∧ done t 0 ∧
        ∀ i o n, u.poolFree p.body = some (i, o, n) →
          t.pools = tmod {} s.pools i fun x => { x with taken := freeRange o n x.taken }) ∧
      ((f 0 4).testBit 16 = true → exec (.heldPacketStart q) s = .next (h.startPacket q p len) ∧
        f 4 1 ≤ tget 0 s.releasesQ (p.queue + 1024 * p.index))) ∧
    (∀ b, s.nextPacket q = .fault b → ∃ t, exec (.fetchFault q) s = .next t ∧ (t.queue q).st = (if b then 4 else 2) ∧ (b = false →
      let va (i : Nat) : DWord := (s.queue q).granule ((s.queue q).ridx.toNat + i)
      let reads (i : Nat) : Prop := ∃ x, s.agentRead (s.queue q).ctx.toNat false (va i) 32 = .inl x
      t.host.intst.getLsbD 5 = true ∧ (s.host.pgrq.length < 16 → ∀ i < 8, (∀ j < i, reads j) → ¬ reads i →
        t.host.pgrq = s.host.pgrq ++ [(va i >>> 12 <<< 12, q)]))) ∧
    (∀ i p code, tget none s.packets i = some p → s.releaseStuck p = false → s.packetDone i p = some code →
      let reset := p.typ = 8 ∧ pktField p.body 32 1 = 1
      let r := pktField p.body 34 2
      let s₀ := if reset then s.resetEnd r else s
      ∃ t, exec (.packetCompletion i) s = .next t ∧ (p.succ = [] → tget none t.packets i = none) ∧
        (reset → (s.queue r).st = 3 → (t.queue r).ridx = (s.queue r).widx ∧ (t.queue r).pend = false ∧ (t.queue r).st = 0 ∧
          ∀ n l, t.launch? n = some l → l.queue = r → l.dead = false) ∧
        (p.cmode = 0 → p.stat ≠ 0 → ∀ v, s₀.agentWrite (s.queue p.queue).ctx.toNat false p.stat
          (natBytes 8 (code + 2 ^ 32 * s₀.packetErrs i)) { queue := some p.queue } = some v → t.mem = v.mem) ∧
        (p.cmode = 0 → p.stat = 0 → t.mem = s.mem) ∧ (p.cmode = 2 → 8 ≤ p.ivec → p.ivec < 2048 → Out.msix p.ivec ∈ t.outbox) ∧
        (∀ h, p.succ = [h] → (BitVec.ofNat 32 h.1 - (s₀.queue h.2).ridx).toNat < (s₀.queue h.2).ring → s₀.releasesQ.length < 4096 →
          tget 0 t.releasesQ (h.2 + 1024 * h.1) = tget 0 s₀.releasesQ (h.2 + 1024 * h.1) + 1) ∧
        ∀ x, s₀.allLaunches.find? (fun x => x.2.packet = i) = some x → t.launch? x.1 = none) ∧
    (∀ n l, s.launch? n = some l → l.unstarted = true → l.dead = false → s.contextsFree n l.scans = true →
      ∃ t, exec (.launchContextStart n) s = .next t ∧ t.launch? n = some { l with unstarted := false }) ∧
    (∀ pn p, (s.queue q).wait = some pn → tget none s.packets pn = some p →
      (p.typ = 3 → s.waitMet p = true → ∃ t, exec (.signalReport q) s = .next t ∧ (t.queue q).wait = none ∧
        tget none t.packets pn = some { p with code := some 0 }) ∧
      (s.waitMet p = false → exec (.signalReport q) s = .next (s.waitReach p).draw)) ∧
    (∀ ctx a op b whose r, s.xlate ctx (s.jobCount ctx) a { rd := true, wr := true, user := false } = .inl (.away r) →
      (s.signal ctx a op b whose).away = s.away ++ [⟨ctx, a, r, whose⟩] ∧ (s.signal ctx a op b whose).mem = s.mem) ∧
    (∀ ctx a op b whose pa key x y, s.xlate ctx (s.jobCount ctx) a { rd := true, wr := true, user := false } = .inl (.phys pa key x y) →
      let old : DWord := BitVec.ofNat 64 (bytesNat (s.readPA key pa 8))
      (s.signal ctx a op b whose).mem =
        (s.writePA key pa (natBytes 8 (if op = 0 then b else if op = 1 then old + b else old - b).toNat)).mem)

/-! ### Collectives and links (R354 to R367, R384 to R389, R415) -/

/-- R356 to R364, R367, R386 to R389, R415: a record is read, refused, armed or started; the walker emits the next transfer of the record whose
turn it is; a home combines two siblings into their parent and writes the root; another package reports on what a record has sent it; a record of which all is
acknowledged writes its completion record and leaves; marks hold and free a sender; flits go out and come in under the expected pair, and are
repeated, acknowledged and given up as the channel's rules say.
The model's own choices that it rests on: log entries 53, 54, 55, 56, 57, 58, 67, 68, 69, 70, 86, 100, 109, 113, 122,
123, 128, 130. -/
def Obligations.CollectivesAndLinks : Prop :=
  ∀ (s : State), Table.wf none s.records = true → Table.wf none s.packets = true → Table.wf none s.trust.channels = true →
    Table.wf {} s.ports = true →
    (∀ i r, tget none s.records i = some r → r.loaded = false → s.heldBack r = false → (s.die r.die).fenced = false →
      let refused := ∃ t, exec (.collAccept i) s = .next t ∧ tget none t.records i = none ∧
        ∀ n p, r.packet = some n → tget none s.packets n = some p → tget none t.packets n = some { p with code := some 2 }
      ((∀ bs, s.agentRead r.ctx r.user r.addr 128 ≠ .inl (bs, false)) → refused) ∧
      ∀ bs, s.agentRead r.ctx r.user r.addr 128 = .inl (bs, false) →
        let x := (r.ofBytes bs).1
        let tab := s.rankTable x (BitVec.ofNat 64 (pktField bs 32 8))
        let y : Record := { x with ranks := tab.getD [], g0 := ((tab.getD []).findIdx? (· = s.rankIn r.ctx)).getD 0 }
        let good := (r.ofBytes bs).2 && tab.isSome && s.recordOk y
        (s.reach y.ctx y.user y.cq 1 false true = false → refused) ∧
        (s.reach y.ctx y.user y.cq 1 false true = true → good = false → ∃ t, exec (.collAccept i) s = .next t ∧
          tget none t.records i = some { y with status := 1, started := true, total := 0 }) ∧
        (s.reach y.ctx y.user y.cq 1 false true = true → good = true → (y.arm = true → s.armRoom (y.armh / 256) = true) →
          ∃ t, exec (.collAccept i) s = .next t ∧
            if y.arm = true ∧ (tget {} s.triggers y.armh).val.toNat < y.thr then
              tget none t.records i = some y ∧ t.armed = s.armed ++ [⟨y.armh, i, y.thr⟩]
            else t.armed = s.armed ∧ ∃ z, tget none t.records i = some z ∧ z = { y with
              started := true
              order := z.order
              inSwitch := z.inSwitch })) ∧
    (∀ (r : Record) l n, r.levels = [l] → r.transfer n = (((((n % l.bound : Nat) : Int) * l.coef + r.pbase) % (r.gsize : Int)).toNat,
      r.src + BitVec.ofInt 64 (((n % l.bound : Nat) : Int) * l.sstr), r.dst + BitVec.ofInt 64 (((n % l.bound : Nat) : Int) * l.dstr))) ∧
    (∀ die i r g a d, die ≤ dieA → s.walkerNext die = some (i, r) → (s.die die).fenced = false → r.transfer r.iter = (g, a, d) →
      let rank := r.ranks.getD g 0
      let own : Bool := rank = s.rankIn r.ctx
      let routed := own || (tget {} s.routes rank).v
      let u0 := (s.modRecord i fun r => { r with iter := r.iter + 1, order := s.tokens }).takeToken.draw
      let u1 := if r.op ≠ 1 ∨ own = true then (u0.stray r.ctx a r.tlen true false).agentReach r.ctx a r.tlen else u0
      let u := if r.op = 1 ∨ own = true then
        u1.stray r.ctx d (if r.op = 2 then r.tlen / collSize r.ifmt * collSize r.ofmt else r.tlen) false true else u1
      let r' : Record := { r with iter := r.iter + 1, order := s.tokens }
      (own = true ∨ s.routeStopped rank = false) → (r.op ≠ 1 ∨ own = true → s.busHeld r.ctx a r.tlen die false = false) → ∃ t, exec (.collTransfer die) s = .next t ∧
        (r.op = 2 → t = u.reduceTo i r rank a d routed) ∧
        (r.op < 2 → routed = false → t.mem = s.mem ∧ tget none t.records i = some (r'.fail 2)) ∧
        (r.op < 2 → own = true →
          (∀ c, u.sourceOf r a = .inr c → t.mem = s.mem ∧ tget none t.records i = some (r'.fail c)) ∧
          ∀ bs, u.sourceOf r a = .inl bs →
            (∀ c, u.badTarget r d r.tlen = some c → t.mem = s.mem ∧ tget none t.records i = some (r'.fail c)) ∧
            ∀ v, u.badTarget r d r.tlen = none → u.agentWrite r.ctx r.user d bs (u.byPacket r.packet r.launch) = some v → t.mem = v.mem ∧
              tget none t.records i = some { r' with count := r.count + r.tlen }) ∧
        (r.op = 0 → own = false → routed = true → t.mem = s.mem ∧
          ∀ bs, u.sourceOf r a = .inl bs → t.outbox = u.outbox ++ [.transfer rank false d bs r.tlen] ∧
            tget none t.records i = some { r' with sent := r.sent ++ [.put] }) ∧
        (r.op = 1 → own = false → routed = true → t.mem = s.mem ∧ t.outbox = u.outbox ++ [.transfer rank true a [] r.tlen] ∧
          tget none t.records i = some { r' with sent := r.sent ++ [.get d] })) ∧
    (∀ m i k r x report, s.sentAway[m]? = some (i, k) → tget none s.records i = some r → r.sent[k]? = some x →
      let r' : Record := { r with sent := r.sent.eraseIdx k }
      let code : Nat := if report = 1 then 2 else 3
      ∃ t, exec (.reductionAck (s.awaited.length + (s.away.length + m) + (s.away.length + s.sentAway.length) * report)) s = .next t ∧
        (x = .put → t.mem = s.mem ∧
          tget none t.records i = some (if report = 0 then { r' with count := r.count + r.tlen } else r'.fail code)) ∧
        (∀ d, x = .get d → report ≠ 0 → t.mem = s.mem ∧ tget none t.records i = some (r'.fail code)) ∧
        (∀ a, x = .root a → t.mem = s.mem ∧ tget none t.records i = some (if report = 0 then r' else r'.fail code)) ∧
        ∀ es, x = .parts es → t.mem = s.mem ∧ (report = 0 → ∃ l, tget none t.records i =
          some { r' with count := r.count + es.length, sent := r'.sent ++ l } ∧ ∀ a ∈ es, Sent.root a ∈ r'.sent ++ l)) ∧
    (∀ i r, tget none s.records i = some r → r.sent ≠ [] ∨ r.roots ≠ [] ∨ r.iter < r.total →
      exec (.collComplete i) s = .fault (.notEnabled "COLL_COMPLETE")) ∧
    (∀ c, nodeOk c = true → c.home = s.rankOfJob c.job → (tget none s.trust.jobs c.job).isSome = true ∨ 8 ≤ c.job →
      ∃ t, exec (.reduceArrival c) s = .next t ∧
        (c.failed = false → (s.held c).any (fun p => nodesMeet p.val c) = true → t = s) ∧
        ∀ l, c.failed = false → c.group = 2 → c.level = 0 → c.index = 1 → l.level = 0 → l.index = 0 → s.held c = [⟨l, false⟩] →
          ∃ u : State, u = { s with partials := u.partials } ∧ (∀ p ∈ u.partials, p ∈ s.partials) ∧
            ∀ v, u.agentWrite (s.windowCtx c.job) true c.addr (natBytes (collSize c.ofmt)
              (rootValue c.ofmt (comb c.afmt c.rop l.value.toNat c.value.toNat % 2 ^ 64))) = some v → t.mem = v.mem) ∧
    (∀ l r : Contribution, s.switchFor { l with level := l.level + 1, index := l.index / 2 } = true → nodeOk l = true → nodeOk r = true →
      sameElement l r = true → l.level = r.level → l.index % 2 = 0 → r.index = l.index + 1 → l.failed = false → r.failed = false →
      l.group = r.group → l.afmt = r.afmt → l.rop = r.rop →
      let c : Contribution := { l with
        level := l.level + 1
        index := l.index / 2
        value := BitVec.ofNat 64 (comb l.afmt l.rop l.value.toNat r.value.toNat) }
      exec (.switchReduce l r) s = .next (if l.home = s.rankOfJob l.job then (s.arrive c).1 else s.send (.contribution c none))) ∧
    (∀ l r, comb 3 0 l r = (l + r) % 2 ^ 32 ∧ comb 4 0 l r = (l + r) % 2 ^ 64 ∧
      comb 0 0 l r = (FFmt.fp32.add .rne (FFmt.fp32.decode l) (FFmt.fp32.decode r)).val) ∧
    (∀ i r, tget none s.records i = some r → r.started = true → r.total ≤ r.iter → r.roots = [] → r.sent = [] → s.heldBack r = false →
      (s.cqHeader r = none → ∃ t, exec (.collComplete i) s = .next t ∧ tget none t.records i = none ∧
        ∀ n p, r.packet = some n → tget none s.packets n = some p → tget none t.packets n = some { p with code := some 2 }) ∧
      ∀ h, s.cqHeader r = some h →
        let widx := pktField h 0 4
        (BitVec.ofNat 32 widx - BitVec.ofNat 32 (pktField h 4 4)).toNat ≠ 2 ^ r.cqlsz →
        ∃ t, exec (.collComplete i) s = .next t ∧ tget none t.records i = none ∧
          ∀ v, s.writeSlot r (r.cq + 32 + BitVec.ofNat 64 (32 * (widx % 2 ^ r.cqlsz))) widx = some v → t.mem = v.mem ∧
            (r.irq = true → 8 ≤ pktField h 8 2 → pktField h 8 2 < 2048 → Out.msix (pktField h 8 2) ∈ t.outbox) ∧
            ∀ n p, r.packet = some n → tget none s.packets n = some p →
              tget none t.packets n = some { p with code := some (if r.status = 0 then 0 else if r.status = 7 then 12 else 2) }) ∧
    (∀ l < linkCount, (∃ t, exec (.linkStop l) s = .next t ∧ t.linkHeld l = true ∧ t = { s with ports := t.ports, links := t.links }) ∧
      ∃ t, exec (.linkResume l) s = .next t ∧ t = { s with ports := t.ports, links := t.links } ∧
        (l < 16 → t.linkHeld l = false) ∧ (16 ≤ l → t.links = s.links.put (l - 16) false)) ∧
    (∀ ch f, (s.job (ch / 65536) = none ∨ s.channel ch = none ∧ f.kind ≠ 5 ∧ f.kf.getLsbD 1 = false →
        exec (.flitReceive ch f) s = .next (s.countDrop (tget {} s.routes (ch % 65536)).port.toNat)) ∧
      (s.channel ch = none → ∀ slot seq, exec (.retryRequest ch slot seq) s = .next s ∧ exec (.channelAck ch slot seq) s = .next s)) ∧
    ∀ ch c j, s.channel ch = some c → s.job (ch / 65536) = some j →
      let now (t : State) (f : Channel → Prop) : Prop := ∃ x, tget none t.trust.channels ch = some x ∧ f x
      let control (t : State) : Prop := ∃ l, t.outbox = s.outbox ++ l ∧ ∀ o ∈ l, ∃ g : Flit, o = .flit ch g ∧ g.kind = 4
      let asks (t : State) : Prop := control t ∧ ∀ u, s.transmit ch 4 (Config.controlBody true c.expSlot (BitVec.ofNat 64 c.expSeq)) = some u →
        ∃ l, t.outbox = u.outbox ++ l
      (∀ kind body k, let c' := c.installTx
        c'.tx c'.cur = some k → c.unacked.length < 4096 → body.length = 224 → 1 ≤ kind.toNat → kind.toNat ≤ 4 →
        (kind = 3 ↔ c'.atMarker = true) → (kind = 1 → (tget {} s.ports (s.portOf c)).stopped = false) →
        (kind = 3 → (c'.tx (!c.cur)).isSome = true ∧ c'.idleOld = false) → (kind = 4 → c.controlDue.map Prod.snd = some body) →
        let f := s.makeFlit c' j.rank k kind body
        ∃ t, exec (.flitSend ch kind body) s = .next t ∧ t.outbox = s.outbox ++ [.flit ch f] ∧ now t fun x =>
          x.unacked = c.unacked ++ [f] ∧ if kind = 3 then x.cur = (!c.cur) ∧ x.seq = 0 else x.cur = c.cur ∧ x.seq = c.seq + 1) ∧
      (∀ f : Flit, f.kind = 5 → exec (.flitReceive ch f) s = .next (s.send (.delivered ch 5 (f.ct ++ f.tag)))) ∧
      (∀ f : Flit, f.kind ≠ 5 → f.kf.getLsbD 1 = true →
        (j.openRed f = none → exec (.flitReceive ch f) s = .next (s.countDrop (tget {} s.routes (ch % 65536)).port.toNat)) ∧
        ∀ src k pt, j.openRed f = some (src, k, pt) → exec (.flitReceive ch f) s = .next (s.takePart ch src k pt) ∧
          ∀ p, Config.partOf pt = some p → nodeOk p = true → p.home = j.rank → p.job = ch / 65536 →
            ∃ u : State, u = { s with trust := u.trust } ∧ s.takePart ch src k pt = (u.arrive p).1) ∧
      (∀ f : Flit, f.kind ≠ 5 → f.kf.getLsbD 1 = false →
        (∀ pt other, c.failed = false → s.openFlit c j.rank f = some (pt, other) → ∃ t, exec (.flitReceive ch f) s = .next t ∧
          (f.kind = 3 → control t) ∧
          (f.kind = 2 → ∃ u, control u ∧ t.outbox = u.outbox ++ [.delivered ch f.kind pt]) ∧
          (f.kind = 1 → ∀ va x a, Config.accessOf pt = some (va, x, a) → ∃ u : State, control u ∧
            u = { s with trust := u.trust, outbox := u.outbox, ports := u.ports } ∧ t = u.serveAccess c.job c.peer va x a) ∧
          (f.kind = 4 → ∀ retry slot seq, Config.controlOf pt = some (retry, slot, seq) → ∃ u : State, u = { s with trust := u.trust } ∧
            t = if retry then u.resend ch slot seq else u.acked ch slot seq) ∧
          now t fun x => x.drops = 0 ∧ x.retryDue = false ∧
            if f.kind = 3 then x.expSlot = (!c.expSlot) ∧ x.expSeq = 0 else x.expSlot = c.expSlot ∧ x.expSeq = c.expSeq + 1) ∧
        (c.failed = true ∨ s.openFlit c j.rank f = none → ∃ t, exec (.flitReceive ch f) s = .next t ∧ t.mem = s.mem ∧
          (if c.drops = 0 ∧ c.failed = false then asks t else t.outbox = s.outbox) ∧
          now t fun x => x.drops = c.drops + 1 ∧ x.expSlot = c.expSlot ∧ x.expSeq = c.expSeq)) ∧
      (∀ slot seq, exec (.retryRequest ch slot seq) s =
        .next { s with outbox := s.outbox ++ (c.unacked.dropWhile fun f => !(f.seq = seq && f.kf.getLsbD 0 = slot)).map (.flit ch) }) ∧
      (c.drops ≠ 0 → c.failed = false → c.retryAt ≤ s.now → ∃ t, exec (.retryRepeat ch) s = .next t ∧ asks t ∧ now t fun x =>
        x.retryAt = s.now + s.micros 10 ∧ x.drops = c.drops ∧ x.expSlot = c.expSlot ∧ x.expSeq = c.expSeq) ∧
      (∀ slot seq, (c.unacked.any (fun f => f.seq = seq && f.kf.getLsbD 0 = slot) = false → exec (.channelAck ch slot seq) s = .next s) ∧
        (c.unacked.any (fun f => f.seq = seq && f.kf.getLsbD 0 = slot) = true → ∃ t, exec (.channelAck ch slot seq) s = .next t ∧
          now t fun x => x.unacked = (c.unacked.dropWhile fun f => !(f.seq = seq && f.kf.getLsbD 0 = slot)).drop 1 ∧ x.seq = c.seq ∧
            ((∀ f ∈ x.unacked, f.kf.getLsbD 0 = c.cur) → c.idleOld = true → x.tx (!c.cur) = none))) ∧
      (∀ z slot, c.drain = some (z, slot) → z ≤ s.now → ∃ t, exec (.keyDrainExpiry ch) s = .next t ∧ now t fun x =>
        x.drain = none ∧ (c.rxNext = none → x.rx slot = none ∧ x.rx (!slot) = c.rx (!slot))) ∧
      (c.failed = false → 16 ≤ c.drops → c.dropAt + s.micros 10000 < s.now → ∃ t, exec (.channelFail ch) s = .next t ∧
        now t (fun x => x = { c with failed := true, retryDue := false }) ∧ t.host.intst.getLsbD 2 = true ∧
        (tget {} t.ports (s.portOf c)).fail = true) ∧
      ∃ t, exec .rkey s = .next t ∧ (tget none s.trust.channels ch = some c → now t fun x => x.force = true)

/-! ### Host registers, reset, errors and power (R21, R271, R272, R285, R286, R338, R339, R350, R378, R383, R397 to R405) -/

/-- R338, R339, R350, R398, R399, R403: a write of WIDX is accepted within the ring and sets PEND, and else sets NERR; QCFG's fields but EN, and
RIDX, are written while EN = 0; a register takes 8 aligned bytes and its own clamp; PGRQ is popped by its read and answered by PGRSP; a request
to memory is performed, ignored where no memory stands or beyond the size of BAR4, or refused; one to a register page or a notify page reaches
it; a frozen stream answers none; an offset beyond the last register of its kind ignores the write.
The model's own choices that it rests on: log entries 71, 75, 76, 89. -/
def Obligations.HostRequests : Prop :=
  ∀ (s : State), Table.wf {} s.queues = true →
    (∀ q w, q < 1024 → ∃ t, exec (.widxWrite q w) s = .next t ∧ t = { s with queues := t.queues } ∧
      (∀ k, k ≠ q → t.queue k = s.queue k) ∧ t.queue q =
        if (w - (s.queue q).ridx).toNat ≤ 2 ^ (s.queue q).lsz.toNat then { s.queue q with widx := w, pend := true }
        else { s.queue q with nerr := true }) ∧
    (∀ q (v : DWord), q < 1024 → ∃ t, exec (.qcfgWrite q v) s = .next t ∧ t = { s with queues := t.queues } ∧
      (∀ k, k ≠ q → t.queue k = s.queue k) ∧ exec (.registerWrite (0x20000 + 32 * q + 8) (natBytes 8 v.toNat)) s = .next t ∧
      (t.queue q).en = v.getLsbD 63 ∧ (t.queue q).ridx = (s.queue q).ridx ∧ (t.queue q).widx = (s.queue q).widx ∧
      if (s.queue q).en = true then t.queue q = { s.queue q with en := v.getLsbD 63 }
      else (t.queue q).priv = v.getLsbD 62 ∧ (t.queue q).ctx = v.extractLsb' 48 8 ∧ (t.queue q).prio = v.extractLsb' 38 2 ∧
        (t.queue q).evec = v.extractLsb' 5 11 ∧ (t.queue q).weight = BitVec.ofNat 8 (max 1 (v.extractLsb' 40 8).toNat) ∧
        (t.queue q).quant = BitVec.ofNat 16 (max 1 (v.extractLsb' 16 16).toNat) ∧
        (t.queue q).lsz = (if 4 ≤ (v.extractLsb' 0 5).toNat ∧ (v.extractLsb' 0 5).toNat ≤ 20 then v.extractLsb' 0 5 else 4) ∧
        (t.queue q).st = if v.getLsbD 63 = true ∧ (s.queue q).st ≠ 3 then 0 else (s.queue q).st) ∧
    (∀ q (v : DWord), q < 1024 → ∃ t, exec (.qstatWrite q v) s = .next t ∧ t = { s with queues := t.queues } ∧
      t.queue q = { s.queue q with
        ridx := if (s.queue q).en then (s.queue q).ridx else v.extractLsb' 32 32
        seen := if (s.queue q).en then (s.queue q).seen else none
        nerr := (s.queue q).nerr && !v.getLsbD 9 }) ∧
    (∀ q w (v : DWord), 1024 ≤ q → exec (.widxWrite q w) s = .next s ∧ exec (.qcfgWrite q v) s = .next s ∧
      exec (.qstatWrite q v) s = .next s) ∧
    (∀ off bs, 0x4000000 ≤ off → exec (.registerWrite off bs) s = .next s) ∧
    (∀ off bs, off < 0x4000000 → exec (.registerWrite off bs) s = .next (s.deviceWrite off bs)) ∧
    (∀ off bs, off < 0x100000 → bs.length ≠ 8 → s.deviceWrite off bs = s) ∧
    (∀ (v : DWord), s.deviceWrite 0x18 (natBytes 8 v.toNat) = { s with host := { s.host with intst := s.host.intst &&& ~~~v.setWidth 6 } } ∧
      s.deviceWrite 0x20 (natBytes 8 v.toNat) =
        { s with host := { s.host with cap := BitVec.ofNat 12 (min 2600 (max 600 (v.extractLsb' 0 12).toNat)) } } ∧
      s.deviceWrite 0x28 (natBytes 8 v.toNat) = s) ∧
    (∃ t, exec .pgrqPop s = .next t ∧ t.outbox = s.outbox ++ [.reply (natBytes 8 s.host.pageHead)] ∧
      t.host = { s.host with
        pgrq := s.host.pgrq.drop 1 ++ s.host.pgWait.take 1
        pgWait := s.host.pgWait.drop 1 }) ∧
    (∀ (v : DWord), let q := (v.extractLsb' 0 10).toNat
      ∃ t, exec (.pgrsp v) s = .next t ∧ t = { s with queues := t.queues } ∧
        t.queue q = if (s.queue q).st = 2 then { s.queue q with st := if v.getLsbD 16 then 0 else 4 } else s.queue q) ∧
    (∀ (r : HostReq), s.streamFrozen r = true → exec (.hostRequest r) s = .next (s.send .unsupported)) ∧
    (∀ (r : HostReq), r.bar = .regs → s.streamFrozen r = false → r.off < 0x4000000 → (r.write = true → exec (.hostRequest r) s = .next (s.deviceWrite r.off r.bytes)) ∧
      (r.write = false → ∃ t, exec (.hostRequest r) s = .next t ∧ t.outbox = s.outbox ++ [.reply (natBytes r.len (s.deviceRead r.off r.len))] ∧
        (¬(r.off = 0x58 ∧ r.len = 8) → t.host = s.host) ∧ (r.off = 0x58 ∧ r.len = 8 → t.host.pgrq = s.host.pgrq.drop 1 ++ s.host.pgWait.take 1))) ∧
    (∀ (r : HostReq), r.bar = .regs → s.streamFrozen r = false → 0x4000000 ≤ r.off →
      exec (.hostRequest r) s = .next (if r.write then s else s.send (.reply (List.replicate r.len 0xFF)))) ∧
    (∀ off n i, i < n → (s.notifyRead off n).length = n ∧ (s.notifyRead off n).getD i 0 = if 0x400000 ≤ off + i then 0xFF
      else if (off + i) % 4096 < 4 then BitVec.ofNat 8 ((s.queue ((off + i) / 4096)).widx.toNat / 2 ^ (8 * ((off + i) % 4096))) else 0) ∧
    (∀ (r : HostReq), r.bar = .notify → s.streamFrozen r = false → ∃ t, exec (.hostRequest r) s = .next t ∧ t = { s with queues := t.queues, outbox := t.outbox } ∧
      (r.write = false → t.queues = s.queues ∧ t.outbox = s.outbox ++ [.reply (s.notifyRead r.off r.len)]) ∧
      (r.write = true → r.off < 0x400000 → r.off % 4096 = 0 → r.bytes.length = 4 →
        exec (.hostRequest r) s = exec (.widxWrite (r.off / 4096) (BitVec.ofNat 32 (bytesNat r.bytes))) s) ∧
      (r.write = true → ¬(r.off < 0x400000 ∧ r.off % 4096 = 0 ∧ r.bytes.length = 4) → t = s)) ∧
    ∀ (r : HostReq), r.bar = .window → let n := if r.write then r.bytes.length else r.len
      let pa := s.host.w4base.toNat * 2 ^ 30 + r.off
      let barred := (unitsOf 128 pa n).any fun l => match s.lineJob l with | some j => !s.mayReach r j | none => false
      (s.streamFrozen r = false → r.off + n ≤ barSize → s.hostBacked pa n = false →
        exec (.hostRequest r) s = .next (if r.write then s else s.send (.reply (List.replicate n 0xFF)))) ∧
      (s.streamFrozen r = false → barSize < r.off + n →
        exec (.hostRequest r) s = .next (if r.write then s else s.send (.reply (List.replicate n 0xFF)))) ∧
      (s.streamFrozen r = false → r.off + n ≤ barSize → s.hostBacked pa n = true → barred = true → ∃ t, exec (.hostRequest r) s = .next t ∧
        t.outbox = s.outbox ++ [.unsupported] ∧ t.mem = s.mem ∧ (Table.wf {} s.trust.streams = true →
          ∀ k, r.stream = some k → (tget {} t.trust.streams k).frozen = true)) ∧
      (s.streamFrozen r = false → r.off + n ≤ barSize → s.hostBacked pa n = true → barred = false → ∃ t, exec (.hostRequest r) s = .next t ∧
        (r.write = false → t = s.send (.reply ((List.range n).map fun i => s.readByte (s.hostKey ((pa + i) / 128)) (pa + i)))) ∧
        (r.write = true → 0 < n → pa % 128 + n ≤ 128 → t.mem = (s.writePA (s.hostKey (pa / 128)) pa r.bytes).mem))

/-- R21, R271, R272, R275, R285, R286, R371, R378, R399 to R402, R404, R405: QEN zeroes CYC; a cold reset loses every register, key, line and
binding, and a blown security version applies; training zeroes memory; firmware cores are released at address 0; an error poisons its place,
counts and raises RAS; the power controller steps the clock down above a limit and up after 10 ms below CAP - 50 W, and 115 °C stops the clocks.
The model's own choices that it rests on: log entries 5, 6, 71, 73, 74, 78, 87, 95. -/
def Obligations.ResetErrorsAndPower : Prop :=
  ∀ (s : State), Table.wf {} s.queues = true → Table.wf {} s.parked = true → Table.wf {} s.trust.streams = true →
    (s.host.trdone = true → s.host.qen = false → ∃ t, exec (.qen true) s = .next t ∧ t.host = { s.host with qen := true } ∧ t.cyc = 0) ∧
    (s.host.trdone = false → exec (.qen true) s = .next s) ∧
    (s.host.qen = true → ∃ t, exec (.qen false) s = .next t ∧ t.host = { s.host with qen := false } ∧ ∀ q, (t.queue q).en = false) ∧
    (∃ t, exec .coldReset s = .next t ∧ t.mem = [] ∧ t.tags = [] ∧ t.queues = [] ∧ t.launches = [] ∧ t.core = State.reset.core ∧
      t.parked = [] ∧ t.host = State.reset.host ∧ t.cyc = 0 ∧
      t.trust = { State.reset.trust with svn := s.trust.nextSvn.getD s.trust.svn }) ∧
    (∃ t, exec .fwrst s = .next t ∧ t.mem = s.mem ∧ ∀ k < 4, if s.trust.bootCode = 1 then
      (t.coreAt (256 + k)).live = true ∧ (t.coreAt (256 + k)).frozen = false ∧ (t.coreAt (256 + k)).thr.pc = 0
      else t.coreAt (256 + k) = {}) ∧
    (∃ t, exec .train s = .next t ∧ t = if s.trust.bootCode = 1 ∧ s.host.trdone = false ∧ s.host.training = false then
      { s with host := { s.host with training := true } } else s) ∧
    (∀ failed : List Nat, s.host.training = true → (∀ x ∈ failed, x < 16) → ∃ t, exec (.trainingDone failed) s = .next t ∧
      t.host.trdone = true ∧ t.host.training = false ∧ t.host.trerr = (s.host.trerr || decide (failed ≠ [])) ∧
      (∀ x ∈ failed, (t.die (x / 2)).fenced = true) ∧ (failed = [] → t.mem = [] ∧ t.tags = [] ∧ t.poison = [])) ∧
    (∃ t, exec .fuseBlow s = .next t ∧ t = if (s.trust.nextSvn.getD s.trust.svn).toNat < s.trust.nsvn.toNat ∧ s.trust.nsvn.toNat ≤ s.trust.bootVer.toNat then
      { s with trust := { s.trust with nextSvn := some s.trust.nsvn } } else s) ∧
    (∀ i, ∃ t, exec (.fzrel i) s = .next t ∧ ∀ e, s.trust.freezes[i]? = some e → e.kind = 4 →
      (tget {} t.trust.streams e.number).frozen = false) ∧
    (∀ die v, 8 ≤ die → exec (.rascClr die) s = .next s ∧ exec (.l2cvWrite die v) s = .next s) ∧
    (∀ die < 8, ∃ t, exec (.rascClr die) s = .next t ∧ t.die die = { s.die die with ce := 0, ue := 0 } ∧ t = { s with dies := t.dies }) ∧
    (∀ die v, die < 8 → ∃ t, exec (.l2cvWrite die v) s = .next t ∧
      let r := (v.extractLsb' 0 12).toNat
      let p := (v.extractLsb' 12 12).toNat
      let f := (v.extractLsb' 24 12).toNat
      let o := (v.extractLsb' 36 12).toNat
      if s.host.qen = false ∧ s.host.trdone = true ∧ r % 16 = 0 ∧ p % 16 = 0 ∧ f % 16 = 0 ∧ o % 16 = 0 ∧ r + p + f + o + 128 ≤ (s.die die).l2m then
        t.die die = { s.die die with race := r, psb := p, spill := f, pool := o }
      else t = s) ∧
    (∀ (v : DWord), ∃ t, exec (.msplitWrite v) s = .next t ∧ t =
      if s.host.trdone = false ∧ s.host.training = false ∧ (v.extractLsb' 0 7).toNat ≤ 96 then
        { s with host := { s.host with wg := v.extractLsb' 0 7 } } else s) ∧
    (∀ die w, die < 8 → s.placeOn die w = true → ∃ t, exec (.uncorrectableError die w) s = .next t ∧ t.host.intst.getLsbD 1 = true ∧
      (∀ pa, w = .line pa → t.poison.has (pa / 128) = true ∧ (t.die die).ue = min ((s.die die).ue + 1) 0xFFFF ∧
        (t.die die).rasa = BitVec.ofNat 52 pa ∧ t.mem = s.mem) ∧
      (∀ k, w = .scratch s.cur k → k < s.core.claim / 8 → t.core = { s.core with spoison := t.core.spoison } ∧ t.core.spoison.has k = true)) ∧
    (∀ die < 8, exec (.scrubPatrol die .clean) s = .next s ∧
      (∃ t, exec (.scrubPatrol die .corrected) s = .next t ∧ (t.die die).ce = min ((s.die die).ce + 1) 0xFFFFFFFF ∧ t.mem = s.mem) ∧
      ∀ pa, s.placeOn die (.line pa) = true → exec (.scrubPatrol die (.uncorrectable pa)) s =
        exec (.uncorrectableError die (.line pa)) s) ∧
    (∀ watts (temps : List Int), temps.length = 8 → (∀ x ∈ temps, -32768 ≤ x ∧ x < 32768) → ∃ t, exec (.powerTick watts temps) s = .next t ∧
      t.host.pwr = BitVec.ofNat 16 watts ∧ (∀ d < 8, (t.die d).temp = BitVec.ofInt 16 (temps.getD d 0)) ∧
      ((s.host.cap.toNat < watts ∨ ∃ x ∈ temps, 840 ≤ x) → t.host.clk = BitVec.ofNat 16 (max 300 (s.host.clk.toNat - 25))) ∧
      ((∀ x ∈ temps, x < 840) → s.host.tlim = false → watts + 50 < s.host.cap.toNat → 9 ≤ s.host.below → s.host.clk.toNat < 600 →
        t.host.clk = BitVec.ofNat 16 (s.host.clk.toNat + 25)) ∧
      ((∃ x ∈ temps, 840 ≤ x) → t.host.tlim = true) ∧ (s.host.cap.toNat < watts → t.host.plim = true) ∧
      ((∃ x ∈ temps, 920 ≤ x) → t.host.stopped = true)) ∧
    ∀ die temp, die < 8 → 920 ≤ temp → ∃ t, exec (.thermalTrip die temp) s = .next t ∧ t.host.stopped = true ∧
      (t.die die).temp = BitVec.ofInt 16 temp ∧ ((s.die die).temp.toInt < 840 → t.host.intst.getLsbD 3 = true) ∧ (t.inputs = [] → step t = .fault .clocksStopped)

/-! ### Boot, attestation and trust (R371 to R383, R391 to R396) -/

/-- R371 to R373, R379 to R383, R391 to R396: GO checks the image and releases the firmware of one it accepts; the enclave controller takes
one request at a time, answers it, and extends only MEAS4 to MEAS7 for the host; a policy that it accepts binds a job with fresh keys; an END
or a revocation of this package unbinds it; a revocation is applied once the object and its keys are held, cuts the route to its rank, fails
the records that use it and gives every other channel the new epoch's key; switches are keyed only by attestation, and withdrawn; a TDI changes
its state only by a request that its state admits.
The model's own choices that it rests on: log entries 7, 60, 61, 62, 63, 64, 65, 67, 70, 135. -/
def Obligations.BootAndTrust : Prop :=
  ∀ (s : State), Table.wf none s.trust.jobs = true → Table.wf {} s.trust.keys = true → Table.wf {} s.contexts = true →
    Table.wf {} s.routes = true → Table.wf {} s.trust.streams = true → Table.wf .configUnlocked s.trust.tdis = true →
    Table.wf {} s.parked = true → s.trust.meas.length = 16 → (∀ k j, s.job k = some j → k < 8) →
    let meas (t : State) (i : Nat) : BitVec 512 := t.trust.meas.getD i 0
    let grown (t : State) (i : Nat) (d : List Byte) : Prop := meas t i = Config.shake512 (bvBytes (meas s i) ++ d)
    let told (t : State) (o : Out) : Prop := t.outbox = s.outbox ++ [o] ∧ t.trust.mbDone = true ∧ t.trust.mbBusy = false ∧ t.mem = s.mem
    let answered (t : State) (bs : List Byte) : Prop := told t (.spdm bs) ∧ t.trust.slen = BitVec.ofNat 16 bs.length ∧
      t.trust.mbResp = s.trust.mbResp.write 0 (bs.take 65536)
    let refused (t : State) (code : Byte) : Prop := told t (.spdmError code) ∧ t.trust.slen = 4 ∧
      t.trust.mbResp = s.trust.mbResp.write 0 [0x13, 0x7F, code, 0]
    (s.image 0 4 ≠ 0x00384A41 → s.bootCheck = 2) ∧
    exec (.registerWrite 0 (natBytes 8 1)) s =
      .next (if s.trust.bootCode = 1 then s else { s with trust := { s.trust with bootBusy := true } }) ∧
    (∃ t, exec .bootGo s = .next t ∧ if s.trust.bootCode = 1 then t = s else
      t.trust.bootCode = s.bootCheck ∧ t.trust.bootBusy = false ∧ (∀ i, 4 ≤ i → meas t i = meas s i) ∧
      if s.bootCheck = 1 then
        grown t 1 (bvBytes (Config.shake512 (s.trust.staging.read 0 (s.image 8 4 - 1280)))) ∧
        t.trust.windows = (List.range 16).map (fun k => windowOf (s.winWords k).1 (s.winWords k).2) ∧
        ∀ k < 4, (t.coreAt (256 + k)).live = true ∧ (t.coreAt (256 + k)).thr.pc = 0
      else t.core = s.core ∧ t.parked = s.parked ∧ ∀ i, 1 ≤ i → meas t i = meas s i) ∧
    (∀ n < 2 ^ 16, ∃ t, exec (.registerWrite 0x48 (natBytes 8 (2 ^ 48 + n * 2 ^ 32))) s = .next t ∧ t.trust.rlen = BitVec.ofNat 16 n ∧
      (s.trust.mbBusy = true → t.outbox = s.outbox ∧ t.trust.mbBusy = true) ∧
      (s.trust.mbBusy = false → if (Config.requestOf (s.trust.mbReq.read 0 n)).isNone then refused t 0x01
        else t.trust.mbBusy = true ∧ t.outbox = s.outbox ∧ ∀ i, t.takesRequest i = true ↔ Config.requestOf (s.trust.mbReq.read 0 n) = some i)) ∧
    (s.takesRequest .cert = false → exec .spdmCert s = .fault (.notEnabled "SPDM_CERT")) ∧
    (∀ nonce, s.takesRequest (.challenge nonce) = false → exec (.spdmChallenge nonce) s = .fault (.notEnabled "SPDM_CHALLENGE")) ∧
    (∀ f k, s.takesRequest (.algorithms f k) = true → ∃ t, exec (.negotiateAlgorithms f k) s = .next t ∧
      if f || k then answered t (spdmAlgorithms f k) else refused t 0x07) ∧
    (s.takesRequest .cert = true → ∃ t, exec .spdmCert s = .next t ∧ answered t Config.deviceCert) ∧
    (∀ nonce, s.takesRequest (.challenge nonce) = true → ∃ t, exec (.spdmChallenge nonce) s = .next t ∧
      let body := bvBytes (Config.sha384 Config.deviceCert) ++ nonce
      answered t (body ++ Config.falconSign body)) ∧
    (∀ nonce, s.takesRequest (.measurements nonce) = true → ∃ t, exec (.spdmMeasurements nonce) s = .next t ∧
      let body := s.trust.meas.flatMap bvBytes
      answered t (body ++ Config.falconSign (body ++ nonce))) ∧
    (∀ m, s.takesRequest (.keyExchange m) = true → ∃ t, exec (.spdmKeyExchange m) s = .next t ∧
      if m.mutualAuth = true ∧ Config.falconVerify m.key m.transcript m.sig = false then refused t 0x01 ∧ t.trust.session = s.trust.session
      else t.trust.session = some ⟨m.mutualAuth, m.key⟩ ∧ t.trust.mbDone = true) ∧
    (∀ i v, s.takesRequest (.extend i v) = true → ∃ t, exec (.hostMeasExtend i v) s = .next t ∧ (∀ k, k ≠ i → meas t k = meas s k) ∧
      if 4 ≤ i ∧ i ≤ 7 ∧ v.length = 64 then grown t i v ∧ answered t [] else refused t 0x01 ∧ t.trust.meas = s.trust.meas) ∧
    (∀ m, s.takesRequest (.policy m) = true → ∃ t, exec (.jobPolicy m) s = .next t ∧
      (∀ v, s.trust.session = some ⟨true, v⟩ → s.policyOk m v = true → ∃ slot j, slot < 8 ∧ s.job slot = none ∧ t.job slot = some j ∧
        j.jobid = m.policy.jobid ∧ j.rank = m.policy.rank ∧ j.count = m.policy.count ∧ j.verifier = v ∧ j.epoch = 0 ∧ j.tdi = slot ∧
        j.switches = [] ∧ j.keys.length = m.policy.nkey ∧ (∀ k ∈ j.keys, 1 ≤ k ∧ k ≤ 63 ∧ (tget {} s.trust.keys k).installed = false ∧
          (tget {} t.trust.keys k).installed = true) ∧
        (∀ c < 256, m.policy.ctxs.getLsbD c = true → (t.context c).job = true ∧ (t.context c).keymask.getLsbD 0 = true) ∧
        grown t (8 + slot) (bvBytes (Config.sha384 (m.policy.raw ++ m.sig)))) ∧
      ((∀ v, s.trust.session = some ⟨true, v⟩ → s.policyOk m v = false) → refused t 0x01 ∧ t.trust.jobs = s.trust.jobs)) ∧
    (∀ m, s.takesRequest (.endJob m) = true → (s.jobSlot m.jobid = none → exec (.endObject m) s = .next (s.answer [])) ∧
      ∀ slot j, s.jobSlot m.jobid = some (slot, j) →
      (Config.falconVerify j.verifier m.raw m.sig = false → exec (.endObject m) s = .next (s.answer [])) ∧
      (Config.falconVerify j.verifier m.raw m.sig = true → ∃ t, exec (.endObject m) s = .next t ∧ t.job slot = none ∧
        grown t (8 + slot) (m.raw ++ m.sig) ∧ (∀ ch, ch / 65536 = slot → tget none t.trust.channels ch = none) ∧
        (∀ k ∈ j.keys, (tget {} t.trust.keys k).installed = false ∧ (tget {} t.trust.keys k).key = 0) ∧
        ∀ c ∈ j.ctxs, (t.context c).job = false ∧ (t.context c).keymask = 0)) ∧
    (∀ r, ∃ t, exec (.tdispRequest r) s = .next t ∧ ∀ k,
      let was := tget .configUnlocked s.trust.tdis k
      let now := tget .configUnlocked t.trust.tdis k
      now = was ∨ (r = .lockInterface k ∧ was = .configUnlocked ∧ now = .configLocked) ∨
        (r = .startInterface k ∧ was = .configLocked ∧ now = .run) ∨ (r = .stopInterface k ∧ now = .configUnlocked)) ∧
    (∀ slot j, s.job slot = some j → ∀ rank e keys,
      let applied (t : State) : Prop := (tget {} t.routes rank).v = false ∧ t.job slot = some { j with
          epoch := e
          red := ⟨0, 0, s.linkLimits.1, s.linkLimits.2⟩
          ekeys := j.ekeys ++ [(e, keys)]
          gone := rank :: j.gone
          revoke := none
          newKeys := none
          switches := [] } ∧
        tget none t.trust.channels (channelNo slot rank) = none ∧
        (∀ ch c, ch / 65536 = slot → ch ≠ channelNo slot rank → tget none s.trust.channels ch = some c →
          tget none t.trust.channels ch = some (c.newEpoch e s.linkLimits)) ∧
        ∀ i r, tget none s.records i = some r → r.loaded = true → r.ctx ∈ j.ctxs → rank ∈ r.ranks →
          ∃ x, tget none t.records i = some x ∧ x.status = (r.fail 7).status ∧ x.iter = r.total ∧ x.roots = []
      (∀ m, m.rank = rank → m.epoch = e → s.takesRequest (.revoke m) = true → s.jobSlot m.jobid = some (slot, j) →
        let ok := Config.falconVerify j.verifier m.raw m.sig && e = j.epoch + 1
        (ok = false → exec (.revokeObject m) s = .next (s.answer [])) ∧
        (ok = true → ∃ t, exec (.revokeObject m) s = .next t ∧ grown t (8 + slot) (m.raw ++ m.sig) ∧
          (rank = j.rank → t.job slot = none ∧ ∀ k ∈ j.keys, (tget {} t.trust.keys k).installed = false) ∧
          (rank ≠ j.rank → j.newKeys = none → t.job slot = some { j with revoke := some (rank, e) } ∧ t.routes = s.routes) ∧
          (rank ≠ j.rank → j.newKeys = some keys → applied t))) ∧
      (s.takesRequest (.epochKeys slot keys) = true →
        (s.heldBy j = false → ∃ t, exec (.revokeApply slot keys) s = .next t ∧ refused t 0x01 ∧ t.trust.jobs = s.trust.jobs) ∧
        (s.heldBy j = true → j.revoke = some (rank, e) → ∃ t, exec (.revokeApply slot keys) s = .next t ∧ applied t) ∧
        (s.heldBy j = true → j.revoke = none → ∃ t, exec (.revokeApply slot keys) s = .next t ∧ answered t [] ∧
          t.job slot = some { j with newKeys := some keys }))) ∧
    ∀ slot j, s.job slot = some j →
      (∀ m : SwitchReport, j.onPath m.sw = true → (attests j m = false → exec (.switchAttest slot m) s = .next s) ∧
        (attests j m = true → ∃ t x, exec (.switchAttest slot m) s = .next t ∧
          t.outbox = s.outbox ++ (switchFlits j.rank m.sw (Config.switchKey j.kr (j.sourceId m.sw) s.freeCtr)).map (.spdmToSwitch m.sw) ∧
          t.job slot = some x ∧ x = { j with switches := x.switches } ∧ ⟨m.sw, m.meas, s.now⟩ ∈ x.switches ∧
          ∀ r p, (r, p) ∈ j.paths → p ≠ [] → (∀ k ∈ p, x.switches.any (fun y => y.sw = k) = true) → (tget {} t.routes r).att = true)) ∧
      (∀ sw y, (j.switches.find? fun x => x.sw = sw) = some y →
        let withdrawn (t : State) : Prop := t.job slot = some { j with switches := j.switches.filter fun x => x.sw ≠ sw } ∧
          (∀ r p, (r, p) ∈ j.paths → sw ∈ p → (tget {} t.routes r).att = false) ∧
          ∀ i r, tget none s.records i = some r → r.loaded = true → r.ctx ∈ j.ctxs → sw ∈ r.inSwitch →
            ∃ x, tget none t.records i = some x ∧ x.status = (r.fail 6).status
        (∃ t, exec (.lostHeartbeat slot sw) s = .next t ∧ withdrawn t) ∧
        ∀ m : SwitchReport, m.sw = sw →
          (s.now < y.at_ + s.micros (j.rechk * 1000000) → exec (.switchRecheck slot m) s = .fault (.notEnabled "SWITCH_RECHECK")) ∧
          (y.at_ + s.micros (j.rechk * 1000000) ≤ s.now → ∃ t, exec (.switchRecheck slot m) s = .next t ∧
            if attests j m = true ∧ Config.sha384 m.meas = Config.sha384 y.meas then t.job slot = some (j.keyed m s.now) ∧ t.routes = s.routes
            else withdrawn t))

/-- R383, R396: a stream is set up for a TDI; a TDI goes from CONFIG_UNLOCKED to CONFIG_LOCKED to RUN and back when stopped, and no other
way: every other request is answered with an error, and every other TDI and stream is as before. That the states and their order are those of
the TDISP standard is the model's: log entry 135. -/
def Obligations.DeviceInterfaceStates : Prop :=
  ∀ (s : State) (t : Nat), Table.wf .configUnlocked s.trust.tdis = true → Table.wf {} s.trust.streams = true →
    let st (u : State) (k : Nat) : TdiState := tget .configUnlocked u.trust.tdis k
    let moved (u : State) (x : TdiState) : Prop := st u t = x ∧ (∀ k, k ≠ t → st u k = st s k) ∧
      u = { s with trust := { s.trust with tdis := u.trust.tdis } }
    (∃ u, exec (.tdispRequest (.lockInterface t)) s = .next u ∧
      if t < 8 ∧ st s t = .configUnlocked then moved u .configLocked else u = s.send (.spdmError 0x01)) ∧
    (∃ u, exec (.tdispRequest (.startInterface t)) s = .next u ∧
      if t < 8 ∧ st s t = .configLocked then moved u .run else u = s.send (.spdmError 0x01)) ∧
    (∃ u, exec (.tdispRequest (.stopInterface t)) s = .next u ∧
      if t < 8 then moved u .configUnlocked else u = s.send (.spdmError 0x01)) ∧
    ∀ k, ∃ u, exec (.tdispRequest (.setupStream t k)) s = .next u ∧
      if t < 8 ∧ k < 8 then tget {} u.trust.streams k = { tget ({} : IdeStream) s.trust.streams k with tdi := some t } ∧
        (∀ i, i ≠ k → tget ({} : IdeStream) u.trust.streams i = tget {} s.trust.streams i) ∧
        u = { s with trust := { s.trust with streams := u.trust.streams } }
      else u = s.send (.spdmError 0x01)
end

