-- ==== Sys2Proof/Laws/State.lean ====
section
/-! SUPPORT. What each plain update of the state does to each field: one lemma for each, true by definition. -/

namespace Sys2Proof.Machine

/-! ### State.setCore -/

@[simp] theorem State.setCore_cur (s : State) (c : Core) : (s.setCore c).cur = s.cur := rfl
@[simp] theorem State.setCore_core (s : State) (c : Core) : (s.setCore c).core = c := rfl
@[simp] theorem State.setCore_parked (s : State) (c : Core) : (s.setCore c).parked = s.parked := rfl
@[simp] theorem State.setCore_now (s : State) (c : Core) : (s.setCore c).now = s.now := rfl
@[simp] theorem State.setCore_cyc0 (s : State) (c : Core) : (s.setCore c).cyc0 = s.cyc0 := rfl
@[simp] theorem State.setCore_inputs (s : State) (c : Core) : (s.setCore c).inputs = s.inputs := rfl
@[simp] theorem State.setCore_freeCtr (s : State) (c : Core) : (s.setCore c).freeCtr = s.freeCtr := rfl
@[simp] theorem State.setCore_outbox (s : State) (c : Core) : (s.setCore c).outbox = s.outbox := rfl
@[simp] theorem State.setCore_mem (s : State) (c : Core) : (s.setCore c).mem = s.mem := rfl
@[simp] theorem State.setCore_tags (s : State) (c : Core) : (s.setCore c).tags = s.tags := rfl
@[simp] theorem State.setCore_poison (s : State) (c : Core) : (s.setCore c).poison = s.poison := rfl
@[simp] theorem State.setCore_releases (s : State) (c : Core) : (s.setCore c).releases = s.releases := rfl
@[simp] theorem State.setCore_seqWords (s : State) (c : Core) : (s.setCore c).seqWords = s.seqWords := rfl
@[simp] theorem State.setCore_races (s : State) (c : Core) : (s.setCore c).races = s.races := rfl
@[simp] theorem State.setCore_psb (s : State) (c : Core) : (s.setCore c).psb = s.psb := rfl
@[simp] theorem State.setCore_copies (s : State) (c : Core) : (s.setCore c).copies = s.copies := rfl
@[simp] theorem State.setCore_dies (s : State) (c : Core) : (s.setCore c).dies = s.dies := rfl
@[simp] theorem State.setCore_triggers (s : State) (c : Core) : (s.setCore c).triggers = s.triggers := rfl
@[simp] theorem State.setCore_armed (s : State) (c : Core) : (s.setCore c).armed = s.armed := rfl
@[simp] theorem State.setCore_launches (s : State) (c : Core) : (s.setCore c).launches = s.launches := rfl
@[simp] theorem State.setCore_queues (s : State) (c : Core) : (s.setCore c).queues = s.queues := rfl
@[simp] theorem State.setCore_packets (s : State) (c : Core) : (s.setCore c).packets = s.packets := rfl
@[simp] theorem State.setCore_releasesQ (s : State) (c : Core) : (s.setCore c).releasesQ = s.releasesQ := rfl
@[simp] theorem State.setCore_records (s : State) (c : Core) : (s.setCore c).records = s.records := rfl
@[simp] theorem State.setCore_partials (s : State) (c : Core) : (s.setCore c).partials = s.partials := rfl
@[simp] theorem State.setCore_away (s : State) (c : Core) : (s.setCore c).away = s.away := rfl
@[simp] theorem State.setCore_tokens (s : State) (c : Core) : (s.setCore c).tokens = s.tokens := rfl
@[simp] theorem State.setCore_contexts (s : State) (c : Core) : (s.setCore c).contexts = s.contexts := rfl
@[simp] theorem State.setCore_pools (s : State) (c : Core) : (s.setCore c).pools = s.pools := rfl
@[simp] theorem State.setCore_preds (s : State) (c : Core) : (s.setCore c).preds = s.preds := rfl
@[simp] theorem State.setCore_routes (s : State) (c : Core) : (s.setCore c).routes = s.routes := rfl
@[simp] theorem State.setCore_ports (s : State) (c : Core) : (s.setCore c).ports = s.ports := rfl
@[simp] theorem State.setCore_links (s : State) (c : Core) : (s.setCore c).links = s.links := rfl
@[simp] theorem State.setCore_trust (s : State) (c : Core) : (s.setCore c).trust = s.trust := rfl
@[simp] theorem State.setCore_host (s : State) (c : Core) : (s.setCore c).host = s.host := rfl
@[simp] theorem State.setCore_fwImem (s : State) (c : Core) : (s.setCore c).fwImem = s.fwImem := rfl
@[simp] theorem State.setCore_fwSecs (s : State) (c : Core) : (s.setCore c).fwSecs = s.fwSecs := rfl

/-! ### State.modThr -/

@[simp] theorem State.modThr_cur (s : State) (f : Thread → Thread) : (s.modThr f).cur = s.cur := rfl
@[simp] theorem State.modThr_core (s : State) (f : Thread → Thread) : (s.modThr f).core = { s.core with thr := f s.core.thr } := rfl
@[simp] theorem State.modThr_parked (s : State) (f : Thread → Thread) : (s.modThr f).parked = s.parked := rfl
@[simp] theorem State.modThr_now (s : State) (f : Thread → Thread) : (s.modThr f).now = s.now := rfl
@[simp] theorem State.modThr_cyc0 (s : State) (f : Thread → Thread) : (s.modThr f).cyc0 = s.cyc0 := rfl
@[simp] theorem State.modThr_inputs (s : State) (f : Thread → Thread) : (s.modThr f).inputs = s.inputs := rfl
@[simp] theorem State.modThr_freeCtr (s : State) (f : Thread → Thread) : (s.modThr f).freeCtr = s.freeCtr := rfl
@[simp] theorem State.modThr_outbox (s : State) (f : Thread → Thread) : (s.modThr f).outbox = s.outbox := rfl
@[simp] theorem State.modThr_mem (s : State) (f : Thread → Thread) : (s.modThr f).mem = s.mem := rfl
@[simp] theorem State.modThr_tags (s : State) (f : Thread → Thread) : (s.modThr f).tags = s.tags := rfl
@[simp] theorem State.modThr_poison (s : State) (f : Thread → Thread) : (s.modThr f).poison = s.poison := rfl
@[simp] theorem State.modThr_releases (s : State) (f : Thread → Thread) : (s.modThr f).releases = s.releases := rfl
@[simp] theorem State.modThr_seqWords (s : State) (f : Thread → Thread) : (s.modThr f).seqWords = s.seqWords := rfl
@[simp] theorem State.modThr_races (s : State) (f : Thread → Thread) : (s.modThr f).races = s.races := rfl
@[simp] theorem State.modThr_psb (s : State) (f : Thread → Thread) : (s.modThr f).psb = s.psb := rfl
@[simp] theorem State.modThr_copies (s : State) (f : Thread → Thread) : (s.modThr f).copies = s.copies := rfl
@[simp] theorem State.modThr_dies (s : State) (f : Thread → Thread) : (s.modThr f).dies = s.dies := rfl
@[simp] theorem State.modThr_triggers (s : State) (f : Thread → Thread) : (s.modThr f).triggers = s.triggers := rfl
@[simp] theorem State.modThr_armed (s : State) (f : Thread → Thread) : (s.modThr f).armed = s.armed := rfl
@[simp] theorem State.modThr_launches (s : State) (f : Thread → Thread) : (s.modThr f).launches = s.launches := rfl
@[simp] theorem State.modThr_queues (s : State) (f : Thread → Thread) : (s.modThr f).queues = s.queues := rfl
@[simp] theorem State.modThr_packets (s : State) (f : Thread → Thread) : (s.modThr f).packets = s.packets := rfl
@[simp] theorem State.modThr_releasesQ (s : State) (f : Thread → Thread) : (s.modThr f).releasesQ = s.releasesQ := rfl
@[simp] theorem State.modThr_records (s : State) (f : Thread → Thread) : (s.modThr f).records = s.records := rfl
@[simp] theorem State.modThr_partials (s : State) (f : Thread → Thread) : (s.modThr f).partials = s.partials := rfl
@[simp] theorem State.modThr_away (s : State) (f : Thread → Thread) : (s.modThr f).away = s.away := rfl
@[simp] theorem State.modThr_tokens (s : State) (f : Thread → Thread) : (s.modThr f).tokens = s.tokens := rfl
@[simp] theorem State.modThr_contexts (s : State) (f : Thread → Thread) : (s.modThr f).contexts = s.contexts := rfl
@[simp] theorem State.modThr_pools (s : State) (f : Thread → Thread) : (s.modThr f).pools = s.pools := rfl
@[simp] theorem State.modThr_preds (s : State) (f : Thread → Thread) : (s.modThr f).preds = s.preds := rfl
@[simp] theorem State.modThr_routes (s : State) (f : Thread → Thread) : (s.modThr f).routes = s.routes := rfl
@[simp] theorem State.modThr_ports (s : State) (f : Thread → Thread) : (s.modThr f).ports = s.ports := rfl
@[simp] theorem State.modThr_links (s : State) (f : Thread → Thread) : (s.modThr f).links = s.links := rfl
@[simp] theorem State.modThr_trust (s : State) (f : Thread → Thread) : (s.modThr f).trust = s.trust := rfl
@[simp] theorem State.modThr_host (s : State) (f : Thread → Thread) : (s.modThr f).host = s.host := rfl
@[simp] theorem State.modThr_fwImem (s : State) (f : Thread → Thread) : (s.modThr f).fwImem = s.fwImem := rfl
@[simp] theorem State.modThr_fwSecs (s : State) (f : Thread → Thread) : (s.modThr f).fwSecs = s.fwSecs := rfl

/-! ### State.takeToken -/

@[simp] theorem State.takeToken_cur (s : State) : s.takeToken.cur = s.cur := rfl
@[simp] theorem State.takeToken_core (s : State) : s.takeToken.core = s.core := rfl
@[simp] theorem State.takeToken_parked (s : State) : s.takeToken.parked = s.parked := rfl
@[simp] theorem State.takeToken_now (s : State) : s.takeToken.now = s.now := rfl
@[simp] theorem State.takeToken_cyc0 (s : State) : s.takeToken.cyc0 = s.cyc0 := rfl
@[simp] theorem State.takeToken_inputs (s : State) : s.takeToken.inputs = s.inputs := rfl
@[simp] theorem State.takeToken_freeCtr (s : State) : s.takeToken.freeCtr = s.freeCtr := rfl
@[simp] theorem State.takeToken_outbox (s : State) : s.takeToken.outbox = s.outbox := rfl
@[simp] theorem State.takeToken_mem (s : State) : s.takeToken.mem = s.mem := rfl
@[simp] theorem State.takeToken_tags (s : State) : s.takeToken.tags = s.tags := rfl
@[simp] theorem State.takeToken_poison (s : State) : s.takeToken.poison = s.poison := rfl
@[simp] theorem State.takeToken_releases (s : State) : s.takeToken.releases = s.releases := rfl
@[simp] theorem State.takeToken_seqWords (s : State) : s.takeToken.seqWords = s.seqWords := rfl
@[simp] theorem State.takeToken_races (s : State) : s.takeToken.races = s.races := rfl
@[simp] theorem State.takeToken_psb (s : State) : s.takeToken.psb = s.psb := rfl
@[simp] theorem State.takeToken_copies (s : State) : s.takeToken.copies = s.copies := rfl
@[simp] theorem State.takeToken_dies (s : State) : s.takeToken.dies = s.dies := rfl
@[simp] theorem State.takeToken_triggers (s : State) : s.takeToken.triggers = s.triggers := rfl
@[simp] theorem State.takeToken_armed (s : State) : s.takeToken.armed = s.armed := rfl
@[simp] theorem State.takeToken_launches (s : State) : s.takeToken.launches = s.launches := rfl
@[simp] theorem State.takeToken_queues (s : State) : s.takeToken.queues = s.queues := rfl
@[simp] theorem State.takeToken_packets (s : State) : s.takeToken.packets = s.packets := rfl
@[simp] theorem State.takeToken_releasesQ (s : State) : s.takeToken.releasesQ = s.releasesQ := rfl
@[simp] theorem State.takeToken_records (s : State) : s.takeToken.records = s.records := rfl
@[simp] theorem State.takeToken_partials (s : State) : s.takeToken.partials = s.partials := rfl
@[simp] theorem State.takeToken_away (s : State) : s.takeToken.away = s.away := rfl
@[simp] theorem State.takeToken_tokens (s : State) : s.takeToken.tokens = s.tokens + 1 := rfl
@[simp] theorem State.takeToken_contexts (s : State) : s.takeToken.contexts = s.contexts := rfl
@[simp] theorem State.takeToken_pools (s : State) : s.takeToken.pools = s.pools := rfl
@[simp] theorem State.takeToken_preds (s : State) : s.takeToken.preds = s.preds := rfl
@[simp] theorem State.takeToken_routes (s : State) : s.takeToken.routes = s.routes := rfl
@[simp] theorem State.takeToken_ports (s : State) : s.takeToken.ports = s.ports := rfl
@[simp] theorem State.takeToken_links (s : State) : s.takeToken.links = s.links := rfl
@[simp] theorem State.takeToken_trust (s : State) : s.takeToken.trust = s.trust := rfl
@[simp] theorem State.takeToken_host (s : State) : s.takeToken.host = s.host := rfl
@[simp] theorem State.takeToken_fwImem (s : State) : s.takeToken.fwImem = s.fwImem := rfl
@[simp] theorem State.takeToken_fwSecs (s : State) : s.takeToken.fwSecs = s.fwSecs := rfl

/-! ### State.draw -/

@[simp] theorem State.draw_cur (s : State) : s.draw.cur = s.cur := rfl
@[simp] theorem State.draw_core (s : State) : s.draw.core = s.core := rfl
@[simp] theorem State.draw_parked (s : State) : s.draw.parked = s.parked := rfl
@[simp] theorem State.draw_now (s : State) : s.draw.now = s.now := rfl
@[simp] theorem State.draw_cyc0 (s : State) : s.draw.cyc0 = s.cyc0 := rfl
@[simp] theorem State.draw_inputs (s : State) : s.draw.inputs = s.inputs := rfl
@[simp] theorem State.draw_freeCtr (s : State) : s.draw.freeCtr = s.freeCtr + 1 := rfl
@[simp] theorem State.draw_outbox (s : State) : s.draw.outbox = s.outbox := rfl
@[simp] theorem State.draw_mem (s : State) : s.draw.mem = s.mem := rfl
@[simp] theorem State.draw_tags (s : State) : s.draw.tags = s.tags := rfl
@[simp] theorem State.draw_poison (s : State) : s.draw.poison = s.poison := rfl
@[simp] theorem State.draw_releases (s : State) : s.draw.releases = s.releases := rfl
@[simp] theorem State.draw_seqWords (s : State) : s.draw.seqWords = s.seqWords := rfl
@[simp] theorem State.draw_races (s : State) : s.draw.races = s.races := rfl
@[simp] theorem State.draw_psb (s : State) : s.draw.psb = s.psb := rfl
@[simp] theorem State.draw_copies (s : State) : s.draw.copies = s.copies := rfl
@[simp] theorem State.draw_dies (s : State) : s.draw.dies = s.dies := rfl
@[simp] theorem State.draw_triggers (s : State) : s.draw.triggers = s.triggers := rfl
@[simp] theorem State.draw_armed (s : State) : s.draw.armed = s.armed := rfl
@[simp] theorem State.draw_launches (s : State) : s.draw.launches = s.launches := rfl
@[simp] theorem State.draw_queues (s : State) : s.draw.queues = s.queues := rfl
@[simp] theorem State.draw_packets (s : State) : s.draw.packets = s.packets := rfl
@[simp] theorem State.draw_releasesQ (s : State) : s.draw.releasesQ = s.releasesQ := rfl
@[simp] theorem State.draw_records (s : State) : s.draw.records = s.records := rfl
@[simp] theorem State.draw_partials (s : State) : s.draw.partials = s.partials := rfl
@[simp] theorem State.draw_away (s : State) : s.draw.away = s.away := rfl
@[simp] theorem State.draw_tokens (s : State) : s.draw.tokens = s.tokens := rfl
@[simp] theorem State.draw_contexts (s : State) : s.draw.contexts = s.contexts := rfl
@[simp] theorem State.draw_pools (s : State) : s.draw.pools = s.pools := rfl
@[simp] theorem State.draw_preds (s : State) : s.draw.preds = s.preds := rfl
@[simp] theorem State.draw_routes (s : State) : s.draw.routes = s.routes := rfl
@[simp] theorem State.draw_ports (s : State) : s.draw.ports = s.ports := rfl
@[simp] theorem State.draw_links (s : State) : s.draw.links = s.links := rfl
@[simp] theorem State.draw_trust (s : State) : s.draw.trust = s.trust := rfl
@[simp] theorem State.draw_host (s : State) : s.draw.host = s.host := rfl
@[simp] theorem State.draw_fwImem (s : State) : s.draw.fwImem = s.fwImem := rfl
@[simp] theorem State.draw_fwSecs (s : State) : s.draw.fwSecs = s.fwSecs := rfl

/-! ### State.send -/

@[simp] theorem State.send_cur (s : State) (o : Out) : (s.send o).cur = s.cur := rfl
@[simp] theorem State.send_core (s : State) (o : Out) : (s.send o).core = s.core := rfl
@[simp] theorem State.send_parked (s : State) (o : Out) : (s.send o).parked = s.parked := rfl
@[simp] theorem State.send_now (s : State) (o : Out) : (s.send o).now = s.now := rfl
@[simp] theorem State.send_cyc0 (s : State) (o : Out) : (s.send o).cyc0 = s.cyc0 := rfl
@[simp] theorem State.send_inputs (s : State) (o : Out) : (s.send o).inputs = s.inputs := rfl
@[simp] theorem State.send_freeCtr (s : State) (o : Out) : (s.send o).freeCtr = s.freeCtr := rfl
@[simp] theorem State.send_outbox (s : State) (o : Out) : (s.send o).outbox = s.outbox ++ [o] := rfl
@[simp] theorem State.send_mem (s : State) (o : Out) : (s.send o).mem = s.mem := rfl
@[simp] theorem State.send_tags (s : State) (o : Out) : (s.send o).tags = s.tags := rfl
@[simp] theorem State.send_poison (s : State) (o : Out) : (s.send o).poison = s.poison := rfl
@[simp] theorem State.send_releases (s : State) (o : Out) : (s.send o).releases = s.releases := rfl
@[simp] theorem State.send_seqWords (s : State) (o : Out) : (s.send o).seqWords = s.seqWords := rfl
@[simp] theorem State.send_races (s : State) (o : Out) : (s.send o).races = s.races := rfl
@[simp] theorem State.send_psb (s : State) (o : Out) : (s.send o).psb = s.psb := rfl
@[simp] theorem State.send_copies (s : State) (o : Out) : (s.send o).copies = s.copies := rfl
@[simp] theorem State.send_dies (s : State) (o : Out) : (s.send o).dies = s.dies := rfl
@[simp] theorem State.send_triggers (s : State) (o : Out) : (s.send o).triggers = s.triggers := rfl
@[simp] theorem State.send_armed (s : State) (o : Out) : (s.send o).armed = s.armed := rfl
@[simp] theorem State.send_launches (s : State) (o : Out) : (s.send o).launches = s.launches := rfl
@[simp] theorem State.send_queues (s : State) (o : Out) : (s.send o).queues = s.queues := rfl
@[simp] theorem State.send_packets (s : State) (o : Out) : (s.send o).packets = s.packets := rfl
@[simp] theorem State.send_releasesQ (s : State) (o : Out) : (s.send o).releasesQ = s.releasesQ := rfl
@[simp] theorem State.send_records (s : State) (o : Out) : (s.send o).records = s.records := rfl
@[simp] theorem State.send_partials (s : State) (o : Out) : (s.send o).partials = s.partials := rfl
@[simp] theorem State.send_away (s : State) (o : Out) : (s.send o).away = s.away := rfl
@[simp] theorem State.send_tokens (s : State) (o : Out) : (s.send o).tokens = s.tokens := rfl
@[simp] theorem State.send_contexts (s : State) (o : Out) : (s.send o).contexts = s.contexts := rfl
@[simp] theorem State.send_pools (s : State) (o : Out) : (s.send o).pools = s.pools := rfl
@[simp] theorem State.send_preds (s : State) (o : Out) : (s.send o).preds = s.preds := rfl
@[simp] theorem State.send_routes (s : State) (o : Out) : (s.send o).routes = s.routes := rfl
@[simp] theorem State.send_ports (s : State) (o : Out) : (s.send o).ports = s.ports := rfl
@[simp] theorem State.send_links (s : State) (o : Out) : (s.send o).links = s.links := rfl
@[simp] theorem State.send_trust (s : State) (o : Out) : (s.send o).trust = s.trust := rfl
@[simp] theorem State.send_host (s : State) (o : Out) : (s.send o).host = s.host := rfl
@[simp] theorem State.send_fwImem (s : State) (o : Out) : (s.send o).fwImem = s.fwImem := rfl
@[simp] theorem State.send_fwSecs (s : State) (o : Out) : (s.send o).fwSecs = s.fwSecs := rfl

/-! ### State.modLaunch -/

@[simp] theorem State.modLaunch_cur (s : State) (l : Nat) (f : Launch → Launch) : (s.modLaunch l f).cur = s.cur := rfl
@[simp] theorem State.modLaunch_core (s : State) (l : Nat) (f : Launch → Launch) : (s.modLaunch l f).core = s.core := rfl
@[simp] theorem State.modLaunch_parked (s : State) (l : Nat) (f : Launch → Launch) : (s.modLaunch l f).parked = s.parked := rfl
@[simp] theorem State.modLaunch_now (s : State) (l : Nat) (f : Launch → Launch) : (s.modLaunch l f).now = s.now := rfl
@[simp] theorem State.modLaunch_cyc0 (s : State) (l : Nat) (f : Launch → Launch) : (s.modLaunch l f).cyc0 = s.cyc0 := rfl
@[simp] theorem State.modLaunch_inputs (s : State) (l : Nat) (f : Launch → Launch) : (s.modLaunch l f).inputs = s.inputs := rfl
@[simp] theorem State.modLaunch_freeCtr (s : State) (l : Nat) (f : Launch → Launch) : (s.modLaunch l f).freeCtr = s.freeCtr := rfl
@[simp] theorem State.modLaunch_outbox (s : State) (l : Nat) (f : Launch → Launch) : (s.modLaunch l f).outbox = s.outbox := rfl
@[simp] theorem State.modLaunch_mem (s : State) (l : Nat) (f : Launch → Launch) : (s.modLaunch l f).mem = s.mem := rfl
@[simp] theorem State.modLaunch_tags (s : State) (l : Nat) (f : Launch → Launch) : (s.modLaunch l f).tags = s.tags := rfl
@[simp] theorem State.modLaunch_poison (s : State) (l : Nat) (f : Launch → Launch) : (s.modLaunch l f).poison = s.poison := rfl
@[simp] theorem State.modLaunch_releases (s : State) (l : Nat) (f : Launch → Launch) : (s.modLaunch l f).releases = s.releases := rfl
@[simp] theorem State.modLaunch_seqWords (s : State) (l : Nat) (f : Launch → Launch) : (s.modLaunch l f).seqWords = s.seqWords := rfl
@[simp] theorem State.modLaunch_races (s : State) (l : Nat) (f : Launch → Launch) : (s.modLaunch l f).races = s.races := rfl
@[simp] theorem State.modLaunch_psb (s : State) (l : Nat) (f : Launch → Launch) : (s.modLaunch l f).psb = s.psb := rfl
@[simp] theorem State.modLaunch_copies (s : State) (l : Nat) (f : Launch → Launch) : (s.modLaunch l f).copies = s.copies := rfl
@[simp] theorem State.modLaunch_dies (s : State) (l : Nat) (f : Launch → Launch) : (s.modLaunch l f).dies = s.dies := rfl
@[simp] theorem State.modLaunch_triggers (s : State) (l : Nat) (f : Launch → Launch) : (s.modLaunch l f).triggers = s.triggers := rfl
@[simp] theorem State.modLaunch_armed (s : State) (l : Nat) (f : Launch → Launch) : (s.modLaunch l f).armed = s.armed := rfl
@[simp] theorem State.modLaunch_launches (s : State) (l : Nat) (f : Launch → Launch) : (s.modLaunch l f).launches = tmod none s.launches l (Option.map f) := rfl
@[simp] theorem State.modLaunch_queues (s : State) (l : Nat) (f : Launch → Launch) : (s.modLaunch l f).queues = s.queues := rfl
@[simp] theorem State.modLaunch_packets (s : State) (l : Nat) (f : Launch → Launch) : (s.modLaunch l f).packets = s.packets := rfl
@[simp] theorem State.modLaunch_releasesQ (s : State) (l : Nat) (f : Launch → Launch) : (s.modLaunch l f).releasesQ = s.releasesQ := rfl
@[simp] theorem State.modLaunch_records (s : State) (l : Nat) (f : Launch → Launch) : (s.modLaunch l f).records = s.records := rfl
@[simp] theorem State.modLaunch_partials (s : State) (l : Nat) (f : Launch → Launch) : (s.modLaunch l f).partials = s.partials := rfl
@[simp] theorem State.modLaunch_away (s : State) (l : Nat) (f : Launch → Launch) : (s.modLaunch l f).away = s.away := rfl
@[simp] theorem State.modLaunch_tokens (s : State) (l : Nat) (f : Launch → Launch) : (s.modLaunch l f).tokens = s.tokens := rfl
@[simp] theorem State.modLaunch_contexts (s : State) (l : Nat) (f : Launch → Launch) : (s.modLaunch l f).contexts = s.contexts := rfl
@[simp] theorem State.modLaunch_pools (s : State) (l : Nat) (f : Launch → Launch) : (s.modLaunch l f).pools = s.pools := rfl
@[simp] theorem State.modLaunch_preds (s : State) (l : Nat) (f : Launch → Launch) : (s.modLaunch l f).preds = s.preds := rfl
@[simp] theorem State.modLaunch_routes (s : State) (l : Nat) (f : Launch → Launch) : (s.modLaunch l f).routes = s.routes := rfl
@[simp] theorem State.modLaunch_ports (s : State) (l : Nat) (f : Launch → Launch) : (s.modLaunch l f).ports = s.ports := rfl
@[simp] theorem State.modLaunch_links (s : State) (l : Nat) (f : Launch → Launch) : (s.modLaunch l f).links = s.links := rfl
@[simp] theorem State.modLaunch_trust (s : State) (l : Nat) (f : Launch → Launch) : (s.modLaunch l f).trust = s.trust := rfl
@[simp] theorem State.modLaunch_host (s : State) (l : Nat) (f : Launch → Launch) : (s.modLaunch l f).host = s.host := rfl
@[simp] theorem State.modLaunch_fwImem (s : State) (l : Nat) (f : Launch → Launch) : (s.modLaunch l f).fwImem = s.fwImem := rfl
@[simp] theorem State.modLaunch_fwSecs (s : State) (l : Nat) (f : Launch → Launch) : (s.modLaunch l f).fwSecs = s.fwSecs := rfl

/-! ### State.modDie -/

@[simp] theorem State.modDie_cur (s : State) (d : Nat) (f : Die → Die) : (s.modDie d f).cur = s.cur := by unfold State.modDie; split <;> rfl
@[simp] theorem State.modDie_core (s : State) (d : Nat) (f : Die → Die) : (s.modDie d f).core = s.core := by unfold State.modDie; split <;> rfl
@[simp] theorem State.modDie_parked (s : State) (d : Nat) (f : Die → Die) : (s.modDie d f).parked = s.parked := by unfold State.modDie; split <;> rfl
@[simp] theorem State.modDie_now (s : State) (d : Nat) (f : Die → Die) : (s.modDie d f).now = s.now := by unfold State.modDie; split <;> rfl
@[simp] theorem State.modDie_cyc0 (s : State) (d : Nat) (f : Die → Die) : (s.modDie d f).cyc0 = s.cyc0 := by unfold State.modDie; split <;> rfl
@[simp] theorem State.modDie_inputs (s : State) (d : Nat) (f : Die → Die) : (s.modDie d f).inputs = s.inputs := by unfold State.modDie; split <;> rfl
@[simp] theorem State.modDie_freeCtr (s : State) (d : Nat) (f : Die → Die) : (s.modDie d f).freeCtr = s.freeCtr := by unfold State.modDie; split <;> rfl
@[simp] theorem State.modDie_outbox (s : State) (d : Nat) (f : Die → Die) : (s.modDie d f).outbox = s.outbox := by unfold State.modDie; split <;> rfl
@[simp] theorem State.modDie_mem (s : State) (d : Nat) (f : Die → Die) : (s.modDie d f).mem = s.mem := by unfold State.modDie; split <;> rfl
@[simp] theorem State.modDie_tags (s : State) (d : Nat) (f : Die → Die) : (s.modDie d f).tags = s.tags := by unfold State.modDie; split <;> rfl
@[simp] theorem State.modDie_poison (s : State) (d : Nat) (f : Die → Die) : (s.modDie d f).poison = s.poison := by unfold State.modDie; split <;> rfl
@[simp] theorem State.modDie_releases (s : State) (d : Nat) (f : Die → Die) : (s.modDie d f).releases = s.releases := by unfold State.modDie; split <;> rfl
@[simp] theorem State.modDie_seqWords (s : State) (d : Nat) (f : Die → Die) : (s.modDie d f).seqWords = s.seqWords := by unfold State.modDie; split <;> rfl
@[simp] theorem State.modDie_races (s : State) (d : Nat) (f : Die → Die) : (s.modDie d f).races = s.races := by unfold State.modDie; split <;> rfl
@[simp] theorem State.modDie_psb (s : State) (d : Nat) (f : Die → Die) : (s.modDie d f).psb = s.psb := by unfold State.modDie; split <;> rfl
@[simp] theorem State.modDie_copies (s : State) (d : Nat) (f : Die → Die) : (s.modDie d f).copies = s.copies := by unfold State.modDie; split <;> rfl
@[simp] theorem State.modDie_triggers (s : State) (d : Nat) (f : Die → Die) : (s.modDie d f).triggers = s.triggers := by unfold State.modDie; split <;> rfl
@[simp] theorem State.modDie_armed (s : State) (d : Nat) (f : Die → Die) : (s.modDie d f).armed = s.armed := by unfold State.modDie; split <;> rfl
@[simp] theorem State.modDie_launches (s : State) (d : Nat) (f : Die → Die) : (s.modDie d f).launches = s.launches := by unfold State.modDie; split <;> rfl
@[simp] theorem State.modDie_queues (s : State) (d : Nat) (f : Die → Die) : (s.modDie d f).queues = s.queues := by unfold State.modDie; split <;> rfl
@[simp] theorem State.modDie_packets (s : State) (d : Nat) (f : Die → Die) : (s.modDie d f).packets = s.packets := by unfold State.modDie; split <;> rfl
@[simp] theorem State.modDie_releasesQ (s : State) (d : Nat) (f : Die → Die) : (s.modDie d f).releasesQ = s.releasesQ := by unfold State.modDie; split <;> rfl
@[simp] theorem State.modDie_records (s : State) (d : Nat) (f : Die → Die) : (s.modDie d f).records = s.records := by unfold State.modDie; split <;> rfl
@[simp] theorem State.modDie_partials (s : State) (d : Nat) (f : Die → Die) : (s.modDie d f).partials = s.partials := by unfold State.modDie; split <;> rfl
@[simp] theorem State.modDie_away (s : State) (d : Nat) (f : Die → Die) : (s.modDie d f).away = s.away := by unfold State.modDie; split <;> rfl
@[simp] theorem State.modDie_tokens (s : State) (d : Nat) (f : Die → Die) : (s.modDie d f).tokens = s.tokens := by unfold State.modDie; split <;> rfl
@[simp] theorem State.modDie_contexts (s : State) (d : Nat) (f : Die → Die) : (s.modDie d f).contexts = s.contexts := by unfold State.modDie; split <;> rfl
@[simp] theorem State.modDie_pools (s : State) (d : Nat) (f : Die → Die) : (s.modDie d f).pools = s.pools := by unfold State.modDie; split <;> rfl
@[simp] theorem State.modDie_preds (s : State) (d : Nat) (f : Die → Die) : (s.modDie d f).preds = s.preds := by unfold State.modDie; split <;> rfl
@[simp] theorem State.modDie_routes (s : State) (d : Nat) (f : Die → Die) : (s.modDie d f).routes = s.routes := by unfold State.modDie; split <;> rfl
@[simp] theorem State.modDie_ports (s : State) (d : Nat) (f : Die → Die) : (s.modDie d f).ports = s.ports := by unfold State.modDie; split <;> rfl
@[simp] theorem State.modDie_links (s : State) (d : Nat) (f : Die → Die) : (s.modDie d f).links = s.links := by unfold State.modDie; split <;> rfl
@[simp] theorem State.modDie_trust (s : State) (d : Nat) (f : Die → Die) : (s.modDie d f).trust = s.trust := by unfold State.modDie; split <;> rfl
@[simp] theorem State.modDie_host (s : State) (d : Nat) (f : Die → Die) : (s.modDie d f).host = s.host := by unfold State.modDie; split <;> rfl
@[simp] theorem State.modDie_fwImem (s : State) (d : Nat) (f : Die → Die) : (s.modDie d f).fwImem = s.fwImem := by unfold State.modDie; split <;> rfl
@[simp] theorem State.modDie_fwSecs (s : State) (d : Nat) (f : Die → Die) : (s.modDie d f).fwSecs = s.fwSecs := by unfold State.modDie; split <;> rfl

/-! ### State.modCore -/

@[simp] theorem State.modCore_cur (s : State) (n : Nat) (f : Core → Core) : (s.modCore n f).cur = s.cur := by unfold State.modCore; split <;> rfl
@[simp] theorem State.modCore_now (s : State) (n : Nat) (f : Core → Core) : (s.modCore n f).now = s.now := by unfold State.modCore; split <;> rfl
@[simp] theorem State.modCore_cyc0 (s : State) (n : Nat) (f : Core → Core) : (s.modCore n f).cyc0 = s.cyc0 := by unfold State.modCore; split <;> rfl
@[simp] theorem State.modCore_inputs (s : State) (n : Nat) (f : Core → Core) : (s.modCore n f).inputs = s.inputs := by unfold State.modCore; split <;> rfl
@[simp] theorem State.modCore_freeCtr (s : State) (n : Nat) (f : Core → Core) : (s.modCore n f).freeCtr = s.freeCtr := by unfold State.modCore; split <;> rfl
@[simp] theorem State.modCore_outbox (s : State) (n : Nat) (f : Core → Core) : (s.modCore n f).outbox = s.outbox := by unfold State.modCore; split <;> rfl
@[simp] theorem State.modCore_mem (s : State) (n : Nat) (f : Core → Core) : (s.modCore n f).mem = s.mem := by unfold State.modCore; split <;> rfl
@[simp] theorem State.modCore_tags (s : State) (n : Nat) (f : Core → Core) : (s.modCore n f).tags = s.tags := by unfold State.modCore; split <;> rfl
@[simp] theorem State.modCore_poison (s : State) (n : Nat) (f : Core → Core) : (s.modCore n f).poison = s.poison := by unfold State.modCore; split <;> rfl
@[simp] theorem State.modCore_releases (s : State) (n : Nat) (f : Core → Core) : (s.modCore n f).releases = s.releases := by unfold State.modCore; split <;> rfl
@[simp] theorem State.modCore_seqWords (s : State) (n : Nat) (f : Core → Core) : (s.modCore n f).seqWords = s.seqWords := by unfold State.modCore; split <;> rfl
@[simp] theorem State.modCore_races (s : State) (n : Nat) (f : Core → Core) : (s.modCore n f).races = s.races := by unfold State.modCore; split <;> rfl
@[simp] theorem State.modCore_psb (s : State) (n : Nat) (f : Core → Core) : (s.modCore n f).psb = s.psb := by unfold State.modCore; split <;> rfl
@[simp] theorem State.modCore_copies (s : State) (n : Nat) (f : Core → Core) : (s.modCore n f).copies = s.copies := by unfold State.modCore; split <;> rfl
@[simp] theorem State.modCore_dies (s : State) (n : Nat) (f : Core → Core) : (s.modCore n f).dies = s.dies := by unfold State.modCore; split <;> rfl
@[simp] theorem State.modCore_triggers (s : State) (n : Nat) (f : Core → Core) : (s.modCore n f).triggers = s.triggers := by unfold State.modCore; split <;> rfl
@[simp] theorem State.modCore_armed (s : State) (n : Nat) (f : Core → Core) : (s.modCore n f).armed = s.armed := by unfold State.modCore; split <;> rfl
@[simp] theorem State.modCore_launches (s : State) (n : Nat) (f : Core → Core) : (s.modCore n f).launches = s.launches := by unfold State.modCore; split <;> rfl
@[simp] theorem State.modCore_queues (s : State) (n : Nat) (f : Core → Core) : (s.modCore n f).queues = s.queues := by unfold State.modCore; split <;> rfl
@[simp] theorem State.modCore_packets (s : State) (n : Nat) (f : Core → Core) : (s.modCore n f).packets = s.packets := by unfold State.modCore; split <;> rfl
@[simp] theorem State.modCore_releasesQ (s : State) (n : Nat) (f : Core → Core) : (s.modCore n f).releasesQ = s.releasesQ := by unfold State.modCore; split <;> rfl
@[simp] theorem State.modCore_records (s : State) (n : Nat) (f : Core → Core) : (s.modCore n f).records = s.records := by unfold State.modCore; split <;> rfl
@[simp] theorem State.modCore_partials (s : State) (n : Nat) (f : Core → Core) : (s.modCore n f).partials = s.partials := by unfold State.modCore; split <;> rfl
@[simp] theorem State.modCore_away (s : State) (n : Nat) (f : Core → Core) : (s.modCore n f).away = s.away := by unfold State.modCore; split <;> rfl
@[simp] theorem State.modCore_tokens (s : State) (n : Nat) (f : Core → Core) : (s.modCore n f).tokens = s.tokens := by unfold State.modCore; split <;> rfl
@[simp] theorem State.modCore_contexts (s : State) (n : Nat) (f : Core → Core) : (s.modCore n f).contexts = s.contexts := by unfold State.modCore; split <;> rfl
@[simp] theorem State.modCore_pools (s : State) (n : Nat) (f : Core → Core) : (s.modCore n f).pools = s.pools := by unfold State.modCore; split <;> rfl
@[simp] theorem State.modCore_preds (s : State) (n : Nat) (f : Core → Core) : (s.modCore n f).preds = s.preds := by unfold State.modCore; split <;> rfl
@[simp] theorem State.modCore_routes (s : State) (n : Nat) (f : Core → Core) : (s.modCore n f).routes = s.routes := by unfold State.modCore; split <;> rfl
@[simp] theorem State.modCore_ports (s : State) (n : Nat) (f : Core → Core) : (s.modCore n f).ports = s.ports := by unfold State.modCore; split <;> rfl
@[simp] theorem State.modCore_links (s : State) (n : Nat) (f : Core → Core) : (s.modCore n f).links = s.links := by unfold State.modCore; split <;> rfl
@[simp] theorem State.modCore_trust (s : State) (n : Nat) (f : Core → Core) : (s.modCore n f).trust = s.trust := by unfold State.modCore; split <;> rfl
@[simp] theorem State.modCore_host (s : State) (n : Nat) (f : Core → Core) : (s.modCore n f).host = s.host := by unfold State.modCore; split <;> rfl
@[simp] theorem State.modCore_fwImem (s : State) (n : Nat) (f : Core → Core) : (s.modCore n f).fwImem = s.fwImem := by unfold State.modCore; split <;> rfl
@[simp] theorem State.modCore_fwSecs (s : State) (n : Nat) (f : Core → Core) : (s.modCore n f).fwSecs = s.fwSecs := by unfold State.modCore; split <;> rfl

/-! ### State.focus -/

@[simp] theorem State.focus_now (s : State) (n : Nat) : (s.focus n).now = s.now := by unfold State.focus; split <;> rfl
@[simp] theorem State.focus_cyc0 (s : State) (n : Nat) : (s.focus n).cyc0 = s.cyc0 := by unfold State.focus; split <;> rfl
@[simp] theorem State.focus_inputs (s : State) (n : Nat) : (s.focus n).inputs = s.inputs := by unfold State.focus; split <;> rfl
@[simp] theorem State.focus_freeCtr (s : State) (n : Nat) : (s.focus n).freeCtr = s.freeCtr := by unfold State.focus; split <;> rfl
@[simp] theorem State.focus_outbox (s : State) (n : Nat) : (s.focus n).outbox = s.outbox := by unfold State.focus; split <;> rfl
@[simp] theorem State.focus_mem (s : State) (n : Nat) : (s.focus n).mem = s.mem := by unfold State.focus; split <;> rfl
@[simp] theorem State.focus_tags (s : State) (n : Nat) : (s.focus n).tags = s.tags := by unfold State.focus; split <;> rfl
@[simp] theorem State.focus_poison (s : State) (n : Nat) : (s.focus n).poison = s.poison := by unfold State.focus; split <;> rfl
@[simp] theorem State.focus_releases (s : State) (n : Nat) : (s.focus n).releases = s.releases := by unfold State.focus; split <;> rfl
@[simp] theorem State.focus_seqWords (s : State) (n : Nat) : (s.focus n).seqWords = s.seqWords := by unfold State.focus; split <;> rfl
@[simp] theorem State.focus_races (s : State) (n : Nat) : (s.focus n).races = s.races := by unfold State.focus; split <;> rfl
@[simp] theorem State.focus_psb (s : State) (n : Nat) : (s.focus n).psb = s.psb := by unfold State.focus; split <;> rfl
@[simp] theorem State.focus_copies (s : State) (n : Nat) : (s.focus n).copies = s.copies := by unfold State.focus; split <;> rfl
@[simp] theorem State.focus_dies (s : State) (n : Nat) : (s.focus n).dies = s.dies := by unfold State.focus; split <;> rfl
@[simp] theorem State.focus_triggers (s : State) (n : Nat) : (s.focus n).triggers = s.triggers := by unfold State.focus; split <;> rfl
@[simp] theorem State.focus_armed (s : State) (n : Nat) : (s.focus n).armed = s.armed := by unfold State.focus; split <;> rfl
@[simp] theorem State.focus_launches (s : State) (n : Nat) : (s.focus n).launches = s.launches := by unfold State.focus; split <;> rfl
@[simp] theorem State.focus_queues (s : State) (n : Nat) : (s.focus n).queues = s.queues := by unfold State.focus; split <;> rfl
@[simp] theorem State.focus_packets (s : State) (n : Nat) : (s.focus n).packets = s.packets := by unfold State.focus; split <;> rfl
@[simp] theorem State.focus_releasesQ (s : State) (n : Nat) : (s.focus n).releasesQ = s.releasesQ := by unfold State.focus; split <;> rfl
@[simp] theorem State.focus_records (s : State) (n : Nat) : (s.focus n).records = s.records := by unfold State.focus; split <;> rfl
@[simp] theorem State.focus_partials (s : State) (n : Nat) : (s.focus n).partials = s.partials := by unfold State.focus; split <;> rfl
@[simp] theorem State.focus_away (s : State) (n : Nat) : (s.focus n).away = s.away := by unfold State.focus; split <;> rfl
@[simp] theorem State.focus_tokens (s : State) (n : Nat) : (s.focus n).tokens = s.tokens := by unfold State.focus; split <;> rfl
@[simp] theorem State.focus_contexts (s : State) (n : Nat) : (s.focus n).contexts = s.contexts := by unfold State.focus; split <;> rfl
@[simp] theorem State.focus_pools (s : State) (n : Nat) : (s.focus n).pools = s.pools := by unfold State.focus; split <;> rfl
@[simp] theorem State.focus_preds (s : State) (n : Nat) : (s.focus n).preds = s.preds := by unfold State.focus; split <;> rfl
@[simp] theorem State.focus_routes (s : State) (n : Nat) : (s.focus n).routes = s.routes := by unfold State.focus; split <;> rfl
@[simp] theorem State.focus_ports (s : State) (n : Nat) : (s.focus n).ports = s.ports := by unfold State.focus; split <;> rfl
@[simp] theorem State.focus_links (s : State) (n : Nat) : (s.focus n).links = s.links := by unfold State.focus; split <;> rfl
@[simp] theorem State.focus_trust (s : State) (n : Nat) : (s.focus n).trust = s.trust := by unfold State.focus; split <;> rfl
@[simp] theorem State.focus_host (s : State) (n : Nat) : (s.focus n).host = s.host := by unfold State.focus; split <;> rfl
@[simp] theorem State.focus_fwImem (s : State) (n : Nat) : (s.focus n).fwImem = s.fwImem := by unfold State.focus; split <;> rfl
@[simp] theorem State.focus_fwSecs (s : State) (n : Nat) : (s.focus n).fwSecs = s.fwSecs := by unfold State.focus; split <;> rfl

end Sys2Proof.Machine
end

