-- ==== Sys2Proof/Laws/Issue.lean ====
section
/-! SUPPORT. What looking at one slot, closing a bundle of one slot and committing it do. -/

namespace Sys2Proof.Machine

/-! ### Looking at a slot that is free to act -/

/-- What `State.ready` says of a slot instruction with its row. -/
theorem State.ready_iff {s : State} {i : Instr} {w : SlotWord} {r : Row} (hr : row i = some (w, r)) :
    s.ready i = true ↔
      s.core.stage = none ∧ encErr s.fw i = none ∧ ((∃ v, i = .csel v) ∨ s.thr.guard w = true) ∧
      s.thr.locked (.p w.pred.toNat) = false ∧ ((uses s i).any fun u => s.thr.locked u.reg) = false ∧
      (∀ x ∈ streamUses i, s.streamBad x = none ∧ s.streamReady x = true) ∧ s.latencyErr r.slot.num i = none ∧
      s.heldErr r.slot.num i = none ∧ s.poisonErr r.slot.num i = none := by
  have hc : selects i = true ↔ ∃ v, i = .csel v := by
    unfold selects
    split
    · simp
    · rename_i h; simp only [Bool.false_eq_true, false_iff, not_exists]; exact h
  unfold State.ready
  rw [hr]
  simp only [Bool.and_eq_true, Bool.or_eq_true, Option.isNone_iff_eq_none, Bool.not_eq_true', List.all_eq_true, hc]
  simp only [and_assoc]

theorem slotNo_eq {i : Instr} {w : SlotWord} {r : Row} (hr : row i = some (w, r)) : slotNo i = r.slot.num := by
  simp [slotNo, hr]

/-- A free slot that has room and raises nothing else looks at its instruction. -/
theorem State.lookSlot_free {s : State} {i : Instr} {w : SlotWord} {r : Row} (hr : row i = some (w, r))
    (h : s.ready i = true) (hn : s.roomHold i = false) (issue : State → Res) (ill : Option TrapInfo) :
    s.lookSlot i w (slotNo i) none ill issue = match ill with
      | some t => .trap t []
      | none => match issue s with
        | .ok es => .ok (es ++ streamEffs i ++ s.holdEffs (slotNo i) i)
        | r => r := by
  obtain ⟨-, h2, h3, h4, h5, h6, h7, h8, -⟩ := (State.ready_iff hr).mp h
  have hs : ((streamUses i).any fun x => (s.streamBad x).isNone && !s.streamReady x) = false := by
    simp only [List.any_eq_false, Bool.and_eq_true, Bool.not_eq_true', not_and, Bool.not_eq_false]
    exact fun x hx _ => (h6 x hx).2
  rw [← slotNo_eq hr] at h7 h8
  unfold State.lookSlot
  rw [h2]
  simp only [h4, h5, hs, hn, h7, h8, Option.none_or, Option.or_none, Bool.false_eq_true, if_false]
  rcases h3 with ⟨v, rfl⟩ | h3 <;> cases ill <;> simp [*] <;> cases issue s <;> rfl

theorem State.lookSlot_ready {s : State} {i : Instr} {w : SlotWord} {r : Row} (hr : row i = some (w, r))
    (h : s.ready i = true) (hn : s.roomHold i = false) {issue : State → Res} {es : List Eff} (hi : issue s = .ok es) :
    s.lookSlot i w (slotNo i) none none issue = .ok (es ++ streamEffs i ++ s.holdEffs (slotNo i) i) := by
  rw [State.lookSlot_free hr h hn, hi]

/-- A free slot without room for what it needs holds. -/
theorem State.lookSlot_full {s : State} {i : Instr} {w : SlotWord} {r : Row} (hr : row i = some (w, r)) (h : s.ready i = true)
    (hn : s.roomHold i = true) (issue : State → Res) (ill : Option TrapInfo) :
    s.lookSlot i w (slotNo i) none ill issue = .hold {} [] := by
  obtain ⟨-, h2, h3, h4, h5, h6, -⟩ := (State.ready_iff hr).mp h
  have hs : ((streamUses i).any fun x => (s.streamBad x).isNone && !s.streamReady x) = false := by
    simp only [List.any_eq_false, Bool.and_eq_true, Bool.not_eq_true', not_and, Bool.not_eq_false]
    exact fun x hx _ => (h6 x hx).2
  unfold State.lookSlot
  rw [h2]
  simp only [h4, h5, hs, hn, Bool.false_eq_true, if_false]
  rcases h3 with ⟨v, rfl⟩ | h3 <;> simp [*]

/-- The operand forms of a free slot raise nothing. -/
theorem State.operandErr_ready {s : State} {i : Instr} {w : SlotWord} {r : Row} (hr : row i = some (w, r))
    (h : s.ready i = true) : s.operandErr (slotNo i) i = none := by
  obtain ⟨-, -, -, -, -, h6, -, -, h9⟩ := (State.ready_iff hr).mp h
  have hs : s.streamErr (slotNo i) i = none := by
    simp only [State.streamErr, List.findSome?_eq_none_iff]
    intro x hx; simp [(h6 x hx).1]
  rw [State.operandErr, hs, slotNo_eq hr, h9]; rfl

theorem withOperands_ready {s : State} {i : Instr} {w : SlotWord} {r : Row} (hr : row i = some (w, r))
    (h : s.ready i = true) (f : State → Res) : withOperands (slotNo i) i f s = f s := by
  simp [withOperands, State.operandErr_ready hr h]

/-! ### Closing a bundle of one slot -/

theorem State.closeBundle_ok {s : State} (hs : s.core.stage = none) (k : Nat) (es : List Eff) :
    s.closeBundle [(k, .ok es)] = s.commitBundle es := by
  have : s.setCore { s.core with stage := none } = s := by rw [← hs]; rfl
  simp [State.closeBundle, decoded, this, State.countersFull, holdsOf, trapOf, sendsOf, effsOf]

theorem State.closeBundle_off {s : State} (hs : s.core.stage = none) (k : Nat) :
    s.closeBundle [(k, .off)] = s.commitBundle [] := by
  have : s.setCore { s.core with stage := none } = s := by rw [← hs]; rfl
  simp [State.closeBundle, decoded, this, State.countersFull, holdsOf, trapOf, sendsOf, effsOf]

theorem State.closeBundle_enc {s : State} (hs : s.core.stage = none) (k : Nat) (t : TrapInfo) :
    s.closeBundle [(k, .enc t)] = s.voidBundle t [] := by
  have : s.setCore { s.core with stage := none } = s := by rw [← hs]; rfl
  simp [State.closeBundle, decoded, this, State.countersFull, holdsOf, trapOf]

theorem State.closeBundle_trap {s : State} (hs : s.core.stage = none) (k : Nat) (t : TrapInfo) (es : List Eff) :
    s.closeBundle [(k, .trap t es)] = s.voidBundle t es := by
  have : s.setCore { s.core with stage := none } = s := by rw [← hs]; rfl
  simp [State.closeBundle, decoded, this, State.countersFull, holdsOf, trapOf]

theorem State.closeBundle_hold {s : State} (hs : s.core.stage = none) (k : Nat) (w : WaitInfo) (es : List Eff) :
    s.closeBundle [(k, .hold w es)] = s.holdBundle [(k, w)] es := by
  have : s.setCore { s.core with stage := none } = s := by rw [← hs]; rfl
  simp [State.closeBundle, decoded, this, holdsOf, holdEffsOf]

theorem State.closeBundle_send {s : State} (hs : s.core.stage = none) (k : Nat) (es : List Eff) (he : es ≠ []) :
    s.closeBundle [(k, .send es)] = s.holdBundle [(2, {})] es := by
  have : s.setCore { s.core with stage := none } = s := by rw [← hs]; rfl
  simp [State.closeBundle, decoded, this, State.countersFull, holdsOf, trapOf, sendsOf, he]

/-- A slot alone in its bundle: its look closes the bundle. -/
theorem State.runSlot_alone {s : State} (hs : s.core.stage = none) (i : Instr) (w : SlotWord) (k : Nat)
    (enc ill : Option TrapInfo) (issue : State → Res) :
    s.runSlot i w k enc ill issue = .next (s.closeBundle [(k, s.lookSlot i w k enc ill issue)]) := by
  simp [State.runSlot, hs]

/-- A free slot alone in its bundle, whose look gives effects, commits with them. -/
theorem State.runSlot_ready {s : State} {i : Instr} {w : SlotWord} {r : Row} (hr : row i = some (w, r)) (h : s.ready i = true) (hn : s.roomHold i = false)
    {issue : State → Res} {es : List Eff} (hi : issue s = .ok es) :
    s.runSlot i w (slotNo i) none none issue = .next (s.commits i es) := by
  have hs := ((State.ready_iff hr).mp h).1
  rw [State.runSlot_alone hs, State.lookSlot_ready hr h hn hi, State.closeBundle_ok hs]; rfl

/-- A free slot alone in its bundle, whose instruction checks its operands first and then gives effects, commits with them. -/
theorem State.runSlot_operands {s : State} {i : Instr} {w : SlotWord} {r : Row} (hr : row i = some (w, r))
    (h : s.ready i = true) (hn : s.roomHold i = false) {f : State → Res} {es : List Eff} (hf : f s = .ok es) :
    s.runSlot i w (slotNo i) none none (withOperands (slotNo i) i f) = .next (s.commits i es) :=
  State.runSlot_ready hr h hn (by rw [withOperands_ready hr h, hf])

/-! ### Committing results -/

@[simp] theorem State.setCore_setCore (s : State) (c d : Core) : (s.setCore c).setCore d = s.setCore d := rfl

/-- Effects that only deliver results, move streams and hold operand values. -/
def Eff.quiet : Eff → Bool
  | .land _ | .streamTake _ | .streamOwe _ | .holdS .. | .holdV .. | .unhold _ => true
  | _ => false

/-- The results among some effects. -/
def landings (es : List Eff) : List Landing := es.filterMap fun e => match e with | .land l => some l | _ => none

theorem streamEffs_quiet (i : Instr) : ∀ e ∈ streamEffs i, e.quiet = true := by
  intro e he
  simp only [streamEffs, List.mem_map] at he
  obtain ⟨x, -, rfl⟩ := he
  split <;> rfl

theorem landings_streamEffs (i : Instr) : landings (streamEffs i) = [] := by
  simp only [landings, streamEffs, List.filterMap_map, List.filterMap_eq_nil_iff]
  intro x _
  simp only [Function.comp]
  cases x.2.1 <;> rfl

/-- What HOLD does concerns held values alone. -/
theorem State.holdEffs_held (s : State) (k : Nat) (i : Instr) :
    ∀ e ∈ s.holdEffs k i, (∃ x, e = .holdS k x) ∨ (∃ x, e = .holdV k x) ∨ e = .unhold k := by
  intro e he
  unfold State.holdEffs at he
  repeat' split at he
  all_goals simp only [List.not_mem_nil, List.mem_ite_nil_left] at he
  all_goals first
    | contradiction
    | (obtain ⟨-, he⟩ := he; split at he <;> simp_all)
    | simp_all

theorem State.holdEffs_quiet (s : State) (k : Nat) (i : Instr) : ∀ e ∈ s.holdEffs k i, e.quiet = true := by
  intro e he
  rcases s.holdEffs_held k i e he with ⟨x, rfl⟩ | ⟨x, rfl⟩ | rfl <;> rfl

theorem State.landings_holdEffs (s : State) (k : Nat) (i : Instr) : landings (s.holdEffs k i) = [] := by
  simp only [landings, List.filterMap_eq_nil_iff]
  intro e he
  rcases s.holdEffs_held k i e he with ⟨x, rfl⟩ | ⟨x, rfl⟩ | rfl <;> rfl

theorem landings_append (a b : List Eff) : landings (a ++ b) = landings a ++ landings b := by simp [landings]

theorem landings_map_land (ls : List Landing) : landings (ls.map .land) = ls := by
  simp [landings, List.filterMap_map, Function.comp_def]

theorem applyAll_cons (s : State) (e : Eff) (es : List Eff) : applyAll s (e :: es) = applyAll (applyEff s e) es := rfl

theorem applyAll_append (s : State) (a b : List Eff) : applyAll s (a ++ b) = applyAll (applyAll s a) b := by
  simp [applyAll]

/-- The state with other results in flight, held values, stream bindings, full/empty bits, MMST and release-sequence words. -/
def State.moved (s : State) (fl : List Landing) (hd : HeldSet) (q : Vector Stream 8) (fu : Bits) (mm : BitVec 3) (sw : Bits) : State :=
  { s.setCore { s.core with
      thr := { s.thr with flight := fl, held := hd, q := q, ctl := { s.thr.ctl with mmst := mm } }, full := fu } with seqWords := sw }

theorem State.moved_moved (s : State) (fl gl : List Landing) (hd ge : HeldSet) (q r : Vector Stream 8) (fu gu : Bits) (mm nm : BitVec 3)
    (sw tw : Bits) : (s.moved fl hd q fu mm sw).moved gl ge r gu nm tw = s.moved gl ge r gu nm tw := rfl

/-- What one quiet effect does. -/
theorem applyEff_quiet (s : State) (e : Eff) (h : e.quiet = true) :
    ∃ hd q fu mm sw, applyEff s e = s.moved (s.thr.flight ++ landings [e]) hd q fu mm sw := by
  refine ⟨(applyEff s e).thr.held, (applyEff s e).thr.q, (applyEff s e).core.full, (applyEff s e).mmst, (applyEff s e).seqWords, ?_⟩
  cases e <;> first | cases h | skip
  all_goals simp only [landings, List.filterMap_cons, List.filterMap_nil, List.append_nil]
  all_goals rfl

/-- Quiet effects put their results in flight and touch nothing but held values, stream bindings, full/empty bits and what reading a
stream acquires. -/
theorem applyAll_quiet (s : State) (es : List Eff) (h : ∀ e ∈ es, e.quiet = true) :
    ∃ hd q fu mm sw, applyAll s es = s.moved (s.thr.flight ++ landings es) hd q fu mm sw := by
  induction es generalizing s with
  | nil => exact ⟨s.thr.held, s.thr.q, s.core.full, s.mmst, s.seqWords, by simp [applyAll, landings, State.moved, State.setCore]⟩
  | cons e es ih =>
    obtain ⟨hd, q, fu, mm, sw, hr⟩ := ih (applyEff s e) fun x hx => h x (by simp [hx])
    obtain ⟨hd', q', fu', mm', sw', he⟩ := applyEff_quiet s e (h e (by simp))
    refine ⟨hd, q, fu, mm, sw, ?_⟩
    rw [applyAll_cons, hr, he, State.moved_moved]
    have : landings (e :: es) = landings [e] ++ landings es := landings_append [e] es
    rw [this, ← List.append_assoc]; rfl

/-- Stream and held-value effects look only at the stream bindings, the full/empty bits and the held values: two states that agree on
them, and in which the results in flight may differ, agree after such effects. -/
theorem applyAll_split (s : State) (xs ys : List Eff) (hx : ∀ e ∈ xs, (∃ q, e = .streamTake q) ∨ ∃ q, e = .streamOwe q)
    (hy : ∀ e ∈ ys, (∃ k x, e = .holdS k x) ∨ (∃ k x, e = .holdV k x) ∨ ∃ k, e = .unhold k) :
    applyAll s (xs ++ ys) = s.moved s.thr.flight (applyAll s ys).thr.held (applyAll s xs).thr.q (applyAll s xs).core.full
      (applyAll s xs).mmst (applyAll s xs).seqWords := by
  have hxs : ∀ (s : State) (xs : List Eff), (∀ e ∈ xs, (∃ q, e = .streamTake q) ∨ ∃ q, e = .streamOwe q) →
      applyAll s xs = s.moved s.thr.flight s.thr.held (applyAll s xs).thr.q (applyAll s xs).core.full (applyAll s xs).mmst
        (applyAll s xs).seqWords := by
    intro s xs
    induction xs generalizing s with
    | nil => intro _; rfl
    | cons e xs ih =>
      intro h
      have := ih (applyEff s e) fun x hx => h x (by simp [hx])
      rw [applyAll_cons]
      rcases h e (by simp) with ⟨q, rfl⟩ | ⟨q, rfl⟩ <;> exact this
  have hys : ∀ (s t : State) (ys : List Eff), (∀ e ∈ ys, (∃ k x, e = .holdS k x) ∨ (∃ k x, e = .holdV k x) ∨ ∃ k, e = .unhold k) →
      s.thr.held = t.thr.held → applyAll s ys = s.setCore { s.core with thr := { s.thr with held := (applyAll t ys).thr.held } } := by
    intro s t ys
    induction ys generalizing s t with
    | nil => intro _ h; simp only [applyAll, List.foldl_nil, ← h]; rfl
    | cons e ys ih =>
      intro h hh
      rcases h e (by simp) with ⟨k, x, rfl⟩ | ⟨k, x, rfl⟩ | ⟨k, rfl⟩
      all_goals
        rw [applyAll_cons, applyAll_cons]
        exact ih _ _ (fun x hx => h x (by simp [hx])) (by simp only [applyEff, State.modThr, hh])
  rw [applyAll_append, hys (applyAll s xs) s ys hy (by rw [hxs s xs hx]; rfl), hxs s xs hx]
  rfl

theorem streamEffs_shape (i : Instr) : ∀ e ∈ streamEffs i, (∃ q, e = .streamTake q) ∨ ∃ q, e = .streamOwe q := by
  intro e he
  simp only [streamEffs, List.mem_map] at he
  obtain ⟨x, -, rfl⟩ := he
  split
  · exact .inl ⟨_, rfl⟩
  · exact .inr ⟨_, rfl⟩

theorem State.holdEffs_shape (s : State) (k : Nat) (i : Instr) :
    ∀ e ∈ s.holdEffs k i, (∃ k x, e = .holdS k x) ∨ (∃ k x, e = .holdV k x) ∨ ∃ k, e = .unhold k := by
  intro e he
  rcases s.holdEffs_held k i e he with ⟨x, rfl⟩ | ⟨x, rfl⟩ | rfl
  · exact .inl ⟨_, _, rfl⟩
  · exact .inr (.inl ⟨_, _, rfl⟩)
  · exact .inr (.inr ⟨_, rfl⟩)

/-- What an instruction's operands add to its effects, as an equation. -/
theorem State.operands_eq (u s : State) (i : Instr) :
    applyAll u (streamEffs i ++ s.holdEffs (slotNo i) i) = u.moved u.thr.flight (applyAll u (s.holdEffs (slotNo i) i)).thr.held
      (applyAll u (streamEffs i)).thr.q (applyAll u (streamEffs i)).core.full (applyAll u (streamEffs i)).mmst
      (applyAll u (streamEffs i)).seqWords :=
  applyAll_split u _ _ (streamEffs_shape i) (s.holdEffs_shape _ i)

/-! ### Reading through pages -/

/-- Nothing but what `Asked` names differs. -/
def OnlyAsked (s t : State) : Prop := t = { s with dies := t.dies, outbox := t.outbox } ∧ Asked s t

theorem Asked.refl (s : State) : Asked s s := ⟨fun d => ⟨_, _, rfl⟩, List.prefix_refl _⟩

theorem OnlyAsked.refl (s : State) : OnlyAsked s s := ⟨rfl, Asked.refl s⟩

theorem OnlyAsked.trans {s t u : State} (h : OnlyAsked s t) (k : OnlyAsked t u) : OnlyAsked s u := by
  refine ⟨?_, fun d => ?_, h.2.2.trans k.2.2⟩
  · have h1 := h.1; have k1 := k.1; rw [k1, h1]
  · obtain ⟨p, o, hp⟩ := h.2.1 d
    obtain ⟨p', o', kp⟩ := k.2.1 d
    exact ⟨p', o', by rw [kp, hp]⟩

theorem State.send_asked (s : State) (o : Out) : OnlyAsked s (s.send o) := ⟨rfl, fun _ => ⟨_, _, rfl⟩, List.prefix_append _ _⟩

theorem State.modDie_asked (s : State) (n : Nat) (f : Die → Die) (hf : ∀ d, ∃ p o, f d = { d with pinned := p, poolOvf := o }) :
    OnlyAsked s (s.modDie n f) := by
  unfold State.modDie
  split
  · rename_i hn
    refine ⟨rfl, fun d => ?_, List.prefix_refl _⟩
    obtain ⟨p, o, e⟩ := hf (s.dies[n])
    simp only [State.die]
    by_cases hd : d = n
    · subst hd; exact ⟨p, o, by simp [e, hn]⟩
    · by_cases h8 : d < 8
      · exact ⟨s.dies[d].pinned, s.dies[d].poolOvf, by simp [h8, Vector.getElem_set_ne _ _ (Ne.symm hd)]⟩
      · exact ⟨({} : Die).pinned, ({} : Die).poolOvf, by simp [h8]⟩
  · exact OnlyAsked.refl s

/-- What each step of a fold keeps of the first state holds of the last. -/
theorem foldl_asked {β : Type} (f : State → β → State) (hf : ∀ s b, OnlyAsked s (f s b)) :
    ∀ (l : List β) (s : State), OnlyAsked s (l.foldl f s)
  | [], s => OnlyAsked.refl s
  | b :: l, s => (hf s b).trans (foldl_asked f hf l (f s b))

theorem State.pin_asked (s : State) (pa n : Nat) : OnlyAsked s (s.pin pa n) :=
  foldl_asked _ (fun s l => s.modDie_asked _ _ fun d => by
    split
    · exact ⟨_, _, rfl⟩
    · split
      · exact ⟨_, _, rfl⟩
      · exact ⟨_, _, rfl⟩) _ _

theorem State.agentReach_asked (s : State) (ctx : Nat) (va : DWord) (n : Nat) : OnlyAsked s (s.agentReach ctx va n) := by
  unfold State.agentReach
  refine foldl_asked _ (fun t p => ?_) _ _
  split
  · split
    · exact OnlyAsked.refl t
    · exact t.pin_asked _ _
  · exact t.send_asked _
  · exact OnlyAsked.refl t

theorem State.tableReach_asked (s : State) (i j : Nat) : OnlyAsked s (s.tableReach i j) := by
  unfold State.tableReach
  split
  · exact OnlyAsked.refl s
  · exact (s.agentReach_asked _ _ _).trans (State.agentReach_asked _ _ _ _)

/-- A request for a segment changes only the copy requested and the failure of the last one, beside reading the table. -/
theorem State.requestSegment_eq (s : State) (i : Nat) :
    ∃ cp sf t, s.requestSegment i = t.setCore { s.core with copying := cp, segFails := sf } ∧ OnlyAsked s t := by
  have same : s = s.setCore { s.core with copying := s.core.copying, segFails := s.core.segFails } := rfl
  unfold State.requestSegment
  split
  · exact ⟨_, _, s, same, OnlyAsked.refl s⟩
  · split
    · split
      · exact ⟨_, _, _, rfl, s.tableReach_asked _ _⟩
      · exact ⟨_, _, s, same, OnlyAsked.refl s⟩
    · exact ⟨_, _, s, same, OnlyAsked.refl s⟩

theorem State.askNext_eq (s : State) :
    ∃ cp sf t, s.askNext = t.setCore { s.core with copying := cp, segFails := sf } ∧ OnlyAsked s t := by
  unfold State.askNext
  split
  · exact s.requestSegment_eq _
  · exact ⟨_, _, s, rfl, OnlyAsked.refl s⟩

/-- Two states fetch the same code. -/
def SameCode (s t : State) : Prop :=
  t.cur = s.cur ∧ t.fwImem = s.fwImem ∧ t.core.banks = s.core.banks ∧ t.core.active = s.core.active

theorem State.codeByte_same {s t : State} (h : SameCode s t) (x : Nat) : t.codeByte x = s.codeByte x := by
  simp only [State.codeByte, State.fw, Core.bankOf, h.1, h.2.1, h.2.2.1, h.2.2.2]

/-- Skipping line pad looks only at the code. -/
theorem State.skipPad_same {s t : State} (h : SameCode s t) (x : DWord) : t.skipPad x = s.skipPad x := by
  have hgo : ∀ f x, t.skipPadGo f x = s.skipPadGo f x := by
    intro f
    induction f with
    | zero => intro x; rfl
    | succ f ih => intro x; simp only [State.skipPadGo, State.codeByte_same h, ih]
  simp only [State.skipPad, hgo]

theorem State.sequel_same {s t : State} (h : SameCode s t) (hu : t.core.bun = s.core.bun) (hl : t.thr.loops = s.thr.loops) :
    t.sequel = s.sequel := by
  simp only [State.sequel, State.after, hu, State.skipPad_same h, hl]

/-- Effects that leave control to sequential advance. -/
def Eff.plain : Eff → Bool
  | .jump _ | .suspend | .exit | .sysc _ | .reth => false
  | _ => true

theorem Eff.plain_of_quiet {e : Eff} (h : e.quiet = true) : e.plain = true := by
  cases e <;> first | rfl | exact absurd h Bool.false_ne_true

/-- A bundle whose effects are plain advances sequentially. -/
theorem State.finish_plain (s : State) (es : List Eff) (h : ∀ e ∈ es, e.plain = true) :
    s.finish es = s.askNext.waitOver.advance := by
  have hno : ∀ e : Eff, e.plain = false → es.contains e = false := by
    intro e he
    simp only [List.contains_eq_mem, decide_eq_false_iff_not]
    intro hm; rw [h e hm] at he; simp at he
  have hj : jumpOf es = none := by
    simp only [jumpOf, List.findSome?_eq_none_iff]
    intro e he; have := h e he; cases e <;> first | rfl | exact absurd this Bool.false_ne_true
  have hy : syscOf es = none := by
    simp only [syscOf, List.findSome?_eq_none_iff]
    intro e he; have := h e he; cases e <;> first | rfl | exact absurd this Bool.false_ne_true
  simp only [State.finish, hno .reth rfl, hno .suspend rfl, hno .exit rfl, hj, hy, Bool.false_eq_true, if_false]

/-- Sequential advance, as `State.sequel` says it. -/
theorem State.advance_eq (v : State) : v.advance = v.setCore { v.core with
    thr := { v.thr with loops := v.sequel.1, pc := v.sequel.2.1, flight := v.thr.flight ++ rotation v.now v.sequel.2.2 }
    nextIssue := v.now + 1 + v.core.bun.idle, viaBranch := false } := by
  have hv : loopCheck v.thr.loops (v.skipPad (v.core.bun.addr + BitVec.ofNat 64 v.core.bun.len)) = v.sequel := rfl
  rw [State.advance, hv]
  rcases v.sequel with ⟨ls, pc, _ | b⟩ <;> simp [rotation]

/-- What follows quiet effects in a bundle that advances sequentially. -/
theorem State.finish_quiet (u : State) (hd : HeldSet) (q : Vector Stream 8) (fu : Bits) (mm : BitVec 3) (sw : Bits)
    (es : List Eff) (h : ∀ e ∈ es, e.plain = true) {t : State} (ht : t = (u.moved u.thr.flight hd q fu mm sw).finish es) :
    t.thr.loops = u.sequel.1 ∧ t.thr.pc = u.sequel.2.1 ∧ t.thr.flight = u.thr.flight ++ rotation u.now u.sequel.2.2 ∧
      t.core.nextIssue = u.now + 1 + u.core.bun.idle ∧ OnlyIssue u t ∧ t.thr.q = q ∧ t.core.full = fu ∧ t.mmst = mm ∧
      t.seqWords = sw ∧ t.thr.held = hd := by
  rw [State.finish_plain _ es h] at ht
  obtain ⟨cp, sf, v, hseg, hv, hk⟩ := State.askNext_eq (u.moved u.thr.flight hd q fu mm sw)
  generalize hds : v.dies = ds at hv
  generalize hob : v.outbox = ob at hv
  subst hv
  rw [hseg] at ht
  have hs : State.sequel (({ u.moved u.thr.flight hd q fu mm sw with dies := ds, outbox := ob } : State).setCore
      { (u.moved u.thr.flight hd q fu mm sw).core with copying := cp, segFails := sf }).waitOver = u.sequel := by
    exact State.sequel_same ⟨rfl, rfl, rfl, rfl⟩ rfl rfl
  rw [State.advance_eq, hs] at ht
  subst ht
  exact ⟨rfl, rfl, rfl, rfl, ⟨rfl, hk⟩, rfl, rfl, rfl, rfl, rfl⟩

/-- An instruction that commits with plain effects does them. -/
theorem does_of_next {s : State} {i : Instr} {es : List Eff} (h : exec i s = .next (s.commits i es))
    (hp : ∀ e ∈ es, e.plain = true) : Does i s (applyAll s es) := by
  have hq : ∀ e ∈ streamEffs i ++ s.holdEffs (slotNo i) i, e.quiet = true := by
    intro e he
    rcases List.mem_append.mp he with he | he
    · exact streamEffs_quiet i e he
    · exact State.holdEffs_quiet s _ i e he
  have hall : ∀ e ∈ es ++ streamEffs i ++ s.holdEffs (slotNo i) i, e.plain = true := by
    intro e he
    rw [List.append_assoc] at he
    rcases List.mem_append.mp he with he | he
    · exact hp e he
    · exact Eff.plain_of_quiet (hq e he)
  have ha := State.operands_eq (applyAll s es) s i
  have hf := State.finish_quiet (applyAll s es) _ _ _ _ _ _ hall
    (t := s.commits i es) (by rw [State.commits, State.commitBundle, List.append_assoc, applyAll_append, ha])
  exact ⟨_, h, hf.1, hf.2.1, hf.2.2.1, hf.2.2.2.1, hf.2.2.2.2.1, hf.2.2.2.2.2⟩

/-- An instruction that is free to act, checks its operands first and then gives plain effects, does them. -/
theorem does_of_operands {s : State} {i : Instr} {w : SlotWord} {r : Row} (hr : row i = some (w, r)) (h : s.ready i = true) (hn : s.roomHold i = false)
    {f : State → Res} (he : exec i s = s.runSlot i w (slotNo i) none none (withOperands (slotNo i) i f)) {es : List Eff}
    (hf : f s = .ok es) (hp : ∀ e ∈ es, e.plain = true) : Does i s (applyAll s es) :=
  does_of_next (he.trans (State.runSlot_operands hr h hn hf)) hp

theorem applyAll_lands (s : State) (ls : List Landing) :
    applyAll s (ls.map .land) = s.modThr fun t => { t with flight := t.flight ++ ls } := by
  induction ls generalizing s with
  | nil => simp [applyAll, State.modThr]
  | cons l ls ih => rw [List.map_cons, applyAll_cons, ih]; simp [applyEff, State.modThr]

/-- An instruction that is free to act, checks its operands first and then lands results, gives them. -/
theorem gives_of_land {s : State} {i : Instr} {w : SlotWord} {r : Row} (hr : row i = some (w, r)) (h : s.ready i = true) (hn : s.roomHold i = false)
    {f : State → Res} (he : exec i s = s.runSlot i w (slotNo i) none none (withOperands (slotNo i) i f)) {ls : List Landing}
    (hf : f s = .ok (ls.map .land)) : Gives i s ls := by
  have := does_of_operands hr h hn he hf
    (fun e he => by obtain ⟨l, -, rfl⟩ := List.mem_map.mp he; rfl)
  rwa [applyAll_lands] at this

/-! ### Branches, exceptions and holds -/

/-- What follows quiet effects in a bundle that branches. -/
theorem State.finish_jump (u : State) (hd : HeldSet) (q : Vector Stream 8) (fu : Bits) (mm : BitVec 3) (sw : Bits) (es : List Eff)
    (target : DWord) (hr : es.contains .reth = false) (hj : jumpOf es = some target) {t : State}
    (ht : t = (u.moved u.thr.flight hd q fu mm sw).finish es) :
    t = { u.setCore { u.core with
      thr := { u.thr.clearLatches with
        pc := target, held := t.thr.held, q := t.thr.q, ctl := { u.thr.ctl with mmst := t.mmst }
        breakSkip := false, waited := 0, wlimF := none, barv := none }
      freezeReq := u.barvFreeze, full := t.core.full, nextIssue := u.now + 3 + u.core.bun.idle, viaBranch := true, copying := t.core.copying
      segFails := t.core.segFails, waitInfo := none, wfaults := [], found := [] } with
      seqWords := t.seqWords, dies := t.dies, outbox := t.outbox } ∧ Asked u t ∧
      t.thr.q = q ∧ t.core.full = fu ∧ t.mmst = mm ∧ t.seqWords = sw ∧ t.thr.held = hd := by
  obtain ⟨cp, sf, v, hseg, hv, hk⟩ := State.askNext_eq (u.moved u.thr.flight hd q fu mm sw)
  simp only [State.finish, hr, hj, Bool.false_eq_true, if_false] at ht
  generalize hds : v.dies = ds at hv
  generalize hob : v.outbox = ob at hv
  subst hv
  rw [hseg] at ht
  subst ht
  exact ⟨rfl, hk, rfl, rfl, rfl, rfl, rfl⟩

/-- An instruction that commits with a branch among its effects jumps. -/
theorem jumps_of_next {s : State} {i : Instr} {es : List Eff} {target : DWord} (h : exec i s = .next (s.commits i es))
    (hr : es.contains .reth = false) (hj : jumpOf es = some target) : Jumps i s (applyAll s es) target := by
  have hq : ∀ e ∈ streamEffs i ++ s.holdEffs (slotNo i) i, e.quiet = true := by
    intro e he
    rcases List.mem_append.mp he with he | he
    · exact streamEffs_quiet i e he
    · exact State.holdEffs_quiet s _ i e he
  have ha := State.operands_eq (applyAll s es) s i
  have hcr : (es ++ (streamEffs i ++ s.holdEffs (slotNo i) i)).contains .reth = false := by
    rw [List.contains_eq_any_beq, List.any_append, ← List.contains_eq_any_beq, hr, Bool.false_or, List.any_eq_false]
    intro e he hb
    have := hq e he
    rw [← eq_of_beq hb] at this; exact absurd this Bool.false_ne_true
  have hcj : jumpOf (es ++ (streamEffs i ++ s.holdEffs (slotNo i) i)) = some target := by
    simp only [jumpOf, List.findSome?_append] at hj ⊢
    rw [hj]; rfl
  have hf := State.finish_jump (applyAll s es) _ _ _ _ _ (es ++ (streamEffs i ++ s.holdEffs (slotNo i) i)) target hcr hcj
    (t := s.commits i es) (by rw [State.commits, State.commitBundle, List.append_assoc, applyAll_append, ha])
  exact ⟨_, h, hf.2.2, hf.2.1, hf.1⟩

/-- An instruction that is free to act, checks its operands first and then branches, jumps. -/
theorem jumps_of_operands {s : State} {i : Instr} {w : SlotWord} {r : Row} (hr : row i = some (w, r)) (h : s.ready i = true) (hn : s.roomHold i = false)
    {f : State → Res} (he : exec i s = s.runSlot i w (slotNo i) none none (withOperands (slotNo i) i f)) {es : List Eff}
    (hf : f s = .ok es) {target : DWord} (hc : es.contains .reth = false) (hj : jumpOf es = some target) :
    Jumps i s (applyAll s es) target :=
  jumps_of_next (he.trans (State.runSlot_operands hr h hn hf)) hc hj

/-- An exception that is always raised at once: no window violation (R375), and no fault that a provisional step defers (R266). -/
def promptTrap (x : TrapInfo) : Bool := x.cause != 0 && x.cause != causeXlate && x.cause != causeProtect

/-- A void bundle whose exception is not deferred raises it. -/
theorem State.voidBundle_raises {s : State} {x : TrapInfo} (h : promptTrap x = true) : s.voidBundle x [] = s.raises x := by
  simp only [promptTrap, Bool.and_eq_true, bne_iff_ne, ne_eq] at h
  have hd : s.bundleOver.defers x = false := by
    simp [State.defers, h.1.2, h.2]
  simp only [State.voidBundle, applyAll, List.foldl_nil, h.1.1, if_false, hd, Bool.false_eq_true]
  rfl

/-- A free slot whose look raises an exception traps. -/
theorem traps_of_operands {s : State} {i : Instr} {w : SlotWord} {r : Row} (hr : row i = some (w, r)) (h : s.ready i = true) (hn : s.roomHold i = false)
    {f : State → Res} (he : exec i s = s.runSlot i w (slotNo i) none none (withOperands (slotNo i) i f)) {x : TrapInfo}
    (hf : f s = .trap x []) (hx : promptTrap x = true) : Traps i s x := by
  have hs := ((State.ready_iff hr).mp h).1
  have hl : s.lookSlot i w (slotNo i) none none (withOperands (slotNo i) i f) = .trap x [] := by
    rw [State.lookSlot_free hr h hn, withOperands_ready hr h, hf]
  rw [Traps, he, State.runSlot_alone hs, hl, State.closeBundle_trap hs, State.voidBundle_raises hx]

/-- A free slot that raises ILLEGAL_OP or PRIVILEGE at issue traps. -/
theorem traps_of_ill {s : State} {i : Instr} {w : SlotWord} {r : Row} (hr : row i = some (w, r)) (h : s.ready i = true) (hn : s.roomHold i = false)
    {f : State → Res} {x : TrapInfo} (he : exec i s = s.runSlot i w (slotNo i) none (some x) f)
    (hx : promptTrap x = true) : Traps i s x := by
  have hs := ((State.ready_iff hr).mp h).1
  have hl : s.lookSlot i w (slotNo i) none (some x) f = .trap x [] := by rw [State.lookSlot_free hr h hn]
  rw [Traps, he, State.runSlot_alone hs, hl, State.closeBundle_trap hs, State.voidBundle_raises hx]

/-- A free slot whose look holds, holds the bundle. -/
theorem holds_of_operands {s : State} {i : Instr} {w : SlotWord} {r : Row} (hr : row i = some (w, r)) (h : s.ready i = true) (hn : s.roomHold i = false)
    {f : State → Res} (he : exec i s = s.runSlot i w (slotNo i) none none (withOperands (slotNo i) i f)) {x : WaitInfo}
    (hf : f s = .hold x []) : Holds i s x := by
  have hs := ((State.ready_iff hr).mp h).1
  have hl : s.lookSlot i w (slotNo i) none none (withOperands (slotNo i) i f) = .hold x [] := by
    rw [State.lookSlot_free hr h hn, withOperands_ready hr h, hf]
  rw [Holds, he, State.runSlot_alone hs, hl, State.closeBundle_hold hs]

/-- A free slot whose own encoding check fails raises that exception. -/
theorem traps_of_enc {s : State} {i : Instr} {w : SlotWord} {r : Row} (hr : row i = some (w, r)) (h : s.ready i = true) (hn : s.roomHold i = false)
    {f : State → Res} {x : TrapInfo} {ill : Option TrapInfo} (he : exec i s = s.runSlot i w (slotNo i) (some x) ill f)
    (hx : promptTrap x = true) : Traps i s x := by
  obtain ⟨hs, h2, -⟩ := (State.ready_iff hr).mp h
  have hl : s.lookSlot i w (slotNo i) (some x) ill f = .enc x := by unfold State.lookSlot; rw [h2]
  rw [Traps, he, State.runSlot_alone hs, hl, State.closeBundle_enc hs, State.voidBundle_raises hx]

/-! ### Control effects -/

/-- Effects that only deliver results do not say where control goes. -/
theorem State.finish_append_quiet (s : State) (es qs : List Eff) (h : ∀ e ∈ qs, e.quiet = true) : s.finish (es ++ qs) = s.finish es := by
  have hc : ∀ x : Eff, x.quiet = false → (es ++ qs).contains x = es.contains x := by
    intro x hx
    rw [List.contains_eq_any_beq, List.contains_eq_any_beq, List.any_append]
    have : qs.any (fun e => x == e) = false := by
      rw [List.any_eq_false]
      intro e he hb
      rw [← eq_of_beq hb] at he; rw [h x he] at hx; exact absurd hx.symm Bool.false_ne_true
    rw [this, Bool.or_false]
  have hj : jumpOf (es ++ qs) = jumpOf es := by
    simp only [jumpOf, List.findSome?_append]
    rw [show qs.findSome? _ = none from List.findSome?_eq_none_iff.mpr fun e he => by
      have := h e he; cases e <;> first | rfl | exact absurd this Bool.false_ne_true]
    simp
  have hy : syscOf (es ++ qs) = syscOf es := by
    simp only [syscOf, List.findSome?_append]
    rw [show qs.findSome? _ = none from List.findSome?_eq_none_iff.mpr fun e he => by
      have := h e he; cases e <;> first | rfl | exact absurd this Bool.false_ne_true]
    simp
  simp only [State.finish, hc .reth rfl, hc .suspend rfl, hc .exit rfl, hj, hy]

/-- An instruction that is free to act, checks its operands first and then gives effects: its bundle finishes with those effects, held
values and what streams move apart. -/
theorem finish_of_operands {s : State} {i : Instr} {w : SlotWord} {r : Row} (hr : row i = some (w, r)) (h : s.ready i = true) (hn : s.roomHold i = false)
    {f : State → Res} (he : exec i s = s.runSlot i w (slotNo i) none none (withOperands (slotNo i) i f)) {es : List Eff}
    (hf : f s = .ok es) : ∃ hd q fu mm sw,
      exec i s = .next (State.finish ((applyAll s es).moved (applyAll s es).thr.flight hd q fu mm sw) es) := by
  have hq : ∀ e ∈ streamEffs i ++ s.holdEffs (slotNo i) i, e.quiet = true := by
    intro e he
    rcases List.mem_append.mp he with he | he
    · exact streamEffs_quiet i e he
    · exact State.holdEffs_quiet s _ i e he
  obtain ⟨hd, q, fu, mm, sw, ha⟩ := applyAll_quiet (applyAll s es) _ hq
  rw [landings_append, landings_streamEffs, State.landings_holdEffs, List.append_nil, List.append_nil] at ha
  refine ⟨hd, q, fu, mm, sw, ?_⟩
  rw [he, State.runSlot_operands hr h hn hf, State.commits, State.commitBundle, List.append_assoc, State.finish_append_quiet _ _ _ hq,
    applyAll_append, ha]

/-- The state in which a bundle whose effects only touch held values and what streams move decides where control goes. -/
theorem State.settled (s : State) (hd : HeldSet) (q : Vector Stream 8) (fu : Bits) (mm : BitVec 3) (sw : Bits) :
    ∃ cp sf ds ob, (s.moved s.thr.flight hd q fu mm sw).askNext.waitOver =
      { s.setCore { s.core with
        thr := { s.thr with
          held := hd, q := q, ctl := { s.thr.ctl with mmst := mm }, breakSkip := false, waited := 0, wlimF := none, barv := none }
        freezeReq := s.barvFreeze, full := fu, copying := cp, segFails := sf, waitInfo := none, wfaults := [], found := [] } with
        seqWords := sw, dies := ds, outbox := ob } ∧ Asked s { s with dies := ds, outbox := ob } := by
  obtain ⟨cp, sf, v, h, hv, hk⟩ := State.askNext_eq (s.moved s.thr.flight hd q fu mm sw)
  generalize hds : v.dies = ds at hv
  generalize hob : v.outbox = ob at hv
  subst hv
  exact ⟨cp, sf, ds, ob, by rw [h]; rfl, hk⟩

end Sys2Proof.Machine
end

