-- ==== Sys2Proof/Laws/Gates.lean ====
section
/-! SUPPORT. What every slot instruction has in common: it looks at its slot. -/

namespace Sys2Proof.Machine

/-- Every instruction with an encoding row looks at its slot; only LOOP and LOOPR have an encoding check of their own. -/
theorem exec_slot {i : Instr} {w : SlotWord} {r : Row} (hr : row i = some (w, r)) (s : State) :
    ∃ enc ill f, exec i s = s.runSlot i w (slotNo i) enc ill f ∧ ((∀ v, i ≠ .loop v ∧ i ≠ .loopr v) → enc = none) := by
  cases i <;> simp only [row, reduceCtorEq, Option.some.injEq, Prod.mk.injEq] at hr <;> obtain ⟨rfl, rfl⟩ := hr <;> first
    | exact ⟨none, _, _, rfl, fun _ => rfl⟩
    | exact ⟨_, _, _, rfl, fun h => absurd rfl (h _).1⟩
    | exact ⟨_, _, _, rfl, fun h => absurd rfl (h _).2⟩

end Sys2Proof.Machine
end

