-- ==== Sys2Proof/Laws/Table.lean ====
section
/-! SUPPORT. Tables, memories and sets in canonical form: reading back what was written, leaving every other entry alone, and keeping
the canonical form. -/

namespace Sys2Proof.Machine

variable {α : Type} [DecidableEq α]

/-! ### Reading after writing -/

/-- Every number listed lies above a bound. -/
def Table.above (b : Nat) (t : Table α) : Bool := t.all fun x => b < x.1

theorem Table.wf_cons {d : α} {k : Nat} {x : α} {t : Table α} :
    Table.wf d ((k, x) :: t) = true ↔ x ≠ d ∧ Table.above k t = true ∧ Table.wf d t = true := by
  induction t generalizing k x with
  | nil => simp [Table.wf, Table.above]
  | cons y t ih =>
    obtain ⟨k', x'⟩ := y
    have h := ih (k := k') (x := x')
    simp only [Table.wf, Bool.and_eq_true, decide_eq_true_eq, Table.above, List.all_cons, List.all_eq_true] at h ⊢
    constructor
    · rintro ⟨⟨h1, h2⟩, h3⟩
      obtain ⟨_, h5, h6⟩ := h.mp h3
      exact ⟨h1, ⟨h2, fun y hy => Nat.lt_trans h2 (h5 y hy)⟩, h3⟩
    · rintro ⟨h1, ⟨h2, _⟩, h3⟩
      exact ⟨⟨h1, h2⟩, h3⟩

omit [DecidableEq α] in
theorem tget_above {d : α} {t : Table α} {n : Nat} (h : Table.above n t = true) : tget d t n = d := by
  induction t with
  | nil => rfl
  | cons y t ih =>
    simp only [Table.above, List.all_cons, Bool.and_eq_true, decide_eq_true_eq] at h
    simp only [tget, Nat.ne_of_lt h.1, if_false]
    exact ih h.2

omit [DecidableEq α] in
theorem Table.above_mono {t : Table α} {a b : Nat} (h : a ≤ b) (hb : Table.above b t = true) : Table.above a t = true := by
  simp only [Table.above, List.all_eq_true, decide_eq_true_eq] at hb ⊢
  exact fun x hx => Nat.lt_of_le_of_lt h (hb x hx)

/-- A write leaves every other entry as it was. -/
theorem tget_tset_ne (d : α) (t : Table α) {n m : Nat} (v : α) (h : m ≠ n) : tget d (tset d t n v) m = tget d t m := by
  induction t with
  | nil => simp only [tset]; split <;> simp [tget, h]
  | cons y t ih =>
    obtain ⟨k, x⟩ := y
    simp only [tset]
    split
    · split <;> simp [tget, h]
    · split
      · subst n; split <;> simp [tget, h]
      · simp [tget, ih]

/-- A read after a write to the same place gives the value written, in a table in canonical form. -/
theorem tget_tset_self {d : α} {t : Table α} (n : Nat) (v : α) (h : Table.wf d t = true) : tget d (tset d t n v) n = v := by
  induction t with
  | nil => simp only [tset]; split <;> simp_all [tget]
  | cons y t ih =>
    obtain ⟨k, x⟩ := y
    obtain ⟨hx, ha, hw⟩ := Table.wf_cons.mp h
    simp only [tset]
    split
    · rename_i hlt
      split
      · rename_i hv; subst hv
        exact tget_above (by simp [Table.above, hlt]; simpa [Table.above] using Table.above_mono (Nat.le_of_lt hlt) ha)
      · simp [tget]
    · split
      · subst n
        split
        · rename_i hv; subst hv; exact tget_above ha
        · simp [tget]
      · rename_i h1 h2; simp only [tget, h2, if_false]; exact ih hw

theorem Table.above_tset {d : α} {t : Table α} {b n : Nat} {v : α} (hb : b < n) (h : Table.above b t = true) :
    Table.above b (tset d t n v) = true := by
  induction t with
  | nil => simp only [tset]; split <;> simp [Table.above, hb]
  | cons y t ih =>
    obtain ⟨k, x⟩ := y
    simp only [Table.above, List.all_cons, Bool.and_eq_true, decide_eq_true_eq] at h
    have ht : Table.above b t = true := h.2
    simp only [tset]
    split
    · split <;> simp [Table.above, hb, h.1] <;> simpa [Table.above] using ht
    · split
      · split
        · exact ht
        · simp [Table.above, hb]; simpa [Table.above] using ht
      · simp [Table.above, h.1]; simpa [Table.above] using ih ht

/-- A write keeps the canonical form. -/
theorem tset_wf {d : α} {t : Table α} (n : Nat) (v : α) (h : Table.wf d t = true) : Table.wf d (tset d t n v) = true := by
  induction t with
  | nil => simp only [tset]; split <;> simp_all [Table.wf]
  | cons y t ih =>
    obtain ⟨k, x⟩ := y
    obtain ⟨hx, ha, hw⟩ := Table.wf_cons.mp h
    simp only [tset]
    split
    · rename_i hlt
      split
      · exact h
      · rename_i hv
        exact Table.wf_cons.mpr ⟨hv, by simp [Table.above, hlt]; simpa [Table.above] using Table.above_mono (Nat.le_of_lt hlt) ha, h⟩
    · split
      · subst n
        split
        · exact hw
        · rename_i hv; exact Table.wf_cons.mpr ⟨hv, ha, hw⟩
      · exact Table.wf_cons.mpr ⟨hx, Table.above_tset (by omega) ha, ih hw⟩

/-- A change of an entry keeps the canonical form. -/
theorem tmod_wf {d : α} {t : Table α} (n : Nat) (f : α → α) (h : Table.wf d t = true) : Table.wf d (tmod d t n f) = true :=
  tset_wf n _ h

theorem tget_tmod_self {d : α} {t : Table α} (n : Nat) (f : α → α) (h : Table.wf d t = true) :
    tget d (tmod d t n f) n = f (tget d t n) := tget_tset_self n _ h

theorem tget_tmod_ne (d : α) (t : Table α) {n m : Nat} (f : α → α) (h : m ≠ n) : tget d (tmod d t n f) m = tget d t m :=
  tget_tset_ne d t _ h

/-! ### Memories -/

@[simp] theorem Mem.wf_nil : Mem.wf [] = true := rfl

theorem Mem.put_wf {m : Mem} (a : Nat) (b : Byte) (h : m.wf = true) : (m.put a b).wf = true := tset_wf a b h

theorem Mem.write_wf {m : Mem} (a : Nat) (bs : List Byte) (h : m.wf = true) : (m.write a bs).wf = true := by
  induction bs generalizing m a with
  | nil => exact h
  | cons b bs ih => exact ih (a + 1) (Mem.put_wf a b h)

theorem Mem.byte_put_self {m : Mem} (a : Nat) (b : Byte) (h : m.wf = true) : (m.put a b).byte a = b := tget_tset_self a b h

theorem Mem.byte_put_ne (m : Mem) {a x : Nat} (b : Byte) (h : x ≠ a) : (m.put a b).byte x = m.byte x := tget_tset_ne 0 m b h

/-- A write of bytes leaves every byte outside them as it was. -/
theorem Mem.byte_write_out (m : Mem) (a : Nat) (bs : List Byte) {x : Nat} (h : x < a ∨ a + bs.length ≤ x) :
    (m.write a bs).byte x = m.byte x := by
  induction bs generalizing m a with
  | nil => rfl
  | cons b bs ih =>
    simp only [List.length_cons] at h
    rw [Mem.write, ih _ _ (by omega), Mem.byte_put_ne _ _ (by omega)]

/-- A byte within a write reads as written. -/
theorem Mem.byte_write_in {m : Mem} (a : Nat) (bs : List Byte) (h : m.wf = true) (i : Nat) (hi : i < bs.length) :
    (m.write a bs).byte (a + i) = bs[i] := by
  induction bs generalizing m a i with
  | nil => simp at hi
  | cons b bs ih =>
    cases i with
    | zero => rw [Mem.write, Mem.byte_write_out _ _ _ (by omega)]; simpa using Mem.byte_put_self a b h
    | succ i =>
      have := ih (a + 1) (Mem.put_wf a b h) i (by simpa using hi)
      simpa [Mem.write, Nat.add_assoc, Nat.add_comm 1 i] using this

/-- Reading back what was written. -/
theorem Mem.read_write {m : Mem} (a : Nat) (bs : List Byte) (h : m.wf = true) : (m.write a bs).read a bs.length = bs := by
  have key : ∀ (m' : Mem) (n a' : Nat), m'.read a' n = (List.range n).map fun i => m'.byte (a' + i) := by
    intro m' n
    induction n with
    | zero => intro; rfl
    | succ n ih =>
      intro a'
      rw [Mem.read, ih, List.range_succ_eq_map, List.map_cons, List.map_map]
      simp only [Nat.add_zero, List.cons.injEq, true_and]
      exact List.map_congr_left fun i _ => by simp [Nat.add_assoc, Nat.add_comm 1 i]
  rw [key]
  apply List.ext_getElem (by simp)
  intro i h1 h2
  simpa using Mem.byte_write_in a bs h i h2

end Sys2Proof.Machine
end

