-- ==== Sys2Proof/Laws/Memory.lean ====
section
/-! SUPPORT. What the operations over physical memory change, and that each keeps the canonical form of memory and of its line tags
(R274, R275). -/

namespace Sys2Proof.Machine

/-- Memory and the tags of its lines are in their canonical form. -/
def State.memWf (s : State) : Prop := s.mem.wf = true ∧ Table.wf (0, 0) s.tags = true

/-- Only memory, its tags, its poison marks and its release sequences differ. -/
def OnlyMemory (s t : State) : Prop := t = { s with mem := t.mem, tags := t.tags, poison := t.poison, seqWords := t.seqWords }

theorem OnlyMemory.refl (s : State) : OnlyMemory s s := rfl

theorem OnlyMemory.trans {s t u : State} (h : OnlyMemory s t) (k : OnlyMemory t u) : OnlyMemory s u := by
  unfold OnlyMemory at *; rw [k, h]

theorem OnlyWrites.refl (s : State) : OnlyWrites s s := rfl

theorem OnlyWrites.trans {s t u : State} (h : OnlyWrites s t) (k : OnlyWrites t u) : OnlyWrites s u := by
  unfold OnlyWrites at *; rw [k, h]

theorem OnlyMemory.writes {s t : State} (h : OnlyMemory s t) : OnlyWrites s t := by
  unfold OnlyMemory OnlyWrites at *; rw [h]

/-- A property that each step of a fold keeps holds after it. -/
theorem foldl_keeps {α β : Type} (p : α → Prop) (f : α → β → α) (hf : ∀ a b, p a → p (f a b)) :
    ∀ (l : List β) (a : α), p a → p (l.foldl f a)
  | [], _, h => h
  | b :: l, a, h => foldl_keeps p f hf l (f a b) (hf a b h)

/-! ### Physical writes -/

theorem State.retag_only (s : State) (key line : Nat) : OnlyMemory s (s.retag key line) := by
  unfold State.retag
  split
  · exact OnlyMemory.refl s
  · generalize s.mem.write (128 * line) (List.replicate 128 0) = m
    rfl

theorem State.retag_wf {s : State} (key line : Nat) (h : s.memWf) : (s.retag key line).memWf := by
  have hm := Mem.write_wf (128 * line) (List.replicate 128 0) h.1
  unfold State.retag
  split
  · exact h
  · generalize s.mem.write (128 * line) (List.replicate 128 0) = m at hm ⊢
    exact ⟨hm, tset_wf _ _ h.2⟩

theorem State.writePA_only (s : State) (key pa : Nat) (bs : List Byte) : OnlyMemory s (s.writePA key pa bs) := by
  have h := foldl_keeps (OnlyMemory s) (fun s l => State.retag s key l) (fun t l k => k.trans (t.retag_only key l))
    (unitsOf 128 pa bs.length) s (OnlyMemory.refl s)
  unfold State.writePA
  dsimp only
  generalize (unitsOf 128 pa bs.length).foldl (fun s l => State.retag s key l) s = t at h ⊢
  exact h.trans rfl

theorem State.writePA_wf {s : State} (key pa : Nat) (bs : List Byte) (h : s.memWf) : (s.writePA key pa bs).memWf := by
  have k := foldl_keeps State.memWf (fun s l => State.retag s key l) (fun t l k => t.retag_wf key l k) (unitsOf 128 pa bs.length) s h
  unfold State.writePA
  dsimp only
  generalize (unitsOf 128 pa bs.length).foldl (fun s l => State.retag s key l) s = t at k ⊢
  exact ⟨Mem.write_wf _ _ k.1, k.2⟩

@[simp] theorem State.endSeq_mem (s : State) (loc n : Nat) : (s.endSeq loc n).mem = s.mem := rfl
@[simp] theorem State.endSeq_tags (s : State) (loc n : Nat) : (s.endSeq loc n).tags = s.tags := rfl

theorem State.endSeq_only (s : State) (loc n : Nat) : OnlyMemory s (s.endSeq loc n) := rfl

theorem State.endSeq_wf {s : State} (loc n : Nat) (h : s.memWf) : (s.endSeq loc n).memWf := h

theorem State.release_wf {s : State} (loc n : Nat) (r : Release) (h : s.memWf) : (s.release loc n r).memWf := h

theorem State.owe_wf {s : State} (va : Option DWord) (rank : Nat) (h : s.memWf) : (s.owe va rank).memWf := h

theorem State.send_wf {s : State} (o : Out) (h : s.memWf) : (s.send o).memWf := h

/-! ### Pinned lines (R271) -/

theorem State.modDie_only (s : State) (d : Nat) (f : Die → Die) : s.modDie d f = { s with dies := (s.modDie d f).dies } := by
  unfold State.modDie; split <;> rfl

theorem State.pin_only (s : State) (pa n : Nat) : s.pin pa n = { s with dies := (s.pin pa n).dies } := by
  refine foldl_keeps (fun t => t = { s with dies := t.dies }) _ (fun t l h => ?_) _ s rfl
  have k := t.modDie_only (homeDie (128 * l)) fun d =>
    if d.pinned.has l then d
    else if d.pinned.length < d.pool * 2 ^ 13 then { d with pinned := d.pinned.put l true } else { d with poolOvf := true }
  generalize t.modDie _ _ = u at k ⊢
  rw [k, h]

theorem State.pin_writes (s : State) (pa n : Nat) : OnlyWrites s (s.pin pa n) := by
  have h := s.pin_only pa n
  generalize s.pin pa n = t at h ⊢
  rw [h]; rfl

theorem State.pin_wf {s : State} (pa n : Nat) (h : s.memWf) : (s.pin pa n).memWf := by rw [s.pin_only pa n]; exact h

/-! ### Writes of agents, of the host and of engines -/

/-- What a fold of optional steps gives, where each step that answers keeps a property. -/
theorem foldl_option_keeps {α β : Type} (p : α → Prop) (f : Option α → β → Option α) (hn : ∀ b, f none b = none)
    (hf : ∀ a b c, p a → f (some a) b = some c → p c) : ∀ (l : List β) (a c : α), p a → l.foldl f (some a) = some c → p c
  | [], a, c, h, e => by cases e; exact h
  | b :: l, a, c, h, e => by
    rw [List.foldl_cons] at e
    cases hx : f (some a) b with
    | none =>
      rw [hx] at e
      have : ∀ l : List β, l.foldl f none = none := fun l => by induction l with
        | nil => rfl
        | cons b l ih => rw [List.foldl_cons, hn, ih]
      rw [this] at e; cases e
    | some d => rw [hx] at e; exact foldl_option_keeps p f hn hf l d c (hf a b d h hx) e

/-- An agent's write that is not refused changes memory and what has been sent out and not been acknowledged, and keeps the canonical form. -/
theorem State.agentWrite_keeps {s t : State} {ctx : Nat} {user : Bool} {va : DWord} {bs : List Byte} {whose : AwayBy}
    (e : s.agentWrite ctx user va bs whose = some t) : OnlyWrites s t ∧ (s.memWf → t.memWf) := by
  unfold State.agentWrite at e
  refine foldl_option_keeps (fun t => OnlyWrites s t ∧ (s.memWf → t.memWf)) _ (fun _ => rfl) ?_ _ s t ⟨OnlyWrites.refl s, id⟩ e
  rintro a b c ⟨h, k⟩ he
  simp only at he
  split at he
  · cases he
  · rename_i pa _ _ pool _
    cases he
    have w : OnlyWrites a (if pool = 0 then a else a.pin pa b.2.2) ∧ (a.memWf → (if pool = 0 then a else a.pin pa b.2.2).memWf) := by
      split
      · exact ⟨OnlyWrites.refl a, id⟩
      · exact ⟨a.pin_writes _ _, State.pin_wf _ _⟩
    exact ⟨(h.trans w.1).trans ((State.writePA_only _ _ _ _).trans (State.endSeq_only _ _ _)).writes,
      fun hs => State.endSeq_wf _ _ (State.writePA_wf _ _ _ (w.2 (k hs)))⟩
  · cases he
    refine ⟨h.trans ?_, fun hs => k hs⟩
    generalize Out.remote _ _ _ _ = o
    generalize AwayAck.mk _ _ _ _ = x
    rfl

theorem State.agentWrite_wf {s t : State} {ctx : Nat} {user : Bool} {va : DWord} {bs : List Byte} {whose : AwayBy}
    (e : s.agentWrite ctx user va bs whose = some t) (h : s.memWf) : t.memWf := (State.agentWrite_keeps e).2 h

/-- An agent's write, performed or refused. -/
theorem State.agentWrite_getD_wf {s : State} (ctx : Nat) (user : Bool) (va : DWord) (bs : List Byte) (whose : AwayBy) (h : s.memWf) :
    ((s.agentWrite ctx user va bs whose).getD s).memWf := by
  cases e : s.agentWrite ctx user va bs whose with
  | none => exact h
  | some t => exact State.agentWrite_wf e h

theorem State.hostWrite_wf {s : State} (pa : Nat) (bs : List Byte) (h : s.memWf) : (s.hostWrite pa bs).memWf :=
  foldl_keeps State.memWf _ (fun _ _ k => State.endSeq_wf _ _ (State.writePA_wf _ _ _ k)) _ _ h

theorem State.interrupt_wf {s : State} (vec : Nat) (h : s.memWf) : (s.interrupt vec).memWf := by
  unfold State.interrupt; split <;> exact h

theorem State.appendError_wf {s : State} (launch : Nat) (e : ErrEntry) (h : s.memWf) : (s.appendError launch e).memWf := by
  unfold State.appendError
  split
  · exact h
  · rename_i l _
    dsimp only
    have h0 : (s.modLaunch launch fun x => { x with errs := min (l.errs + 1) 0xFFFFFFFF, errSent := true }).memWf := h
    generalize s.modLaunch launch _ = a at h0 ⊢
    have h1 := State.agentWrite_getD_wf l.ctx false l.erec (natBytes 4 (min (l.errs + 1) 0xFFFFFFFF) ++ List.replicate 28 0)
      { queue := some l.queue } h0
    generalize (a.agentWrite _ _ _ _ _).getD a = b at h1 ⊢
    have h2 := State.agentWrite_getD_wf l.ctx false (l.erec + BitVec.ofNat 64 (32 + 32 * l.errs)) e.bytes { queue := some l.queue } h1
    generalize (b.agentWrite _ _ _ _ _).getD b = c at h2 ⊢
    split <;> split <;> first | exact State.interrupt_wf _ h2 | exact State.interrupt_wf _ h1 | exact h2 | exact h1

theorem State.putPieces_wf {s : State} (bs : List Byte) (bad : Nat → Bool) (ps : List Piece) (h : s.memWf) :
    (s.putPieces bs bad ps).memWf := by
  refine foldl_keeps State.memWf _ (fun t p k => ?_) _ _ h
  dsimp only
  split
  · exact State.owe_wf _ _ (State.send_wf _ k)
  split
  · exact State.appendError_wf _ _ k
  · have w := State.writePA_wf p.key p.pa ((bs.drop p.off).take p.len) k
    generalize t.writePA p.key p.pa _ = u at w ⊢
    exact w

/-- A contribution to another package changes only its job's reduction key and the outbox (R385). -/
theorem State.sendPart_eq (s : State) (c : Contribution) :
    ∃ x f, s.sendPart c = { s with trust := x, outbox := s.outbox ++ [.contribution c f] } := by
  unfold State.sendPart
  split
  · exact ⟨s.trust, none, rfl⟩
  · exact ⟨_, _, rfl⟩

theorem State.sendPart_wf {s : State} (c : Contribution) (h : s.memWf) : (s.sendPart c).memWf := by
  obtain ⟨x, f, e⟩ := s.sendPart_eq c
  rw [e]; exact h

theorem State.commitItem_wf {s : State} (e : PsbEntry) (i : ProvItem) (h : s.memWf) : (s.commitItem e i).memWf := by
  cases i with
  | bytes pa key bs =>
    simp only [State.commitItem]
    split
    · exact State.appendError_wf _ _ h
    · exact State.release_wf _ _ _ (State.endSeq_wf _ _ (State.writePA_wf _ _ _ h))
  | red pa key op n b =>
    simp only [State.commitItem]
    split
    · exact State.appendError_wf _ _ h
    · exact State.release_wf _ _ _ (State.writePA_wf _ _ _ h)
  | away r va bs => exact h
  | awayRed r va op n b => exact h
  | tree line c own =>
    simp only [State.commitItem]
    split
    · exact h
    · exact State.sendPart_wf c h

theorem State.signal_wf {s : State} (ctx : Nat) (va : DWord) (op : Nat) (b : DWord) (whose : AwayBy) (h : s.memWf) :
    (s.signal ctx va op b whose).memWf := by
  unfold State.signal
  split
  · rename_i pa key _ pool _
    have p : (if pool = 0 then s else s.pin pa 8).memWf := by
      split
      · exact h
      · exact State.pin_wf _ _ h
    exact State.release_wf _ _ _ (State.endSeq_wf _ _ (State.writePA_wf _ _ _ p))
  · exact State.send_wf _ h
  · exact h

theorem State.reset_memWf : State.reset.memWf := ⟨rfl, rfl⟩

end Sys2Proof.Machine
end

