-- ==== Sys2Proof/Laws/PerInstr.lean ====
section
/-! SUPPORT. One lemma for each constructor of Instr: the opcode and the fields of its encoding row name it again. -/

namespace Sys2Proof.Laws

open Sys2Proof.Machine

/-- The slot, the opcode and the fields of a well-formed slot instruction name that instruction in the opcode table (R62, R82); an event
has no encoding row. -/
def Fields.Statement (i : Instr) : Prop :=
  i.wf = true → ∀ (w : SlotWord) (r : Row), row i = some (w, r) → ofOpcode r.slot r.op w = some i

/-- A row whose checks pass has a valid MOD field (R79). -/
theorem rowErr_mod {fw : Bool} {r : Row} {w : SlotWord} (h : rowErr fw r w = none) : r.mod = true := by
  simp only [rowErr, Option.or_eq_none_iff] at h
  cases hm : r.mod
  · simp [hm] at h
  · rfl

theorem Fields.br (w : SlotWord) : Fields.Statement (.br w) := by
  rintro _ _ _ ⟨⟩; rfl

theorem Fields.call (w : SlotWord) : Fields.Statement (.call w) := by
  rintro _ _ _ ⟨⟩; rfl

theorem Fields.bri (w : SlotWord) : Fields.Statement (.bri w) := by
  rintro _ _ _ ⟨⟩; rfl

theorem Fields.ret (w : SlotWord) : Fields.Statement (.ret w) := by
  rintro _ _ _ ⟨⟩; rfl

theorem Fields.loop (w : SlotWord) : Fields.Statement (.loop w) := by
  rintro _ _ _ ⟨⟩; rfl

theorem Fields.loopr (w : SlotWord) : Fields.Statement (.loopr w) := by
  rintro _ _ _ ⟨⟩; rfl

theorem Fields.lexit (w : SlotWord) : Fields.Statement (.lexit w) := by
  rintro _ _ _ ⟨⟩; rfl

theorem Fields.pand (w : SlotWord) : Fields.Statement (.pand w) := by
  rintro _ _ _ ⟨⟩; rfl

theorem Fields.por (w : SlotWord) : Fields.Statement (.por w) := by
  rintro _ _ _ ⟨⟩; rfl

theorem Fields.pxor (w : SlotWord) : Fields.Statement (.pxor w) := by
  rintro _ _ _ ⟨⟩; rfl

theorem Fields.pandn (w : SlotWord) : Fields.Statement (.pandn w) := by
  rintro _ _ _ ⟨⟩; rfl

theorem Fields.pmov (w : SlotWord) : Fields.Statement (.pmov w) := by
  rintro _ _ _ ⟨⟩; rfl

theorem Fields.mfc (w : SlotWord) : Fields.Statement (.mfc w) := by
  rintro _ _ _ ⟨⟩; rfl

theorem Fields.mtc (w : SlotWord) : Fields.Statement (.mtc w) := by
  rintro _ _ _ ⟨⟩; rfl

theorem Fields.waitc (w : SlotWord) : Fields.Statement (.waitc w) := by
  rintro _ _ _ ⟨⟩; rfl

theorem Fields.waito (w : SlotWord) : Fields.Statement (.waito w) := by
  rintro _ _ _ ⟨⟩; rfl

theorem Fields.dsync (w : SlotWord) : Fields.Statement (.dsync w) := by
  rintro _ _ _ ⟨⟩; rfl

theorem Fields.susp (w : SlotWord) : Fields.Statement (.susp w) := by
  rintro _ _ _ ⟨⟩; rfl

theorem Fields.exit (w : SlotWord) : Fields.Statement (.exit w) := by
  rintro _ _ _ ⟨⟩; rfl

theorem Fields.confw (w : SlotWord) : Fields.Statement (.confw w) := by
  rintro _ _ _ ⟨⟩; rfl

theorem Fields.trap (w : SlotWord) : Fields.Statement (.trap w) := by
  rintro _ _ _ ⟨⟩; rfl

theorem Fields.sysc (w : SlotWord) : Fields.Statement (.sysc w) := by
  rintro _ _ _ ⟨⟩; rfl

theorem Fields.reth (w : SlotWord) : Fields.Statement (.reth w) := by
  rintro _ _ _ ⟨⟩; rfl

theorem Fields.lease (w : SlotWord) : Fields.Statement (.lease w) := by
  rintro _ _ _ ⟨⟩; rfl

theorem Fields.unlease (w : SlotWord) : Fields.Statement (.unlease w) := by
  rintro _ _ _ ⟨⟩; rfl

theorem Fields.bkpt (w : SlotWord) : Fields.Statement (.bkpt w) := by
  rintro _ _ _ ⟨⟩; rfl

theorem Fields.segpf (w : SlotWord) : Fields.Statement (.segpf w) := by
  rintro _ _ _ ⟨⟩; rfl

theorem Fields.grab (w : SlotWord) : Fields.Statement (.grab w) := by
  rintro _ _ _ ⟨⟩; rfl

theorem Fields.emptyBundle (h : Header) : Fields.Statement (.emptyBundle h) := by
  rintro _ _ _ ⟨⟩

theorem Fields.add (w : SlotWord) : Fields.Statement (.add w) := by
  rintro _ _ _ ⟨⟩; rfl

theorem Fields.sub (w : SlotWord) : Fields.Statement (.sub w) := by
  rintro _ _ _ ⟨⟩; rfl

theorem Fields.mul (w : SlotWord) : Fields.Statement (.mul w) := by
  rintro _ _ _ ⟨⟩; rfl

theorem Fields.mulh (w : SlotWord) : Fields.Statement (.mulh w) := by
  rintro _ _ _ ⟨⟩; rfl

theorem Fields.div (w : SlotWord) : Fields.Statement (.div w) := by
  rintro _ _ _ ⟨⟩; rfl

theorem Fields.rem (w : SlotWord) : Fields.Statement (.rem w) := by
  rintro _ _ _ ⟨⟩; rfl

theorem Fields.and_ (w : SlotWord) : Fields.Statement (.and_ w) := by
  rintro _ _ _ ⟨⟩; rfl

theorem Fields.or_ (w : SlotWord) : Fields.Statement (.or_ w) := by
  rintro _ _ _ ⟨⟩; rfl

theorem Fields.xor_ (w : SlotWord) : Fields.Statement (.xor_ w) := by
  rintro _ _ _ ⟨⟩; rfl

theorem Fields.andn (w : SlotWord) : Fields.Statement (.andn w) := by
  rintro _ _ _ ⟨⟩; rfl

theorem Fields.shl (w : SlotWord) : Fields.Statement (.shl w) := by
  rintro _ _ _ ⟨⟩; rfl

theorem Fields.shr (w : SlotWord) : Fields.Statement (.shr w) := by
  rintro _ _ _ ⟨⟩; rfl

theorem Fields.rot (w : SlotWord) : Fields.Statement (.rot w) := by
  rintro _ _ _ ⟨⟩; rfl

theorem Fields.min_ (w : SlotWord) : Fields.Statement (.min_ w) := by
  rintro _ _ _ ⟨⟩; rfl

theorem Fields.max_ (w : SlotWord) : Fields.Statement (.max_ w) := by
  rintro _ _ _ ⟨⟩; rfl

theorem Fields.ext (w : SlotWord) : Fields.Statement (.ext w) := by
  rintro _ _ _ ⟨⟩; rfl

theorem Fields.clz (w : SlotWord) : Fields.Statement (.clz w) := by
  rintro _ _ _ ⟨⟩; rfl

theorem Fields.ctz (w : SlotWord) : Fields.Statement (.ctz w) := by
  rintro _ _ _ ⟨⟩; rfl

theorem Fields.popc (w : SlotWord) : Fields.Statement (.popc w) := by
  rintro _ _ _ ⟨⟩; rfl

theorem Fields.bfx (w : SlotWord) : Fields.Statement (.bfx w) := by
  rintro _ _ _ ⟨⟩; rfl

theorem Fields.bfi (w : SlotWord) : Fields.Statement (.bfi w) := by
  rintro _ _ _ ⟨⟩; rfl

theorem Fields.cmp (w : SlotWord) : Fields.Statement (.cmp w) := by
  rintro _ _ _ ⟨⟩; rfl

theorem Fields.csel (w : SlotWord) : Fields.Statement (.csel w) := by
  rintro _ _ _ ⟨⟩; rfl

theorem Fields.movi (w : SlotWord) : Fields.Statement (.movi w) := by
  rintro _ _ _ ⟨⟩; rfl

theorem Fields.movh (w : SlotWord) : Fields.Statement (.movh w) := by
  rintro _ _ _ ⟨⟩; rfl

theorem Fields.lea (w : SlotWord) : Fields.Statement (.lea w) := by
  rintro _ _ _ ⟨⟩; rfl

theorem Fields.sfadd (w : SlotWord) : Fields.Statement (.sfadd w) := by
  rintro _ _ _ ⟨⟩; rfl

theorem Fields.sfmul (w : SlotWord) : Fields.Statement (.sfmul w) := by
  rintro _ _ _ ⟨⟩; rfl

theorem Fields.sffma (w : SlotWord) : Fields.Statement (.sffma w) := by
  rintro _ _ _ ⟨⟩; rfl

theorem Fields.sfcmp (w : SlotWord) : Fields.Statement (.sfcmp w) := by
  rintro _ _ _ ⟨⟩; rfl

theorem Fields.sfcvt (w : SlotWord) : Fields.Statement (.sfcvt w) := by
  rintro _ _ _ ⟨⟩; rfl

theorem Fields.ldg (w : SlotWord) : Fields.Statement (.ldg w) := by
  rintro _ _ _ ⟨⟩; rfl

theorem Fields.stg (w : SlotWord) : Fields.Statement (.stg w) := by
  rintro _ _ _ ⟨⟩; rfl

theorem Fields.ldl (w : SlotWord) : Fields.Statement (.ldl w) := by
  rintro _ _ _ ⟨⟩; rfl

theorem Fields.stl (w : SlotWord) : Fields.Statement (.stl w) := by
  rintro _ _ _ ⟨⟩; rfl

theorem Fields.vldg (w : SlotWord) : Fields.Statement (.vldg w) := by
  rintro _ _ _ ⟨⟩; rfl

theorem Fields.vstg (w : SlotWord) : Fields.Statement (.vstg w) := by
  rintro _ _ _ ⟨⟩; rfl

theorem Fields.vldl (w : SlotWord) : Fields.Statement (.vldl w) := by
  rintro _ _ _ ⟨⟩; rfl

theorem Fields.vstl (w : SlotWord) : Fields.Statement (.vstl w) := by
  rintro _ _ _ ⟨⟩; rfl

theorem Fields.vgtg (w : SlotWord) : Fields.Statement (.vgtg w) := by
  rintro _ _ _ ⟨⟩; rfl

theorem Fields.vscg (w : SlotWord) : Fields.Statement (.vscg w) := by
  rintro _ _ _ ⟨⟩; rfl

theorem Fields.vgtl (w : SlotWord) : Fields.Statement (.vgtl w) := by
  rintro _ _ _ ⟨⟩; rfl

theorem Fields.vscl (w : SlotWord) : Fields.Statement (.vscl w) := by
  rintro _ _ _ ⟨⟩; rfl

theorem Fields.ldf (w : SlotWord) : Fields.Statement (.ldf w) := by
  rintro _ _ _ ⟨⟩; rfl

theorem Fields.ldfe (w : SlotWord) : Fields.Statement (.ldfe w) := by
  rintro _ _ _ ⟨⟩; rfl

theorem Fields.ste (w : SlotWord) : Fields.Statement (.ste w) := by
  rintro _ _ _ ⟨⟩; rfl

theorem Fields.stfl (w : SlotWord) : Fields.Statement (.stfl w) := by
  rintro _ _ _ ⟨⟩; rfl

theorem Fields.fez (w : SlotWord) : Fields.Statement (.fez w) := by
  rintro _ _ _ ⟨⟩; rfl

theorem Fields.feq (w : SlotWord) : Fields.Statement (.feq w) := by
  rintro _ _ _ ⟨⟩; rfl

theorem Fields.aadd (w : SlotWord) : Fields.Statement (.aadd w) := by
  rintro _ _ _ ⟨⟩; rfl

theorem Fields.afadd (w : SlotWord) : Fields.Statement (.afadd w) := by
  rintro _ _ _ ⟨⟩; rfl

theorem Fields.amin (w : SlotWord) : Fields.Statement (.amin w) := by
  rintro _ _ _ ⟨⟩; rfl

theorem Fields.amax (w : SlotWord) : Fields.Statement (.amax w) := by
  rintro _ _ _ ⟨⟩; rfl

theorem Fields.aand (w : SlotWord) : Fields.Statement (.aand w) := by
  rintro _ _ _ ⟨⟩; rfl

theorem Fields.aor (w : SlotWord) : Fields.Statement (.aor w) := by
  rintro _ _ _ ⟨⟩; rfl

theorem Fields.axor (w : SlotWord) : Fields.Statement (.axor w) := by
  rintro _ _ _ ⟨⟩; rfl

theorem Fields.axch (w : SlotWord) : Fields.Statement (.axch w) := by
  rintro _ _ _ ⟨⟩; rfl

theorem Fields.acas (w : SlotWord) : Fields.Statement (.acas w) := by
  rintro _ _ _ ⟨⟩; rfl

theorem Fields.ainsm (w : SlotWord) : Fields.Statement (.ainsm w) := by
  rintro _ _ _ ⟨⟩; rfl

theorem Fields.affcs (w : SlotWord) : Fields.Statement (.affcs w) := by
  rintro _ _ _ ⟨⟩; rfl

theorem Fields.apls (w : SlotWord) : Fields.Statement (.apls w) := by
  rintro _ _ _ ⟨⟩; rfl

theorem Fields.redadd (w : SlotWord) : Fields.Statement (.redadd w) := by
  rintro _ _ _ ⟨⟩; rfl

theorem Fields.redfadd (w : SlotWord) : Fields.Statement (.redfadd w) := by
  rintro _ _ _ ⟨⟩; rfl

theorem Fields.redmin (w : SlotWord) : Fields.Statement (.redmin w) := by
  rintro _ _ _ ⟨⟩; rfl

theorem Fields.redmax (w : SlotWord) : Fields.Statement (.redmax w) := by
  rintro _ _ _ ⟨⟩; rfl

theorem Fields.redand (w : SlotWord) : Fields.Statement (.redand w) := by
  rintro _ _ _ ⟨⟩; rfl

theorem Fields.redor (w : SlotWord) : Fields.Statement (.redor w) := by
  rintro _ _ _ ⟨⟩; rfl

theorem Fields.redxor (w : SlotWord) : Fields.Statement (.redxor w) := by
  rintro _ _ _ ⟨⟩; rfl

theorem Fields.reductionAck (access : Nat) : Fields.Statement (.reductionAck access) := by
  rintro _ _ _ ⟨⟩

theorem Fields.bari (w : SlotWord) : Fields.Statement (.bari w) := by
  rintro _ _ _ ⟨⟩; rfl

theorem Fields.barv (w : SlotWord) : Fields.Statement (.barv w) := by
  rintro _ _ _ ⟨⟩; rfl

theorem Fields.barw (w : SlotWord) : Fields.Statement (.barw w) := by
  rintro _ _ _ ⟨⟩; rfl

theorem Fields.fence (w : SlotWord) : Fields.Statement (.fence w) := by
  rintro _ _ _ ⟨⟩; rfl

theorem Fields.cpy (w : SlotWord) : Fields.Statement (.cpy w) := by
  rintro _ _ _ ⟨⟩; rfl

theorem Fields.copyComplete (i : Nat) : Fields.Statement (.copyComplete i) := by
  rintro _ _ _ ⟨⟩

theorem Fields.qbind (w : SlotWord) : Fields.Statement (.qbind w) := by
  rintro _ _ _ ⟨⟩; rfl

theorem Fields.qstop (w : SlotWord) : Fields.Statement (.qstop w) := by
  rintro _ _ _ ⟨⟩; rfl

theorem Fields.qdrn (w : SlotWord) : Fields.Statement (.qdrn w) := by
  rintro _ _ _ ⟨⟩; rfl

theorem Fields.csub (w : SlotWord) : Fields.Statement (.csub w) := by
  rintro _ _ _ ⟨⟩; rfl

theorem Fields.trig (w : SlotWord) : Fields.Statement (.trig w) := by
  rintro _ _ _ ⟨⟩; rfl

theorem Fields.sigop (w : SlotWord) : Fields.Statement (.sigop w) := by
  rintro _ _ _ ⟨⟩; rfl

theorem Fields.pref (w : SlotWord) : Fields.Statement (.pref w) := by
  rintro _ _ _ ⟨⟩; rfl

theorem Fields.vadd (u : VSlot) (w : SlotWord) : Fields.Statement (.vadd u w) := by
  rintro _ _ _ ⟨⟩; cases u <;> rfl

theorem Fields.vsub (u : VSlot) (w : SlotWord) : Fields.Statement (.vsub u w) := by
  rintro _ _ _ ⟨⟩; cases u <;> rfl

theorem Fields.vmul (u : VSlot) (w : SlotWord) : Fields.Statement (.vmul u w) := by
  rintro _ _ _ ⟨⟩; cases u <;> rfl

theorem Fields.vfma (u : VSlot) (w : SlotWord) : Fields.Statement (.vfma u w) := by
  rintro _ _ _ ⟨⟩; cases u <;> rfl

theorem Fields.vfms (u : VSlot) (w : SlotWord) : Fields.Statement (.vfms u w) := by
  rintro _ _ _ ⟨⟩; cases u <;> rfl

theorem Fields.vfnma (u : VSlot) (w : SlotWord) : Fields.Statement (.vfnma u w) := by
  rintro _ _ _ ⟨⟩; cases u <;> rfl

theorem Fields.vmin (u : VSlot) (w : SlotWord) : Fields.Statement (.vmin u w) := by
  rintro _ _ _ ⟨⟩; cases u <;> rfl

theorem Fields.vmax (u : VSlot) (w : SlotWord) : Fields.Statement (.vmax u w) := by
  rintro _ _ _ ⟨⟩; cases u <;> rfl

theorem Fields.vabs (u : VSlot) (w : SlotWord) : Fields.Statement (.vabs u w) := by
  rintro _ _ _ ⟨⟩; cases u <;> rfl

theorem Fields.vneg (u : VSlot) (w : SlotWord) : Fields.Statement (.vneg u w) := by
  rintro _ _ _ ⟨⟩; cases u <;> rfl

theorem Fields.vand (u : VSlot) (w : SlotWord) : Fields.Statement (.vand u w) := by
  rintro _ _ _ ⟨⟩; cases u <;> rfl

theorem Fields.vor (u : VSlot) (w : SlotWord) : Fields.Statement (.vor u w) := by
  rintro _ _ _ ⟨⟩; cases u <;> rfl

theorem Fields.vxor (u : VSlot) (w : SlotWord) : Fields.Statement (.vxor u w) := by
  rintro _ _ _ ⟨⟩; cases u <;> rfl

theorem Fields.vandn (u : VSlot) (w : SlotWord) : Fields.Statement (.vandn u w) := by
  rintro _ _ _ ⟨⟩; cases u <;> rfl

theorem Fields.vshl (u : VSlot) (w : SlotWord) : Fields.Statement (.vshl u w) := by
  rintro _ _ _ ⟨⟩; cases u <;> rfl

theorem Fields.vshr (u : VSlot) (w : SlotWord) : Fields.Statement (.vshr u w) := by
  rintro _ _ _ ⟨⟩; cases u <;> rfl

theorem Fields.vsar (u : VSlot) (w : SlotWord) : Fields.Statement (.vsar u w) := by
  rintro _ _ _ ⟨⟩; cases u <;> rfl

theorem Fields.vmulh (u : VSlot) (w : SlotWord) : Fields.Statement (.vmulh u w) := by
  rintro _ _ _ ⟨⟩; cases u <;> rfl

theorem Fields.vclamp (u : VSlot) (w : SlotWord) : Fields.Statement (.vclamp u w) := by
  rintro _ _ _ ⟨⟩; cases u <;> rfl

theorem Fields.vcmp (u : VSlot) (w : SlotWord) : Fields.Statement (.vcmp u w) := by
  rintro _ _ _ ⟨⟩; cases u <;> rfl

theorem Fields.vsel (u : VSlot) (w : SlotWord) : Fields.Statement (.vsel u w) := by
  rintro _ _ _ ⟨⟩; cases u <;> rfl

theorem Fields.vcvt (u : VSlot) (w : SlotWord) : Fields.Statement (.vcvt u w) := by
  rintro _ _ _ ⟨⟩; cases u <;> rfl

theorem Fields.vpack (u : VSlot) (w : SlotWord) : Fields.Statement (.vpack u w) := by
  rintro _ _ _ ⟨⟩; cases u <;> rfl

theorem Fields.vunpk (u : VSlot) (w : SlotWord) : Fields.Statement (.vunpk u w) := by
  rintro _ _ _ ⟨⟩; cases u <;> rfl

theorem Fields.vrcp (u : VSlot) (w : SlotWord) : Fields.Statement (.vrcp u w) := by
  rintro _ _ _ ⟨⟩; cases u <;> rfl

theorem Fields.vrsq (u : VSlot) (w : SlotWord) : Fields.Statement (.vrsq u w) := by
  rintro _ _ _ ⟨⟩; cases u <;> rfl

theorem Fields.vsqrt (u : VSlot) (w : SlotWord) : Fields.Statement (.vsqrt u w) := by
  rintro _ _ _ ⟨⟩; cases u <;> rfl

theorem Fields.vexp2 (u : VSlot) (w : SlotWord) : Fields.Statement (.vexp2 u w) := by
  rintro _ _ _ ⟨⟩; cases u <;> rfl

theorem Fields.vlog2 (u : VSlot) (w : SlotWord) : Fields.Statement (.vlog2 u w) := by
  rintro _ _ _ ⟨⟩; cases u <;> rfl

theorem Fields.vmovi (u : VSlot) (w : SlotWord) : Fields.Statement (.vmovi u w) := by
  rintro _ _ _ ⟨⟩; cases u <;> rfl

theorem Fields.vmov (u : VSlot) (w : SlotWord) : Fields.Statement (.vmov u w) := by
  rintro _ _ _ ⟨⟩; cases u <;> rfl

theorem Fields.vmovn (u : VSlot) (w : SlotWord) : Fields.Statement (.vmovn u w) := by
  rintro _ _ _ ⟨⟩; cases u <;> rfl

theorem Fields.vbcast (u : VSlot) (w : SlotWord) : Fields.Statement (.vbcast u w) := by
  rintro _ _ _ ⟨⟩; cases u <;> rfl

theorem Fields.vext (u : VSlot) (w : SlotWord) : Fields.Statement (.vext u w) := by
  rintro _ _ _ ⟨⟩; cases u <;> rfl

theorem Fields.vidx (u : VSlot) (w : SlotWord) : Fields.Statement (.vidx u w) := by
  rintro _ _ _ ⟨⟩; cases u <;> rfl

theorem Fields.vshuf (u : VSlot) (w : SlotWord) : Fields.Statement (.vshuf u w) := by
  rintro _ _ _ ⟨⟩; cases u <;> rfl

theorem Fields.vxc (u : VSlot) (w : SlotWord) : Fields.Statement (.vxc u w) := by
  rintro _ _ _ ⟨⟩; cases u <;> rfl

theorem Fields.vred (u : VSlot) (w : SlotWord) : Fields.Statement (.vred u w) := by
  rintro _ _ _ ⟨⟩; cases u <;> rfl

theorem Fields.vscan (u : VSlot) (w : SlotWord) : Fields.Statement (.vscan u w) := by
  rintro _ _ _ ⟨⟩; cases u <;> rfl

theorem Fields.kand (u : VSlot) (w : SlotWord) : Fields.Statement (.kand u w) := by
  rintro _ _ _ ⟨⟩; cases u <;> rfl

theorem Fields.kor (u : VSlot) (w : SlotWord) : Fields.Statement (.kor u w) := by
  rintro _ _ _ ⟨⟩; cases u <;> rfl

theorem Fields.kxor (u : VSlot) (w : SlotWord) : Fields.Statement (.kxor u w) := by
  rintro _ _ _ ⟨⟩; cases u <;> rfl

theorem Fields.knot (u : VSlot) (w : SlotWord) : Fields.Statement (.knot u w) := by
  rintro _ _ _ ⟨⟩; cases u <;> rfl

theorem Fields.kpop (u : VSlot) (w : SlotWord) : Fields.Statement (.kpop u w) := by
  rintro _ _ _ ⟨⟩; cases u <;> rfl

theorem Fields.mcfg (w : SlotWord) : Fields.Statement (.mcfg w) := by
  rintro _ _ _ ⟨⟩; rfl

theorem Fields.mwin (w : SlotWord) : Fields.Statement (.mwin w) := by
  rintro _ _ _ ⟨⟩; rfl

theorem Fields.mstep (w : SlotWord) : Fields.Statement (.mstep w) := by
  rintro _ _ _ ⟨⟩; rfl

theorem Fields.mstepComplete (i : Nat) : Fields.Statement (.mstepComplete i) := by
  rintro _ _ _ ⟨⟩

theorem Fields.mzero (w : SlotWord) : Fields.Statement (.mzero w) := by
  rintro _ _ _ ⟨⟩; rfl

theorem Fields.mzeroComplete (i : Nat) : Fields.Statement (.mzeroComplete i) := by
  rintro _ _ _ ⟨⟩

theorem Fields.amvr (w : SlotWord) : Fields.Statement (.amvr w) := by
  rintro _ _ _ ⟨⟩; rfl

theorem Fields.amvrComplete (i : Nat) : Fields.Statement (.amvrComplete i) := by
  rintro _ _ _ ⟨⟩

theorem Fields.amvw (w : SlotWord) : Fields.Statement (.amvw w) := by
  rintro _ _ _ ⟨⟩; rfl

theorem Fields.amvwComplete (i : Nat) : Fields.Statement (.amvwComplete i) := by
  rintro _ _ _ ⟨⟩

theorem Fields.mdrn (w : SlotWord) : Fields.Statement (.mdrn w) := by
  rintro _ _ _ ⟨⟩; rfl

theorem Fields.mdrnComplete (i : Nat) : Fields.Statement (.mdrnComplete i) := by
  rintro _ _ _ ⟨⟩

theorem Fields.mfin (w : SlotWord) : Fields.Statement (.mfin w) := by
  rintro _ _ _ ⟨⟩; rfl

theorem Fields.sopd (w : SlotWord) : Fields.Statement (.sopd w) := by
  rintro _ _ _ ⟨⟩; rfl

theorem Fields.sid (w : SlotWord) : Fields.Statement (.sid w) := by
  rintro _ _ _ ⟨⟩; rfl

theorem Fields.sidComplete (i : Nat) : Fields.Statement (.sidComplete i) := by
  rintro _ _ _ ⟨⟩

theorem Fields.scmb (w : SlotWord) : Fields.Statement (.scmb w) := by
  rintro _ _ _ ⟨⟩; rfl

theorem Fields.schk (w : SlotWord) : Fields.Statement (.schk w) := by
  rintro _ _ _ ⟨⟩; rfl

theorem Fields.schkComplete (i : Nat) : Fields.Statement (.schkComplete i) := by
  rintro _ _ _ ⟨⟩

theorem Fields.sfix (w : SlotWord) : Fields.Statement (.sfix w) := by
  rintro _ _ _ ⟨⟩; rfl

theorem Fields.sfixComplete (i : Nat) : Fields.Statement (.sfixComplete i) := by
  rintro _ _ _ ⟨⟩

theorem Fields.sxch (w : SlotWord) : Fields.Statement (.sxch w) := by
  rintro _ _ _ ⟨⟩; rfl

theorem Fields.sxchPost (i : Nat) : Fields.Statement (.sxchPost i) := by
  rintro _ _ _ ⟨⟩

theorem Fields.swt (w : SlotWord) : Fields.Statement (.swt w) := by
  rintro _ _ _ ⟨⟩; rfl

theorem Fields.sstepAff (w : SlotWord) : Fields.Statement (.sstepAff w) := by
  intro h
  rw [Instr.wf, Bool.and_eq_true, Option.isNone_iff_eq_none] at h
  have hm : w.mod = 0 := of_decide_eq_true (rowErr_mod h.1)
  rintro _ _ ⟨⟩
  show some (if w.mod.getLsbD 0 then Instr.sstepSsm w else Instr.sstepAff w) = _
  rw [hm]; rfl

theorem Fields.sstepSsm (w : SlotWord) : Fields.Statement (.sstepSsm w) := by
  intro h
  rw [Instr.wf, Bool.and_eq_true, Option.isNone_iff_eq_none] at h
  have hm : w.mod = 1 := of_decide_eq_true (rowErr_mod h.1)
  rintro _ _ ⟨⟩
  show some (if w.mod.getLsbD 0 then Instr.sstepSsm w else Instr.sstepAff w) = _
  rw [hm]; rfl

theorem Fields.srd (w : SlotWord) : Fields.Statement (.srd w) := by
  rintro _ _ _ ⟨⟩; rfl

theorem Fields.srdComplete (i : Nat) : Fields.Statement (.srdComplete i) := by
  rintro _ _ _ ⟨⟩

theorem Fields.swr (w : SlotWord) : Fields.Statement (.swr w) := by
  rintro _ _ _ ⟨⟩; rfl

theorem Fields.swrComplete (i : Nat) : Fields.Statement (.swrComplete i) := by
  rintro _ _ _ ⟨⟩

theorem Fields.sspl (w : SlotWord) : Fields.Statement (.sspl w) := by
  rintro _ _ _ ⟨⟩; rfl

theorem Fields.ssplComplete (i : Nat) : Fields.Statement (.ssplComplete i) := by
  rintro _ _ _ ⟨⟩

theorem Fields.sfil (w : SlotWord) : Fields.Statement (.sfil w) := by
  rintro _ _ _ ⟨⟩; rfl

theorem Fields.sfilComplete (i : Nat) : Fields.Statement (.sfilComplete i) := by
  rintro _ _ _ ⟨⟩

theorem Fields.scld (w : SlotWord) : Fields.Statement (.scld w) := by
  rintro _ _ _ ⟨⟩; rfl

theorem Fields.scmv (w : SlotWord) : Fields.Statement (.scmv w) := by
  rintro _ _ _ ⟨⟩; rfl

theorem Fields.patld (w : SlotWord) : Fields.Statement (.patld w) := by
  rintro _ _ _ ⟨⟩; rfl

theorem Fields.patsw (w : SlotWord) : Fields.Statement (.patsw w) := by
  rintro _ _ _ ⟨⟩; rfl

theorem Fields.resultLanding : Fields.Statement (.resultLanding) := by
  rintro _ _ _ ⟨⟩

theorem Fields.interlockedResult (i : Nat) : Fields.Statement (.interlockedResult i) := by
  rintro _ _ _ ⟨⟩

theorem Fields.trapEntry (t : TrapInfo) : Fields.Statement (.trapEntry t) := by
  rintro _ _ _ ⟨⟩

theorem Fields.waitTimeout : Fields.Statement (.waitTimeout) := by
  rintro _ _ _ ⟨⟩

theorem Fields.waitSuspend : Fields.Statement (.waitSuspend) := by
  rintro _ _ _ ⟨⟩

theorem Fields.lateReport (r : LateReport) : Fields.Statement (.lateReport r) := by
  rintro _ _ _ ⟨⟩

theorem Fields.walkComplete (die i : Nat) : Fields.Statement (.walkComplete die i) := by
  rintro _ _ _ ⟨⟩

theorem Fields.feedElement (q : Fin 8) : Fields.Statement (.feedElement q) := by
  rintro _ _ _ ⟨⟩

theorem Fields.drainElement (q : Fin 8) : Fields.Statement (.drainElement q) := by
  rintro _ _ _ ⟨⟩

theorem Fields.chunkRequest (launch die : Nat) : Fields.Statement (.chunkRequest launch die) := by
  rintro _ _ _ ⟨⟩

theorem Fields.stepStart (launch core : Nat) : Fields.Statement (.stepStart launch core) := by
  rintro _ _ _ ⟨⟩

theorem Fields.quantumExpiry : Fields.Statement (.quantumExpiry) := by
  rintro _ _ _ ⟨⟩

theorem Fields.priorityPreempt (die : Nat) : Fields.Statement (.priorityPreempt die) := by
  rintro _ _ _ ⟨⟩

theorem Fields.preemptRequest (reason : Nat) : Fields.Statement (.preemptRequest reason) := by
  rintro _ _ _ ⟨⟩

theorem Fields.gangSwap (launch inst : Nat) : Fields.Statement (.gangSwap launch inst) := by
  rintro _ _ _ ⟨⟩

theorem Fields.spillSave : Fields.Statement (.spillSave) := by
  rintro _ _ _ ⟨⟩

theorem Fields.resume (launch cont core : Nat) : Fields.Statement (.resume launch cont core) := by
  rintro _ _ _ ⟨⟩

theorem Fields.replayLanding : Fields.Statement (.replayLanding) := by
  rintro _ _ _ ⟨⟩

theorem Fields.gangPlace (launch inst : Nat) (cores : List Nat) : Fields.Statement (.gangPlace launch inst cores) := by
  rintro _ _ _ ⟨⟩

theorem Fields.segmentFetchMiss : Fields.Statement (.segmentFetchMiss) := by
  rintro _ _ _ ⟨⟩

theorem Fields.segmentCopyDone : Fields.Statement (.segmentCopyDone) := by
  rintro _ _ _ ⟨⟩

theorem Fields.dieFence (die : Nat) : Fields.Statement (.dieFence die) := by
  rintro _ _ _ ⟨⟩

theorem Fields.shapeCellArrival (launch : Nat) : Fields.Statement (.shapeCellArrival launch) := by
  rintro _ _ _ ⟨⟩

theorem Fields.shapeTimeout (launch : Nat) : Fields.Statement (.shapeTimeout launch) := by
  rintro _ _ _ ⟨⟩

theorem Fields.provisionalCommit (launch : Nat) : Fields.Statement (.provisionalCommit launch) := by
  rintro _ _ _ ⟨⟩

theorem Fields.carryLand (launch scan leaf : Nat) : Fields.Statement (.carryLand launch scan leaf) := by
  rintro _ _ _ ⟨⟩

theorem Fields.scanNodeCombine (launch scan : Nat) (down : Bool) (d leaf : Nat) : Fields.Statement (.scanNodeCombine launch scan down d leaf) := by
  rintro _ _ _ ⟨⟩

theorem Fields.scanRoundAbort (launch scan : Nat) : Fields.Statement (.scanRoundAbort launch scan) := by
  rintro _ _ _ ⟨⟩

theorem Fields.queueVisit (q : Nat) : Fields.Statement (.queueVisit q) := by
  rintro _ _ _ ⟨⟩

theorem Fields.launch (q : Nat) : Fields.Statement (.launch q) := by
  rintro _ _ _ ⟨⟩

theorem Fields.launchContextStart (launch : Nat) : Fields.Statement (.launchContextStart launch) := by
  rintro _ _ _ ⟨⟩

theorem Fields.copy (q : Nat) : Fields.Statement (.copy q) := by
  rintro _ _ _ ⟨⟩

theorem Fields.waitsig (q : Nat) : Fields.Statement (.waitsig q) := by
  rintro _ _ _ ⟨⟩

theorem Fields.signalReport (q : Nat) : Fields.Statement (.signalReport q) := by
  rintro _ _ _ ⟨⟩

theorem Fields.setsig (q : Nat) : Fields.Statement (.setsig q) := by
  rintro _ _ _ ⟨⟩

theorem Fields.coll (q : Nat) : Fields.Statement (.coll q) := by
  rintro _ _ _ ⟨⟩

theorem Fields.shape (q : Nat) : Fields.Statement (.shape q) := by
  rintro _ _ _ ⟨⟩

theorem Fields.mark (q : Nat) : Fields.Statement (.mark q) := by
  rintro _ _ _ ⟨⟩

theorem Fields.qctlReset (q : Nat) : Fields.Statement (.qctlReset q) := by
  rintro _ _ _ ⟨⟩

theorem Fields.qctlShoot (q : Nat) : Fields.Statement (.qctlShoot q) := by
  rintro _ _ _ ⟨⟩

theorem Fields.qctlPoolfree (q : Nat) : Fields.Statement (.qctlPoolfree q) := by
  rintro _ _ _ ⟨⟩

theorem Fields.packetCompletion (i : Nat) : Fields.Statement (.packetCompletion i) := by
  rintro _ _ _ ⟨⟩

theorem Fields.heldPacketStart (q : Nat) : Fields.Statement (.heldPacketStart q) := by
  rintro _ _ _ ⟨⟩

theorem Fields.fetchFault (q : Nat) : Fields.Statement (.fetchFault q) := by
  rintro _ _ _ ⟨⟩

theorem Fields.registerWrite (off : Nat) (bytes : List Byte) : Fields.Statement (.registerWrite off bytes) := by
  rintro _ _ _ ⟨⟩

theorem Fields.collAccept (i : Nat) : Fields.Statement (.collAccept i) := by
  rintro _ _ _ ⟨⟩

theorem Fields.collTransfer (die : Nat) : Fields.Statement (.collTransfer die) := by
  rintro _ _ _ ⟨⟩

theorem Fields.reduceArrival (c : Contribution) : Fields.Statement (.reduceArrival c) := by
  rintro _ _ _ ⟨⟩

theorem Fields.collComplete (i : Nat) : Fields.Statement (.collComplete i) := by
  rintro _ _ _ ⟨⟩

theorem Fields.widxWrite (q : Nat) (w : Word) : Fields.Statement (.widxWrite q w) := by
  rintro _ _ _ ⟨⟩

theorem Fields.qcfgWrite (q : Nat) (v : DWord) : Fields.Statement (.qcfgWrite q v) := by
  rintro _ _ _ ⟨⟩

theorem Fields.qstatWrite (q : Nat) (v : DWord) : Fields.Statement (.qstatWrite q v) := by
  rintro _ _ _ ⟨⟩

theorem Fields.pgrqPop : Fields.Statement (.pgrqPop) := by
  rintro _ _ _ ⟨⟩

theorem Fields.pgrsp (v : DWord) : Fields.Statement (.pgrsp v) := by
  rintro _ _ _ ⟨⟩

theorem Fields.switchReduce (l r : Contribution) : Fields.Statement (.switchReduce l r) := by
  rintro _ _ _ ⟨⟩

theorem Fields.linkStop (l : Nat) : Fields.Statement (.linkStop l) := by
  rintro _ _ _ ⟨⟩

theorem Fields.linkResume (l : Nat) : Fields.Statement (.linkResume l) := by
  rintro _ _ _ ⟨⟩

theorem Fields.flitSend (ch : Nat) (kind : Byte) (body : List Byte) : Fields.Statement (.flitSend ch kind body) := by
  rintro _ _ _ ⟨⟩

theorem Fields.flitReceive (ch : Nat) (f : Flit) : Fields.Statement (.flitReceive ch f) := by
  rintro _ _ _ ⟨⟩

theorem Fields.retryRequest (ch : Nat) (slot : Bool) (seq : DWord) : Fields.Statement (.retryRequest ch slot seq) := by
  rintro _ _ _ ⟨⟩

theorem Fields.retryRepeat (ch : Nat) : Fields.Statement (.retryRepeat ch) := by
  rintro _ _ _ ⟨⟩

theorem Fields.channelAck (ch : Nat) (slot : Bool) (seq : DWord) : Fields.Statement (.channelAck ch slot seq) := by
  rintro _ _ _ ⟨⟩

theorem Fields.keyDrainExpiry (ch : Nat) : Fields.Statement (.keyDrainExpiry ch) := by
  rintro _ _ _ ⟨⟩

theorem Fields.channelFail (ch : Nat) : Fields.Statement (.channelFail ch) := by
  rintro _ _ _ ⟨⟩

theorem Fields.rkey : Fields.Statement (.rkey) := by
  rintro _ _ _ ⟨⟩

theorem Fields.bootGo : Fields.Statement (.bootGo) := by
  rintro _ _ _ ⟨⟩

theorem Fields.coldReset : Fields.Statement (.coldReset) := by
  rintro _ _ _ ⟨⟩

theorem Fields.fwrst : Fields.Statement (.fwrst) := by
  rintro _ _ _ ⟨⟩

theorem Fields.train : Fields.Statement (.train) := by
  rintro _ _ _ ⟨⟩

theorem Fields.trainingDone (failed : List Nat) : Fields.Statement (.trainingDone failed) := by
  rintro _ _ _ ⟨⟩

theorem Fields.qen (on : Bool) : Fields.Statement (.qen on) := by
  rintro _ _ _ ⟨⟩

theorem Fields.fuseBlow : Fields.Statement (.fuseBlow) := by
  rintro _ _ _ ⟨⟩

theorem Fields.fzrel (i : Nat) : Fields.Statement (.fzrel i) := by
  rintro _ _ _ ⟨⟩

theorem Fields.rascClr (die : Nat) : Fields.Statement (.rascClr die) := by
  rintro _ _ _ ⟨⟩

theorem Fields.l2cvWrite (die : Nat) (v : DWord) : Fields.Statement (.l2cvWrite die v) := by
  rintro _ _ _ ⟨⟩

theorem Fields.msplitWrite (v : DWord) : Fields.Statement (.msplitWrite v) := by
  rintro _ _ _ ⟨⟩

theorem Fields.hostRequest (r : HostReq) : Fields.Statement (.hostRequest r) := by
  rintro _ _ _ ⟨⟩

theorem Fields.spdmCert : Fields.Statement (.spdmCert) := by
  rintro _ _ _ ⟨⟩

theorem Fields.spdmChallenge (nonce : List Byte) : Fields.Statement (.spdmChallenge nonce) := by
  rintro _ _ _ ⟨⟩

theorem Fields.spdmMeasurements (nonce : List Byte) : Fields.Statement (.spdmMeasurements nonce) := by
  rintro _ _ _ ⟨⟩

theorem Fields.spdmKeyExchange (m : KeyExchange) : Fields.Statement (.spdmKeyExchange m) := by
  rintro _ _ _ ⟨⟩

theorem Fields.hostMeasExtend (i : Nat) (v : List Byte) : Fields.Statement (.hostMeasExtend i v) := by
  rintro _ _ _ ⟨⟩

theorem Fields.jobPolicy (m : SignedPolicy) : Fields.Statement (.jobPolicy m) := by
  rintro _ _ _ ⟨⟩

theorem Fields.endObject (m : SignedEnd) : Fields.Statement (.endObject m) := by
  rintro _ _ _ ⟨⟩

theorem Fields.revokeObject (m : SignedRevoke) : Fields.Statement (.revokeObject m) := by
  rintro _ _ _ ⟨⟩

theorem Fields.revokeApply (jslot : Nat) (keys : EpochKeys) : Fields.Statement (.revokeApply jslot keys) := by
  rintro _ _ _ ⟨⟩

theorem Fields.switchAttest (jslot : Nat) (m : SwitchReport) : Fields.Statement (.switchAttest jslot m) := by
  rintro _ _ _ ⟨⟩

theorem Fields.switchRecheck (jslot : Nat) (m : SwitchReport) : Fields.Statement (.switchRecheck jslot m) := by
  rintro _ _ _ ⟨⟩

theorem Fields.uncorrectableError (die : Nat) (w : ErrorPlace) : Fields.Statement (.uncorrectableError die w) := by
  rintro _ _ _ ⟨⟩

theorem Fields.scrubPatrol (die : Nat) (w : ScrubFind) : Fields.Statement (.scrubPatrol die w) := by
  rintro _ _ _ ⟨⟩

theorem Fields.powerTick (watts : Nat) (temps : List Int) : Fields.Statement (.powerTick watts temps) := by
  rintro _ _ _ ⟨⟩

theorem Fields.thermalTrip (die : Nat) (temp : Int) : Fields.Statement (.thermalTrip die temp) := by
  rintro _ _ _ ⟨⟩

theorem Fields.tdispRequest (r : TdispReq) : Fields.Statement (.tdispRequest r) := by
  rintro _ _ _ ⟨⟩

theorem Fields.negotiateAlgorithms (falcon mlkem : Bool) : Fields.Statement (.negotiateAlgorithms falcon mlkem) := by
  rintro _ _ _ ⟨⟩

theorem Fields.lostHeartbeat (jslot sw : Nat) : Fields.Statement (.lostHeartbeat jslot sw) := by
  rintro _ _ _ ⟨⟩

end Sys2Proof.Laws
end

