-- ==== Sys2Proof/Laws/Registers.lean ====
section
/-! SUPPORT. Reading a register after writing one: each register file by itself, and the registers that discard writes (R10, R12). -/

namespace Sys2Proof.Machine

theorem vget_vset_self {α : Type} {n : Nat} (d : α) (v : Vector α n) {i : Nat} (x : α) (h : i < n) : vget d (vset v i x) i = x := by
  simp [vget, vset, h]

theorem vget_vset_ne {α : Type} {n : Nat} (d : α) (v : Vector α n) {i j : Nat} (x : α) (h : j ≠ i) :
    vget d (vset v i x) j = vget d v j := by
  simp [vget, vset, h.symm]

theorem vget_replicate {α : Type} (d : α) (n i : Nat) : vget d (Vector.replicate n d) i = d := by
  unfold vget
  rw [Vector.getElem?_replicate]
  split <;> rfl

@[simp] theorem Thread.getS_zero (t : Thread) : t.getS 0 = 0 := rfl
@[simp] theorem Thread.getP_zero (t : Thread) : t.getP 0 = true := rfl
@[simp] theorem Thread.getK_zero (t : Thread) : t.getK 0 = BitVec.allOnes 128 := rfl
@[simp] theorem Thread.setS_zero (t : Thread) (x : DWord) : t.setS 0 x = t := rfl
@[simp] theorem Thread.setP_zero (t : Thread) (b : Bool) : t.setP 0 b = t := rfl
@[simp] theorem Thread.setK_zero (t : Thread) (x en : BitVec 128) : t.setK 0 x en = t := rfl

theorem Thread.getS_setS_self (t : Thread) {n : Nat} (x : DWord) (h0 : 0 < n) (h : n < 32) : (t.setS n x).getS n = x := by
  have h1 : n ≠ 0 := by omega
  simp only [Thread.setS, Thread.getS, h1, if_false]
  exact vget_vset_self 0 t.s x h

theorem Thread.getS_setS_ne (t : Thread) {n m : Nat} (x : DWord) (h : m ≠ n) : (t.setS n x).getS m = t.getS m := by
  unfold Thread.setS Thread.getS
  by_cases h0 : n = 0
  · rw [if_pos h0]
  · rw [if_neg h0]
    by_cases hm : m = 0
    · rw [if_pos hm, if_pos hm]
    · rw [if_neg hm, if_neg hm]
      exact vget_vset_ne 0 t.s x h

theorem Thread.getV_setV_ne (t : Thread) {n m : Nat} (x : Vec) (en : BitVec 128) (h : m ≠ n) : (t.setV n x en).getV m = t.getV m :=
  vget_vset_ne Vec.zero t.v _ h

theorem Thread.getV_setV_self (t : Thread) {n : Nat} (x : Vec) (en : BitVec 128) (h : n < 32) :
    (t.setV n x en).getV n = (t.getV n).merge x en := vget_vset_self Vec.zero t.v _ h

theorem Thread.getP_setP_ne (t : Thread) {n m : Nat} (b : Bool) (h : m ≠ n) : (t.setP n b).getP m = t.getP m := by
  unfold Thread.setP Thread.getP
  by_cases h0 : n = 0
  · rw [if_pos h0]
  · rw [if_neg h0]
    have hb : (BitVec.ofNat 24 (2 ^ n)).getLsbD m = false := by
      rw [BitVec.getLsbD_ofNat, Nat.testBit_two_pow_of_ne h.symm, Bool.and_false]
    generalize BitVec.ofNat 24 (2 ^ n) = y at hb
    cases b <;> by_cases hm : m < 24 <;> simp_all [BitVec.getLsbD_of_ge]

end Sys2Proof.Machine
end

