-- ==== Sys2Proof/Laws/Scalar.lean ====
section
/-! SUPPORT. The scalar integer operations on n bits, computed exactly and narrowed once, agree with the operations on n-bit words
(R130, R131). -/

namespace Sys2Proof.Machine

theorem widthOf_cases (w : SlotWord) : widthOf w = 64 ∨ widthOf w = 32 ∨ widthOf w = 16 ∨ widthOf w = 8 := by
  have h : w.fmt.toNat % 4 < 4 := Nat.mod_lt _ (by omega)
  unfold widthOf
  generalize w.fmt.toNat % 4 = x at h
  match x, h with
  | 0, _ => simp
  | 1, _ => simp
  | 2, _ => simp
  | 3, _ => simp

theorem widthOf_pos (w : SlotWord) : 0 < widthOf w := by
  rcases widthOf_cases w with h | h | h | h <;> omega

theorem toSigned_toNat {n : Nat} (a : BitVec n) : toSigned n a.toNat = a.toInt := by simp [toSigned]

/-- The extension of a result depends on its low n bits alone. -/
theorem extend_ofNat (sg : Bool) (n r : Nat) :
    extend sg n r = if sg then (BitVec.ofNat n r).signExtend 64 else (BitVec.ofNat n r).setWidth 64 := by
  cases sg
  · apply BitVec.eq_of_toNat_eq; simp [extend]
  · simp [extend, toSigned, BitVec.signExtend]

theorem ofNat_emod_toNat (n : Nat) (x : Int) : BitVec.ofNat n (x % 2 ^ n).toNat = BitVec.ofInt n x := by
  apply BitVec.eq_of_toNat_eq
  have hp : (0 : Int) < 2 ^ n := Int.pow_pos (by omega)
  have h := Int.emod_nonneg x (Int.ne_of_gt hp)
  have h2 := Int.emod_lt_of_pos x hp
  have h3 : (x % 2 ^ n).toNat < 2 ^ n := by
    have : ((x % 2 ^ n).toNat : Int) < ((2 ^ n : Nat) : Int) := by rw [Int.toNat_of_nonneg h]; exact_mod_cast h2
    exact_mod_cast this
  simp [BitVec.toNat_ofInt, Nat.mod_eq_of_lt h3]

variable {n : Nat} (a b : BitVec n) (sg : Bool)

theorem intAdd_eq : BitVec.ofNat n (intAdd n sg a.toNat b.toNat) = a + b := by
  apply BitVec.eq_of_toNat_eq; simp [intAdd]

theorem intMul_eq : BitVec.ofNat n (intMul n sg a.toNat b.toNat) = a * b := by
  apply BitVec.eq_of_toNat_eq; simp [intMul]

theorem intAnd_eq : BitVec.ofNat n (intAnd n sg a.toNat b.toNat) = a &&& b := by simp [intAnd]

theorem intOr_eq : BitVec.ofNat n (intOr n sg a.toNat b.toNat) = a ||| b := by simp [intOr]

theorem intXor_eq : BitVec.ofNat n (intXor n sg a.toNat b.toNat) = a ^^^ b := by simp [intXor]

theorem intExt_eq : BitVec.ofNat n (intExt n sg a.toNat b.toNat) = a := by simp [intExt]

theorem intSub_eq : BitVec.ofNat n (intSub n sg a.toNat b.toNat) = a - b := by
  apply BitVec.eq_of_toNat_eq
  simp [intSub, BitVec.toNat_sub, Nat.add_comm]

theorem intMulh_eq : BitVec.ofNat n (intMulh n sg a.toNat b.toNat) =
     if sg then BitVec.ofInt n (a.toInt * b.toInt / 2 ^ n) else BitVec.ofNat n (a.toNat * b.toNat / 2 ^ n) := by
  unfold intMulh
  cases sg
  · simp only [Bool.false_eq_true, if_false, ofNat_emod_toNat]
    rw [show ((a.toNat : Int) * b.toNat / 2 ^ n) = ((a.toNat * b.toNat / 2 ^ n : Nat) : Int) by push_cast; rfl, BitVec.ofInt_natCast]
  · simp only [if_true, ofNat_emod_toNat]; simp [toSigned]

theorem intAndn_eq : BitVec.ofNat n (intAndn n sg a.toNat b.toNat) = a &&& ~~~b := by
  apply BitVec.eq_of_toNat_eq
  simp [intAndn]
  congr 1
  exact Nat.mod_eq_of_lt (by have := Nat.two_pow_pos n; omega)

theorem intShl_eq : BitVec.ofNat n (intShl n sg a.toNat b.toNat) = a <<< (b.toNat % n) := by
  apply BitVec.eq_of_toNat_eq
  simp [intShl, Nat.shiftLeft_eq]

theorem intShr_eq : BitVec.ofNat n (intShr n sg a.toNat b.toNat) = if sg then a.sshiftRight (b.toNat % n) else a >>> (b.toNat % n) := by
  unfold intShr
  cases sg
  · apply BitVec.eq_of_toNat_eq
    simp [Nat.shiftRight_eq_div_pow]
    apply Nat.mod_eq_of_lt
    exact Nat.lt_of_le_of_lt (Nat.div_le_self _ _) a.isLt
  · simp [ofNat_emod_toNat, toSigned, BitVec.sshiftRight, Int.shiftRight_eq_div_pow]

theorem intMin_eq : BitVec.ofNat n (intMin n sg a.toNat b.toNat) = if (if sg then b.slt a else b.ult a) then b else a := by
  unfold intMin
  cases sg <;> simp [toSigned, BitVec.slt, BitVec.ult] <;> split <;> simp

theorem intMax_eq : BitVec.ofNat n (intMax n sg a.toNat b.toNat) = if (if sg then a.slt b else a.ult b) then b else a := by
  unfold intMax
  cases sg <;> simp [toSigned, BitVec.slt, BitVec.ult] <;> split <;> simp

theorem intDiv_eq : BitVec.ofNat n (intDiv n sg a.toNat b.toNat) = if b = 0 then BitVec.allOnes n else if sg then a.sdiv b else a.udiv b := by
  unfold intDiv
  by_cases hb : b = 0
  · subst hb; simp; apply BitVec.eq_of_toNat_eq; simp
  · have hb' : b.toNat ≠ 0 := fun h => hb (BitVec.eq_of_toNat_eq (by simpa using h))
    simp only [hb', hb, if_false]
    cases sg
    · apply BitVec.eq_of_toNat_eq; simp
      apply Nat.mod_eq_of_lt
      exact Nat.lt_of_le_of_lt (Nat.div_le_self _ _) a.isLt
    · simp only [if_true, ofNat_emod_toNat, toSigned, BitVec.ofNat_toNat, BitVec.setWidth_eq]
      apply BitVec.eq_of_toInt_eq; rw [BitVec.toInt_ofInt, BitVec.toInt_sdiv]

theorem intRem_eq : BitVec.ofNat n (intRem n sg a.toNat b.toNat) = if b = 0 then a else if sg then a.srem b else a.umod b := by
  unfold intRem
  by_cases hb : b = 0
  · subst hb; simp
  · have hb' : b.toNat ≠ 0 := fun h => hb (BitVec.eq_of_toNat_eq (by simpa using h))
    simp only [hb', hb, if_false]
    cases sg
    · apply BitVec.eq_of_toNat_eq; simp
      apply Nat.mod_eq_of_lt
      exact Nat.lt_of_le_of_lt (Nat.mod_le _ _) a.isLt
    · simp only [if_true, ofNat_emod_toNat, toSigned, BitVec.ofNat_toNat, BitVec.setWidth_eq]
      apply BitVec.eq_of_toInt_eq; rw [BitVec.toInt_ofInt, ← BitVec.toInt_srem, BitVec.toInt_bmod_cancel]

theorem intRot_eq (hn : 0 < n) : BitVec.ofNat n (intRot n sg a.toNat b.toNat) = a.rotateRight (b.toNat % n) := by
  apply BitVec.eq_of_toNat_eq
  have hk : b.toNat % n < n := Nat.mod_lt _ hn
  rw [BitVec.toNat_rotateRight, Nat.mod_mod]
  simp only [intRot, BitVec.toNat_ofNat]
  generalize b.toNat % n = k at hk
  have ha := a.isLt
  generalize a.toNat = x at ha
  have h1 : x / 2 ^ k < 2 ^ (n - k) := by
    apply Nat.div_lt_of_lt_mul; rw [← Nat.pow_add]; rwa [Nat.add_sub_cancel' (Nat.le_of_lt hk)]
  have h2 : (x <<< (n - k)) % 2 ^ n = (x % 2 ^ k) <<< (n - k) := by
    rw [Nat.shiftLeft_eq, Nat.shiftLeft_eq]
    conv => lhs; rw [show 2 ^ n = 2 ^ k * 2 ^ (n - k) by rw [← Nat.pow_add]; congr 1; omega]
    rw [Nat.mul_mod_mul_right]
  rw [h2, Nat.shiftRight_eq_div_pow, Nat.or_comm, ← Nat.shiftLeft_add_eq_or_of_lt h1, Nat.shiftLeft_eq]
  conv => lhs; rw [show 2 ^ n = 2 ^ k * 2 ^ (n - k) by rw [← Nat.pow_add]; congr 1; omega]
  rw [Nat.add_mod, Nat.mul_mod_mul_right]
  have h3 : x / 2 ^ k < 2 ^ k * 2 ^ (n - k) := Nat.lt_of_lt_of_le h1 (Nat.le_mul_of_pos_left _ (Nat.two_pow_pos k))
  rw [Nat.mod_eq_of_lt h3, Nat.add_comm]
  apply Nat.mod_eq_of_lt
  have h4 : x % 2 ^ k + 1 ≤ 2 ^ k := Nat.mod_lt _ (Nat.two_pow_pos k)
  calc x % 2 ^ k * 2 ^ (n - k) + x / 2 ^ k < x % 2 ^ k * 2 ^ (n - k) + 2 ^ (n - k) := by omega
    _ = (x % 2 ^ k + 1) * 2 ^ (n - k) := by rw [Nat.add_mul, Nat.one_mul]
    _ ≤ 2 ^ k * 2 ^ (n - k) := Nat.mul_le_mul_right _ h4

theorem intClz_eq (hn : 0 < n) : BitVec.ofNat n (intClz n sg a.toNat b.toNat) = a.clz := by
  unfold intClz
  have hw : n < 2 ^ n := Nat.lt_two_pow_self
  split
  · have : a = 0 := BitVec.eq_of_toNat_eq (by simpa using ‹_›)
    rw [BitVec.clz_eq_iff_eq_zero.mpr this]; rfl
  · rename_i h
    have ha : a ≠ 0#n := fun h' => h (by simp [h'])
    have h1 := BitVec.two_pow_sub_clz_le_toNat_of_ne_zero hn ha
    have h2 := @BitVec.toNat_lt_two_pow_sub_clz _ a
    have h3 : a.clz.toNat < n := by
      have := BitVec.clz_lt_iff_ne_zero.mpr ha
      rw [BitVec.lt_def] at this; simpa [Nat.mod_eq_of_lt hw] using this
    have : a.toNat.log2 = n - 1 - a.clz.toNat := by
      rw [Nat.log2_eq_iff h]; exact ⟨h1, by rwa [show n - 1 - a.clz.toNat + 1 = n - a.clz.toNat by omega]⟩
    rw [this, show n - 1 - (n - 1 - a.clz.toNat) = a.clz.toNat by omega, BitVec.ofNat_toNat, BitVec.setWidth_eq]

theorem intCtz_eq (hn : 0 < n) : BitVec.ofNat n (intCtz n sg a.toNat b.toNat) = a.ctz := by
  have hw : n < 2 ^ n := Nat.lt_two_pow_self
  have hb : ∀ i, a.toNat.testBit i = a.getLsbD i := fun i => rfl
  unfold intCtz lowestSet
  by_cases ha : a = 0
  · subst ha
    have hz : (BitVec.ctz (0#n)) = BitVec.ofNat n n := by
      have h1 : ¬ (BitVec.ctz (0#n)).toNat < n := fun h =>
        BitVec.ctz_lt_iff_ne_zero.mp (BitVec.lt_def.mpr (by simpa [Nat.mod_eq_of_lt hw] using h)) rfl
      have h2 := BitVec.le_def.mp (@BitVec.clz_le _ (0#n).reverse)
      rw [← BitVec.ctz_eq_reverse_clz] at h2
      apply BitVec.eq_of_toNat_eq
      simp [Nat.mod_eq_of_lt hw] at h2 ⊢; omega
    have : (List.range n).find? (fun i => (0#n).toNat.testBit i) = none := by simp
    rw [BitVec.ofNat_eq_ofNat, this, hz]; rfl
  · have h3 : a.ctz.toNat < n := by
      have := BitVec.ctz_lt_iff_ne_zero.mpr ha
      rw [BitVec.lt_def] at this; simpa [Nat.mod_eq_of_lt hw] using this
    have : (List.range n).find? (fun i => a.toNat.testBit i) = some a.ctz.toNat := by
      rw [List.find?_range_eq_some]
      refine ⟨BitVec.getLsbD_true_ctz_of_ne_zero ha, by simpa using h3, ?_⟩
      intro j hj; simp only [hb, BitVec.getLsbD_false_of_lt_ctz hj]; rfl
    rw [this]; simp
theorem popCount_eq (a : BitVec n) (k : Nat) : popCount k a.toNat = a.cpopNatRec k 0 := by
  unfold popCount
  induction k with
  | zero => simp
  | succ k ih =>
    rw [List.range_succ, List.filter_append, List.length_append, ih, BitVec.cpopNatRec_succ, BitVec.cpopNatRec_eq (acc := 0 + _)]
    have : a.toNat.testBit k = a.getLsbD k := rfl
    simp only [List.filter_cons, List.filter_nil, this]
    cases a.getLsbD k <;> simp

theorem intPopc_eq : BitVec.ofNat n (intPopc n sg a.toNat b.toNat) = a.cpop := by
  unfold intPopc; rw [popCount_eq, ← BitVec.toNat_cpop, BitVec.ofNat_toNat, BitVec.setWidth_eq]

/-- An integer instruction whose operation agrees with one on n-bit words gives that word, extended. -/
theorem issueInt_word {lat : Nat} {f : Nat → Bool → Nat → Nat → Nat} {w : SlotWord} {s : State}
    {g : (n : Nat) → Bool → BitVec n → BitVec n → BitVec n}
    (h : ∀ a b : BitVec (widthOf w), BitVec.ofNat (widthOf w) (f (widthOf w) (signedOf w) a.toNat b.toNat) =
      g (widthOf w) (signedOf w) a b) :
    issueInt lat f w s = .ok ([scalarLanding 1 w (s.now + lat)
      (if signedOf w then (g (widthOf w) (signedOf w) ((s.opS 1 w.a).setWidth _) ((s.opB w).setWidth _)).signExtend 64
       else (g (widthOf w) (signedOf w) ((s.opS 1 w.a).setWidth _) ((s.opB w).setWidth _)).setWidth 64)].map .land) := by
  simp only [issueInt, State.giveS, extend_ofNat, List.map_cons, List.map_nil, ← h, BitVec.toNat_setWidth]

end Sys2Proof.Machine
end

