-- ==== Sys2Proof/Tests/Slice0.lean ====
section
/-! SUPPORT. Tests: ill-formed terms that the checks refuse, words written out from the encoding tables, single steps with results worked
out from the spec, and for each statement with hypotheses a state and operands that meet them (`witness_<the statement's name>`). -/

set_option Elab.async false

namespace Sys2Proof.Test

open Sys2Proof Sys2Proof.Machine

/-! ### Well-formedness: an ill-formed term for each check of R79 that a slot word can fail, and event numbers out of range -/

theorem test_wf_add : (Instr.add { d := 1, a := 2, b := 3, wb := true }).wf = true := by decide
theorem test_ill_vector_slot : encErr false (.vshuf .v0 { d := 1, a := 2, b := 3, wb := true }) = some 6 ∧
    encErr false (.vxc .v1 { d := 1, a := 2, b := 3, wb := true }) = some 6 := by decide
theorem test_ill_firmware : encErr true (.dsync { mod := 1 }) = some 7 ∧ encErr false (.dsync { mod := 1 }) = none := by decide
theorem test_ill_guard : encErr false (.add { d := 1, a := 2, b := 3, wb := true, pred := 24 }) = some 2 := by decide
theorem test_ill_fmt : encErr false (.pand { d := 1, a := 2, b := 3, wb := true, fmt := 1 }) = some 2 := by decide
theorem test_ill_predicate : encErr false (.pand { d := 24, a := 2, b := 3, wb := true }) = some 2 := by decide
theorem test_ill_operand_code : encErr false (.add { d := 1, a := 50, b := 3, wb := true }) = some 3 := by decide
theorem test_ill_destination : encErr false (.mfc { d := 33, a := 2, wb := true }) = some 4 ∧
    encErr false (.add { d := 62, a := 2, b := 3, wb := true }) = some 4 := by decide
theorem test_ill_held_code : encErr false (.add { d := 1, a := 63, b := 3, wb := true }) = some 5 := by decide
theorem test_ill_mod : encErr false (.pand { d := 1, a := 2, b := 3, wb := true, mod := 1 }) = some 2 := by decide
theorem test_ill_hold : encErr false (.pand { d := 1, a := 2, b := 3, wb := true, hold := 1 }) = some 5 := by decide
theorem test_ill_order : encErr false (.fence {}) = some 13 := by decide
theorem test_ill_write_back : encErr false (.br { wb := true }) = some 8 := by decide
theorem test_ill_unread : encErr false (.pmov { d := 1, a := 2, b := 3, wb := true }) = some 2 := by decide
theorem test_ill_size : encErr false (.aadd { d := 1, a := 2, b := 3, wb := true, fmt := 1 }) = some 14 := by decide
theorem test_ill_control_register : encErr false (.mtc { a := 2, b := 27 }) = some 2 := by decide
theorem test_ill_event : (Instr.widxWrite 1024 0).wf = false ∧ (Instr.widxWrite 1023 0).wf = true := by decide
theorem test_ill_die : (Instr.dieFence 8).wf = false ∧ (Instr.dieFence 7).wf = true := by decide

/-! ### Words written out from the encoding tables (R57 to R62, R82, and the worked examples of the chapters), every slot -/

/-- R60: a header with no slot words. -/
theorem test_word_empty : decodeBytes [0x00, 0x04] = some (.emptyBundle { idle := 1 }) := by decide
/-- R112, the loop example of spec/05_control_scalar.md. -/
theorem test_word_loopr : decodeBytes [0x01, 0x10, 0x00, 0x20, 0x00, 0xFC, 0x18, 0x00, 0x03, 0x00, 0x00, 0x00] =
    some (.loopr { fmt := 1, d := 62, b := 1 }) := by decide
/-- R130, R174, the example of spec/03_bundle_format.md: ADD with the long immediate beside VFMA. -/
theorem test_word_add : decodeSlot .a 0x040A27C040 = some (.add { d := 5, a := 4, b := 62, wb := true }) ∧
    decodeSlot .v0 0x10040463C0 = some (.vfma .v0 { d := 2, a := 0, b := 35, pred := 3, pn := true, wb := true }) := by decide
/-- R137, the example of spec/04_opcode_map_assembly.md. -/
theorem test_word_ldl : decodeSlot .l 0x0F12220040 = some (.ldl { fmt := 6, d := 9, a := 4, b := 16, wb := true }) ∧
    decodeSlot .v0 0x10060D4050 = some (.vfma .v0 { d := 3, a := 1, b := 42, wb := true, hold := 1 }) := by decide
/-- R151, the example of spec/06_memory_sync.md. -/
theorem test_word_ldfe : decodeBytes [0x04, 0x00, 0x45, 0x40, 0x20, 0x92, 0x3B, 0x00] =
    some (.ldfe { fmt := 7, d := 9, a := 4, b := 2, wb := true, mod := 5 }) := by decide
/-- R169, the example of spec/23_program_attested_allreduce.md. -/
theorem test_word_trig : decodeBytes [0x04, 0x00, 0x23, 0xA0, 0xD1, 0x00, 0xBC, 0x00] =
    some (.trig { a := 26, b := 13, hold := 2, mod := 3 }) := by decide
/-- R191, the example of spec/07_vector.md. -/
theorem test_word_vred : decodeBytes [0x08, 0x00, 0x40, 0x00, 0x28, 0x0C, 0x98, 0x00] = some (.vred .v0 { d := 6, a := 5, wb := true }) := by
  decide
/-- R189: VSHUF (24H) in V1, D 7, A 3, B 9. -/
theorem test_word_vshuf : decodeSlot .v1 0x900E192040 = some (.vshuf .v1 { d := 7, a := 3, b := 9, wb := true }) := by decide
/-- R197, R205, the example of spec/08_matrix_scale.md. -/
theorem test_word_mstep : decodeBytes [0x20, 0x00, 0x00, 0x00, 0x00, 0x00, 0x0C, 0x00] = some (.mstep {}) ∧
    decodeSlot .x 0x1C44500001 = some (.mdrn { d := 34, a := 10, mod := 1 }) := by decide
/-- R217, R223, the example of spec/09_scan_state.md. -/
theorem test_word_schk : decodeBytes [0x40, 0x00, 0x09, 0x00, 0x48, 0x00, 0x10, 0x00] = some (.schk { a := 9, mod := 9 }) ∧
    decodeBytes [0x40, 0x10, 0x09, 0x00, 0xF0, 0x01, 0x14, 0x00, 0x01, 0x00, 0x00, 0x03] = some (.sxch { a := 62, mod := 9 }) := by decide
/-- R227, R228, the example of spec/20_program_chunked_scan.md: SSTEP.SSM with MOD 1, SSTEP.AFF with MOD 0. -/
theorem test_word_sstep : decodeBytes [0x40, 0x0C, 0x41, 0x40, 0xA2, 0x2C, 0x20, 0x00] =
      some (.sstepSsm { d := 22, a := 20, b := 18, wb := true, mod := 1 }) ∧
    decodeSlot .n 0x202CA24040 = some (.sstepAff { d := 22, a := 20, b := 18, wb := true }) := by decide
/-- R208: SCLD (01H) in F, D 3, A 9. -/
theorem test_word_scld : decodeSlot .f 0x0406480000 = some (.scld { d := 3, a := 9 }) := by decide
/-- R82: an opcode that no table lists, and a bundle whose second word is not there. -/
theorem test_word_unlisted : decodeSlot .f 0x1400000000 = none ∧ decodeBytes [0x06, 0x00, 0x00, 0x00] = none := by decide
/-- R57, R66: the bundle of the two words of spec/03_bundle_format.md, with its long immediate. -/
theorem test_word_bundle : decodeBundle false 0
      [0x0A, 0x10, 0x40, 0xC0, 0x27, 0x0A, 0x04, 0xC0, 0x63, 0x04, 0x04, 0x10, 0x45, 0x23, 0x01, 0x00] =
    .bundle { hdr := {}, words := [(.a, 0x040A27C040), (.v0, 0x10040463C0)], pad := 0, limm := some 0x12345, len := 16 } := by rfl

/-! ### Witnesses: for each statement with hypotheses, states and operands that meet them -/

/-- A launch of 64 steps, one of them granted. -/
def launchA : Launch :=
  { id := 7, queue := 3, ctx := 0, segt := 0x8000000, param := 0x11, tmpl := 0x8000100, pati := 0, erec := 0x8002000, frame := 0x8010000
    gang := 0, idem := false, migr := false, lchk := false, gw := 1, minc := 1, bounds := [64, 1, 1, 1, 1, 1], scr := 0x20000, stu := 256
    acc := 8, dies := 255, hb := 0x1000, nfr := 4, packet := 9, n := 64, f := 64, next := 8 }

/-- Core 0 runs step 5 of launch 1 in a context whose one translated entry maps the addresses below 2^36
to themselves; no general register holds anything but zero. -/
def stA : State :=
  { core := { live := true, owner := some 1, claim := 0x20000, acc := 8, utlb := [⟨0, 0, 36, 0x1E⟩]
              thr := { launch := 1, step := 5, pc := 0x4000
                       ctl := { tid := 5, launch := 7, hbase := 0x1000, slim := 256, dmbd := 0xFFFFFFFF, dmbp := 1 } }
              bun := { addr := 0x4000, len := 8 } }
    mem := (Mem.write [] 0x4000 [0x01, 0x80]).write 0x8000 [0x1E], now := 1000, launches := [(1, some launchA)], contexts := [(0, { v := true, root := 1, keymask := 1 })]
    trust := { keys := [(0, { installed := true })] }, host := { wg := 4, qen := true, trdone := true }, tokens := 100 }

/-- With a change of its thread. -/
def stThr (f : Thread → Thread) : State := stA.modThr f

/-- In handler mode. -/
def stH : State := stThr fun t => { t with ctl := { t.ctl with hnd := true, epc := 0x5550 } }

/-- A word with D, A and B named and written back. -/
def wD : SlotWord := { d := 4, a := 2, b := 3, wb := true }

/-- Words of every format that name D, A and B, some of them, or D and an immediate. -/
def words : List SlotWord :=
  (List.range 8).flatMap fun f =>
    let fmt := BitVec.ofNat 3 f
    [{ d := 4, a := 2, b := 3, fmt := fmt, wb := true }, { d := 4, a := 2, fmt := fmt, wb := true }, { d := 4, fmt := fmt, wb := true },
     { d := 4, a := 2, b := 3, fmt := fmt }, { d := 4, a := 2, fmt := fmt }, { a := 2, b := 3, fmt := fmt }, { a := 2, fmt := fmt }, { fmt := fmt }]

/-- One of these words makes an instruction free to act. -/
def readyAt (s : State) (f : SlotWord → Instr) : Bool := words.any fun w => s.ready (f w)

theorem witness_ScalarIntegerResults : (∀ x ∈ Claim.intOps, readyAt stA x.1 = true) := by decide +kernel
theorem witness_DivisionResults : stA.ready (.div wD) = true ∧ stA.ready (.rem { wD with fmt := 4 }) = true := by decide +kernel
theorem witness_PredicateResults :
    (∀ f ∈ [Instr.pand, .por, .pxor, .pandn, .pmov], readyAt stA f = true) := by decide +kernel
theorem witness_BranchTargets : stA.ready (.br { mod := 8 }) = true ∧ stA.ready (.call { d := 63, mod := 15 }) = true ∧
    stA.ready (.bri { a := 2 }) = true ∧ stA.ready (.ret {}) = true ∧ stA.ready (.lexit {}) = true := by decide +kernel
theorem witness_LoopEntry : stA.ready (.loop { d := 1, mod := 8 }) = true ∧ stA.ready (.loopr { d := 1, mod := 8, fmt := 3 }) = true ∧
    stA.ready (.loop { d := 1, mod := 4 }) = true := by decide +kernel
theorem witness_ControlRegisterReads : (∀ n < 27, stA.ready (.mfc { d := 4, a := BitVec.ofNat 6 n, wb := true }) = true) := by
  decide +kernel
theorem witness_ControlRegisterWrites : (∀ n ∈ [5, 6, 7, 8, 9, 16, 26], stA.ready (.mtc { a := 2, b := BitVec.ofNat 6 n }) = true) ∧
    stA.user = true ∧ stH.ready (.mtc { a := 2, b := 9 }) = true ∧ stH.user = false := by decide +kernel
theorem witness_Waits : stA.unperformed = false ∧ stA.core.drained = [] ∧
    ({ stA with core := { stA.core with drained := [(1, 50)] } } : State).ready (.waitc { a := 1, b := 2, d := 3 }) = true ∧ stA.ready (.waitc { a := 1, b := 2, d := 3 }) = true ∧ stA.thr.fails = [] ∧ (vget 0 stA.thr.w 1).toNat = 0 ∧
    stA.ready (.waito { a := 2 }) = true ∧ stA.localAt (stA.opS 0 2) 1 true = .inl (0, 0) ∧ stA.core.ownedAt 0 1 = false ∧
    stA.ready (.confw {}) = true ∧ stA.thr.ctl.hnd = false ∧ stA.thr.ctl.prov = false := by decide +kernel

/-- A member of a gang of one core, whose wait counter 1 stands at 2 against limits in s2 and s3. -/
def stG : State :=
  { stThr fun t => { t with w := vset t.w 1 2, s := (vset t.s 3 1) } with
    launches := [(1, some { launchA with gang := 3, gangs := [{ inst := 0, first := 5, tids := [5] }] })] }

theorem witness_Waits_phases : (∀ v < 4, stG.ready (.dsync { mod := BitVec.ofNat 4 v }) = true ∧ stG.aboveGang { mod := BitVec.ofNat 4 v } = none) ∧
    stG.core.live = true ∧ stG.myLaunch.isSome = true ∧ stG.thr.arrived = none ∧ stG.thr.ctl.count.toNat ≤ 1 ∧ stG.thr.waited < 65536 ∧
    (stG.modThr fun t => { t with arrived := some 1 }).threadsOf 1 = [{ stG.thr with arrived := some 1 }] ∧
    (stG.modThr fun t => { t with arrived := some 9 }).ready (.dsync { mod := 1 }) = true := by decide +kernel
theorem witness_Waits_limit : stG.ready (.waitc { a := 1, b := 2, d := 3 }) = true ∧
    (stG.opS 0 2).toNat < (vget 0 stG.thr.w 1).toNat ∧ 0 < (stG.opS 0 3).toNat % 2 ^ 32 ∧ stG.thr.waited < stG.thr.ctl.wlim.toNat ∧
    (stG.modThr fun t => { t with waited := 1 }).ready (.waitc { a := 1, b := 2, d := 3 }) = true := by decide +kernel
theorem witness_SuspensionAndExit : stA.ready (.susp {}) = true ∧ stA.core.live = true ∧ stA.thr.ctl.hnd = false ∧ stA.frameFree = true ∧
    stA.ready (.exit {}) = true ∧ stA.core.enginesIdle = true := by decide +kernel
theorem witness_TrapInstructions : stA.ready (.trap { a := 7, mod := 15 }) = true ∧ stA.ready (.bkpt {}) = true ∧
    stA.ready (.sysc { a := 7, mod := 15 }) = true ∧ stA.core.stage = none := by decide +kernel

/-- In handler mode with a lease that frame 2 of the launch holds. -/
def stLease : State :=
  stThr fun t => { t with
    frame := some 2, leaseSave := some stA.core.leaseImage, ctl := { t.ctl with hnd := true, lease := true, epc := 0x5550 } }

theorem witness_HandlerReturn : stA.ready (.reth {}) = true ∧ stH.ready (.reth {}) = true ∧ stLease.ready (.reth {}) = true ∧
    stLease.thr.ctl.lease = true ∧ stLease.thr.leaseSave.isSome = true ∧ stLease.myLaunch.isSome = true ∧
    stLease.thr.frame = some 2 ∧ stLease.core.enginesIdle = true := by decide +kernel
theorem witness_EngineLease : stA.ready (.lease {}) = true ∧ stH.ready (.lease {}) = true ∧ stH.user = false ∧ stH.fw = false ∧
    stH.thr.ctl.lease = false ∧ stH.frameFree = true ∧ stH.canFrame = true ∧ stH.ready (.unlease {}) = true ∧ stLease.ready (.unlease {}) = true := by
  decide +kernel

/-- The segment table at address 0 lists one segment of 64 KiB at code address 0, whose image starts at 2^20. -/
def stSeg : State := { stA with mem := ((stA.mem.write 0 [1]).write 0x16 [1]).write 0x1A [0x10] }

theorem witness_GrabAndPrefetch : stA.ready (.grab { d := 8, a := 5, wb := true }) = true ∧ stA.thr.ctl.hnd = false ∧
    (stA.myLaunch.map fun l => (l.lost, l.dead, l.again)) = some (false, false, []) ∧ stA.ready (.segpf { a := 2 }) = true ∧
    (stA.segCount matches .inl 0) = true ∧ stSeg.ready (.segpf { a := 2 }) = true ∧ (stSeg.segCount matches .inl 1) = true ∧
    (stSeg.segEntry 0 matches .inl (0, 0x10000, _)) = true ∧ stSeg.core.copying = none ∧ stSeg.core.resident 0 = false := by decide +kernel

theorem witness_InstructionRoundTrip :
    (∀ i ∈ [Instr.add wD, .vfma .v1 { d := 1, a := 2, b := 35, pred := 3, pn := true, wb := true }, .ldg { wD with fmt := 3 }],
      i.wf = true ∧ (row i).isSome = true ∧ bundleErr [i] false 0 = none) := by decide +kernel
theorem witness_BundleAndWordRoundTrip :
    (([(Slot.c, 0), (.l, 5)] : List (Slot × BitVec 40)).map fun x => x.1.num).Pairwise (· < ·) ∧ 48 + bundleLen 2 true ≤ 64 ∧
    (decodeSlot .a 0x0408106040).isSome = true := by decide +kernel

/-- Segment 0 resident with one bundle at the pc: an ADD. -/
def stRun : State :=
  { stA with core := { stA.core with banks := vset stA.core.banks 0 (some
      { index := 0, start := 0, len := 0x10000, img := 0x100000, bytes := Mem.write [] 0x4000 (encode (.add wD) {} none)
        poison := [] }) } }

theorem witness_StepRunsTheDecodedInstruction : stRun.host.stopped = false ∧ stRun.inputs = [] ∧ stRun.firstOf stRun.coreEvents = none ∧
    stRun.atBoundary = true ∧ stRun.thr.late = [] ∧ stRun.thr.deferred = none ∧ stRun.boundaryTrap = none ∧
    (stRun.fetch matches .bytes ..) = true := by decide +kernel

/-- An outcome is a result of which a test holds. -/
def okAnd {α β : Type} (x : α ⊕ β) (f : α → Bool := fun _ => true) : Bool := match x with | .inl a => f a | .inr _ => false

theorem witness_ChecksGuardsAndInterlocks :
    (row (.add wD)).isSome = true ∧ stA.core.stage = none ∧ encErr false (.add { wD with a := 50 }) = some 3 ∧ encErr false (.add wD) = none ∧
    stA.thr.getP 3 = false ∧ encErr false (.add { wD with pred := 3 }) = none ∧
    (stThr fun t => { t with ilocks := [⟨[.s 2], none, 5, false, none⟩] }).thr.locked (.s 2) = true ∧
    (stThr fun t => { t with ilocks := [⟨[.p 3], none, 5, false, none⟩] }).thr.locked (.p 3) = true ∧
    (stA.loopEnc { d := 1, mod := 8 }) = none := by decide +kernel

/-- s2 is pending or poisoned under LCHK, and stream 1 is bound nowhere. -/
def stPend : State := stThr fun t => { t with
  ctl := { t.ctl with lchk := true }, flight := [{ due := 1002, writes := [.scalar 2 7], latch := none }] }
@[inherit_doc stPend] def stBad : State := stThr fun t => { t with marks := [⟨.s 2, 0, 0x80⟩] }

theorem witness_OperandExceptions :
    (∀ x ∈ [(stA, { wD with a := 63 }, Instr.vadd .v0, fun s i => (s.heldErr (slotNo i) i).isSome),
        (stPend, wD, .add, fun s i => (s.heldErr (slotNo i) i).isNone && (s.latencyErr (slotNo i) i).isSome),
        (stA, { wD with a := 40 }, .add, fun s i => (s.latencyErr (slotNo i) i).isNone && (s.streamErr (slotNo i) i).isSome),
        (stBad, wD, .add, fun s i => (s.streamErr (slotNo i) i).isNone && (s.poisonErr (slotNo i) i).isSome)],
      let i := x.2.2.1 x.2.1
      (row i).isSome = true ∧ x.1.core.stage = none ∧ encErr x.1.fw i = none ∧ x.1.thr.locked (.p 0) = false ∧
      x.1.thr.guard x.2.1 = true ∧ (uses x.1 i).any (fun u => x.1.thr.locked u.reg) = false ∧
      (streamUses i).all (fun y => (x.1.streamBad y).isSome || x.1.streamReady y) = true ∧ x.2.2.2 x.1 i = true) := by decide +kernel
theorem witness_BitFieldsAndMoves :
    (∀ f ∈ [Instr.bfx, .bfi, .csel, .movi, .movh, .lea], readyAt stA f = true) ∧
    (∀ c < 8, stA.ready (.cmp { d := 5, a := 2, b := 3, fmt := BitVec.ofNat 3 c, wb := true }) = true) := by decide +kernel
theorem witness_ExactConversions : (∀ f ∈ [FFmt.fp32, .fp16, .bf16], 0 < 2 ^ f.width ∧ (f.decode 0).isNan = false ∧
    (f.decode (2 ^ f.width - 1)).isNan = true) := by decide +kernel
theorem witness_ExactConversions_limits :
    Claim.Reaches .rtz false ((2 : Rat) ^ (200 : Int)) ((2 : Rat) ^ (128 : Int)) ((2 : Rat) ^ (104 : Int)) ∧
    ¬ Claim.Reaches .rne true ((2 : Rat) ^ (-140 : Int)) ((2 : Rat) ^ (-126 : Int)) ((2 : Rat) ^ (-150 : Int)) := by
  unfold Claim.Reaches
  exact ⟨by decide +kernel, by decide +kernel⟩
theorem witness_ScalarFloatResults_values : Claim.Finite (FFmt.fp32.decode 0x3F800000) ∧ Claim.Finite (FFmt.fp32.decode 0x80000000) ∧
    (FFmt.fp32.decode 0x7F800001).isNan = true ∧ FFmt.fp32.decode 0xFF800000 = .inf true ∧
    Claim.Same (FFmt.fp32.decode 0x80000000) (.fin false 0 0) ∧ Claim.exact (FFmt.fp32.decode 0x3F800000) = 1 :=
  ⟨⟨_, _, _, rfl⟩, ⟨_, _, _, rfl⟩, by decide, by decide, ⟨(0, 0), by decide +kernel, by decide +kernel⟩, by decide +kernel⟩
theorem witness_ScalarFloatResults : (∀ f ∈ [Instr.sfadd, .sfmul, .sffma], readyAt stA f = true) ∧
    (∀ m ∈ [0, 1, 2, 3], readyAt stA (fun w => .sfcmp { w with mod := BitVec.ofNat 4 m }) = true) ∧
    (∀ m ∈ [0, 1, 2, 4, 5, 6, 7, 8, 9, 10, 11], readyAt stA (fun w => .sfcvt { w with mod := BitVec.ofNat 4 m }) = true) := by decide +kernel

theorem witness_VectorElementResults : (∀ x ∈ Claim.elementOps, ∀ u ∈ [VSlot.v0, .v1], readyAt stA (x.1 u) = true) := by decide +kernel
theorem witness_VectorLaneMoves : (∀ u ∈ [VSlot.v0, .v1], ∀ f ∈ [Instr.vand u, .vor u, .vxor u, .vandn u, .vmov u, .vmovi u, .vidx u,
      .vbcast u, .vsel u], readyAt stA f = true) ∧
    stA.ready (.vxc .v0 { d := 3, a := 4, b := 19, wb := true }) = true ∧ readyAt stA (.vshuf .v1) = true ∧
    readyAt (stThr fun t => { t with pat := vset t.pat 0 (Vector.replicate 64 32) }) (.vshuf .v1) = true := by decide +kernel
theorem witness_VectorMasks : (∀ u ∈ [VSlot.v0, .v1], ∀ f ∈ [Instr.vcmp u, .kand u, .kor u, .kxor u, .knot u, .kpop u, .vext u],
    readyAt stA f = true) := by decide +kernel
theorem witness_VectorConversions : (∀ u ∈ [VSlot.v0, .v1], ∀ f ∈ [Instr.vcvt u, .vpack u, .vunpk u, .vmovn u],
    readyAt stA f = true) := by decide +kernel
theorem witness_ClusterReductions : (∀ u ∈ [VSlot.v0, .v1], ∀ f ∈ [Instr.vred u, .vscan u],
    readyAt stA f = true) := by decide +kernel

theorem witness_KeyedMemory : stA.mem.wf = true ∧ Table.wf (0, 0) stA.tags = true := by decide +kernel

/-- A word of a load or store at address 0. -/
def wM : SlotWord := { d := 9, a := 2, b := 3, fmt := 3, wb := true }

theorem witness_GlobalLoads : stA.ready (.ldg wM) = true ∧
    okAnd (stA.globalAcc (stA.offAddr wM 8) 8 8 { rd := true }) (fun l => okAnd (stA.raceCheck l (stA.offAddr wM 8) false)) = true ∧
    readyAt stA .vldg = true ∧
    okAnd (stA.globalAcc (stA.offAddr wM 512) 512 64 { rd := true }) (fun l => okAnd (stA.raceCheck l (stA.offAddr wM 512) false)) = true ∧
    readyAt stA .vgtg = true ∧
    okAnd (lanesOk (fun a => stA.globalAcc a 4 4 { rd := true }) (stA.laneAddrs { wM with fmt := 0 })) (fun ls => okAnd (stA.raceLanes ls false)) =
      true := by decide +kernel

/-- Step 5 is provisional: its shape is predicted, and its buffered lines have room. -/
def stProv : State :=
  { stThr fun t => { t with ctl := { t.ctl with prov := true } } with
    launches := [(1, some { launchA with
      f := 1, shape := some { cell := 0, firm := 1, nmax := 100, slot := 0, learn := false, quota := 100, deadline := none, scans := 0, spl := 0
                              pred := some 64, inner := 1, allocs := [] }
      prov := [{ step := 5, die := 0 }] })] }

theorem witness_GlobalStores : (∀ s ∈ [stA, stProv], readyAt s .stg = true ∧
    okAnd (s.globalAcc (s.offAddr wM 8) 8 8 { wr := true })
      (fun l => okAnd (s.raceCheck l (s.offAddr wM 8) true) && !s.noRoom (s.offAddr wM 8) l && l.length = 1) = true ∧
    readyAt s .vstg = true ∧
    okAnd (s.globalAcc (s.offAddr { wM with fmt := 0 } 512) 512 64 { wr := true })
      (fun l => okAnd (s.raceCheck l (s.offAddr wM 512) true) && !s.noRoom (s.offAddr wM 512) l) = true ∧
    readyAt s .vscg = true ∧
    okAnd (lanesOk (fun a => s.globalAcc a 4 4 { wr := true }) (s.laneAddrs { wM with fmt := 0 }))
      (fun ls => okAnd (s.raceLanes ls true) && (!s.prov || s.bufferRoom (ls.flatMap fun x => linesOf x.2.1 x.2.2))) = true ∧ s.fw = false) ∧
    stA.prov = false ∧ stProv.prov = true := by decide +kernel

/-- An open engine command owns the block at 0 of the scratchpad. -/
def stOwn : State := { stA with core := { stA.core with xq := [{ op := .mdrn 0 0 0 0 0, token := 50, commit := 990, writes := blocksOf 0 65536 }] } }

theorem witness_ScratchpadAccesses : (∀ s ∈ [stA, stOwn], (∀ f ∈ [Instr.ldl, .vldl, .vgtl, .stl, .vstl, .vscl],
      readyAt s f = true) ∧
    (∀ w ∈ [false, true], okAnd (s.localAcc (s.offAddr wM 8) 8 8 true w) = true ∧ okAnd (s.localAcc (s.offAddr wM 512) 512 64 true w) = true)) ∧
    (∀ w ∈ [false, true], okAnd (lanesOk (stA.padLane w) (stA.laneAddrs { wM with fmt := 0 })) = true) ∧
    (stOwn.padOf 0).ownedAt 0 512 = true ∧ (stA.padOf 0).ownedAt 0 512 = false := by decide +kernel

/-- s2 is the address 2^40 + 1 outside the claim and the translated page, or the odd address 1; no page is in the micro-TLB. -/
def stFar : State := stThr fun t => { t with s := vset t.s 2 0x10000000001 }
@[inherit_doc stFar] def stOdd : State := stThr fun t => { t with s := vset t.s 2 1 }
@[inherit_doc stFar] def stMiss : State := { stA with core := { stA.core with utlb := [] } }

theorem witness_AccessExceptions : (∀ s ∈ [stFar, stOdd, stMiss], ∀ f ∈ [Instr.ldg, .stg, .vldg, .vstg, .ldl, .stl, .vldl, .vstl],
      readyAt s f = true) ∧
    (stMiss.look 0 8 { rd := true } matches .miss _) = true ∧
    (({ stMiss with core := { stMiss.core with wfaults := [⟨0, 0, 5, 2⟩] } } : State).look 0 8 { rd := true } matches .fault 5 2 _) = true ∧
    (stOdd.look 1 8 { wr := true } matches .ok _) = true ∧
    (stFar.localAt 0x10000000001 8 true matches .inr _) = true ∧ (stOdd.localAt 1 8 true matches .inl _) = true := by decide +kernel

/-- Word 0 of the scratchpad is full. -/
def stFull : State := { stA with core := { stA.core with full := [0] } }

theorem witness_TaggedOperations : (∀ s ∈ [stA, stFull], (∀ f ∈ [Instr.ldf, .ldfe, .ste, .stfl, .fez, .feq],
      readyAt s f = true) ∧
    okAnd (s.tagWord { a := 2, fmt := 3 } false {}) (fun x => x.1 = 0 && x.2.1 = 0) = true ∧
    okAnd (s.tagWord { a := 2, fmt := 3 } true {}) (fun x => x.1 = 0 && x.2.1 = 0) = true) ∧
    stA.core.full.has 0 = false ∧ stFull.core.full.has 0 = true := by decide +kernel

/-- A word of an atomic, a reduction or a barrier at address 0 of global memory, and of the scratchpad. -/
def anyMod (s : State) (f : SlotWord → Instr) (good : SlotWord → Bool) : Bool :=
  (List.range 16).any fun m => words.any fun w => let v : SlotWord := { w with mod := BitVec.ofNat 4 m }; s.ready (f v) && good v

theorem witness_AtomicsAndReductions : (0 < 64) ∧
    (∀ f ∈ [Instr.aadd, .afadd, .amin, .amax, .aand, .aor, .axor, .axch, .acas, .ainsm, .affcs, .apls],
      anyMod stA f (fun w => okAnd (stA.placeOf w (sizeOf_ w) (sizeOf_ w) { rd := true, wr := true }) fun x => x.1.rank.isNone) = true) ∧
    (∀ f ∈ [Instr.redadd, .redfadd, .redmin, .redmax, .redand, .redor, .redxor], ∀ s ∈ [stA, stProv],
      anyMod s f (fun w => okAnd (s.placeOf w (sizeOf_ w) (sizeOf_ w) { wr := true }) fun x =>
        x.1.rank.isNone && (!s.prov || (x.1 matches .mem _)) && (match x.1 with | .mem l => !s.noRoom x.2 l | _ => true)) = true) ∧
    stA.prov = false ∧ stA.fw = false := by decide +kernel
/-- The bundle holds with its arrival request gone, and the response is due or not. -/
def stBarv (due : Nat) (r : DWord ⊕ TrapInfo) : State := stThr fun t => { t with barv := some ⟨due, r⟩ }

theorem witness_BarriersAndFences : readyAt (stBarv 990 (.inl 5)) .barv = true ∧ readyAt (stBarv 1005 (.inl 5)) .barv = true ∧
    readyAt (stBarv 990 (.inr { cause := 0x0D })) .barv = true ∧ (∀ f ∈ [Instr.bari, .barv, .barw],
      anyMod stA f (fun w => okAnd (stA.placeOf w 16 16 { rd := true, wr := true }) fun x => !stA.barStall x.1 && x.1.rank.isNone) = true) ∧
    anyMod stA .bari (fun w => okAnd (stA.placeOf w 16 16 { wr := true })) = true ∧
    anyMod stA .barw (fun w => okAnd (stA.placeOf w 16 16 { rd := true })) = true ∧
    stA.ready (.fence { hold := 1 }) = true ∧ stA.ready (.fence { hold := 3 }) = true ∧ stA.thr.ilocks = [] ∧ stA.fw = false := by decide +kernel

/-- Stream 2 is bound as an outgoing stream to the ring at 0, which is empty; the descriptor at 0x200 binds stream 3 to the lines at 0x400. -/
def stQ : State := { stThr fun t => { t with
    q := vset t.q 2 { bound := true, out := true, base := 0, lines := 4 }, s := vset t.s 2 0x200 } with
  core := { (stThr fun t => { t with q := vset t.q 2 { bound := true, out := true, base := 0, lines := 4 }, s := vset t.s 2 0x200 }).core with
    scratch := (Mem.write [] 0x201 [4]).write 0x204 [2] } }

theorem witness_CopiesAndStreams : readyAt stA .cpy = true ∧ stA.prov = false ∧
    stQ.ready (.qbind { d := 3, a := 2 }) = true ∧ (vget {} stQ.thr.q 3).engine = none ∧
    okAnd (stQ.localAcc (stQ.opS 2 2) 32 32 true false) (fun x => x.2 = 0x200) = true ∧ stQ.core.ownedAt 0x200 32 = false ∧
    stQ.ready (.qbind { d := 2, a := 2 }) = true ∧ stQ.ready (.qstop { d := 2 }) = true ∧ stQ.ready (.qdrn { d := 2 }) = true ∧
    stQ.ready (.qdrn { d := 3 }) = true := by decide +kernel

/-- Trigger counter 0 of die 0 is enabled for context 0. -/
def stTrig : State := { stA with triggers := [(0, { en := true })] }

theorem witness_SignalsAndTriggers : readyAt stA .csub = true ∧ stA.prov = false ∧
    okAnd (stA.globalAcc (stA.opS 2 2) 128 128 { rd := true }) = true ∧ readyAt stA .trig = true ∧ stA.trigCounter 0 0 = none ∧
    readyAt stTrig .trig = true ∧ stTrig.trigCounter 0 0 = some 0 ∧ readyAt stA .sigop = true ∧
    okAnd (stA.globalAcc (stA.opS 2 2) 8 8 { rd := true, wr := true })
      (fun l => match l with | [(0, 8, .phys ..)] => true | _ => false) = true ∧ readyAt stA .pref = true := by decide +kernel

/-- The scratchpad of stE: a matrix configuration at 0x1000, a window descriptor at 0x1080, a chunk descriptor at 0x1100. -/
def padE : Mem :=
  let le (n x : Nat) : List Byte := natBytes n x
  ((Mem.write [] 0x1000 (le 4 0x2000 ++ le 4 0x6000 ++ le 16 0 ++ le 2 1 ++ le 2 2 ++ le 4 2 ++ [0, 1, 0x21, 0x43, 0x11, 0, 0, 0] ++
    le 4 0x1000 ++ le 4 0x1000)).write 0x1080 (le 4 0 ++ le 4 4 ++ le 4 1 ++ le 4 0 ++ [1, 0, 1, 1] ++ le 4 0xFFFFFFFF ++ le 4 0)).write 0x1100
    (le 2 2 ++ [0, 0, 0, 0, 0, 0] ++ le 4 0x2000 ++ le 4 0x4000 ++ le 4 0x8000 ++ le 4 0xC000 ++ le 4 8192 ++ le 4 8192 ++ le 4 8192 ++
      le 4 8192)

/-- A thread free to use its engines: s12, s14 and s15 hold the addresses of the descriptors, the configuration is taken, o1 is MAX. -/
def stE : State :=
  { stA with
    launches := [(1, some { launchA with
      scans := [{ opw := 0, leaves := 4, dsh := 0, psh := 0, dies := [0], rbase := 0, tag := 0, absent := 4 }] })]
    core := { stA.core with
      scratch := padE
      thr := { stA.thr with
        s := vset (vset (vset stA.thr.s 12 0x1000) 14 0x1080) 15 0x1100, mcfg := MConfig.ofBytes (padE.read 0x1000 64) } } }

/-- Both command queues are full, and every wait counter is at its largest. -/
def stFullQ : State := { stE with core := { stE.core with
  xq := List.replicate 16 { op := .mzero 3, token := 50, commit := 990 }
  nq := List.replicate 16 { op := .sid 200 false 0, token := 51, commit := 990, units := [200] }
  thr := { stE.thr with w := Vector.replicate 4 0xFFFF } } }

theorem witness_NotInHandlerMode : stH.mayEngine = false ∧ stH.thr.ctl.hnd = true ∧
    (∀ f ∈ [Instr.mcfg, .mwin, .mzero, .amvr, .amvw, .mdrn, .mfin, .mstep, .scld, .scmv, .patld, .patsw, .sid, .scmb, .sstepAff, .sstepSsm,
      .srd, .swr, .sspl, .sfil, .sopd, .schk, .sfix, .sxch, .swt, .dsync, .susp, .exit, .confw, .grab],
      anyMod stH f (fun w => !stH.roomHold (f w)) = true) ∧
    (∀ s ∈ [stE.modThr fun t => { t with ctl := { t.ctl with hnd := true } }], s.mayEngine = false ∧ s.ready (.mstep {}) = true ∧
      [Instr.mstep {}, .schk { a := 15 }, .sfix { a := 15 }].all (fun i => !s.roomHold i) = true ∧
      mstepIll {} s = none ∧ s.ready (.schk { a := 15 }) = true ∧ chunkIll (.schk { a := 15 }) false { a := 15 } s = none ∧
      s.ready (.sfix { a := 15 }) = true ∧ chunkIll (.sfix { a := 15 }) true { a := 15 } s = none ∧
      s.ready (.sopd { a := 2, d := 1 }) = true ∧ sopdIll { a := 2, d := 1 } s = none ∧ s.core.freezeReq = none) ∧
    stH.aboveGang {} = none := by decide +kernel
theorem witness_EngineConfiguration : stE.mayEngine = true ∧
    (∀ x ∈ [(Instr.mcfg { a := 12 }, 5, 12, 64), (.mwin { a := 14 }, 5, 14, 32), (.scld { d := 3, a := 12 }, 7, 12, 256),
        (.patld { d := 3, a := 12 }, 7, 12, 16)],
      stE.ready x.1 = true ∧ okAnd (stE.localAt (stE.opS x.2.1 x.2.2.1) x.2.2.2 true)
        (fun y => y.2 = 0x1000 || y.2 = 0x1080) = true ∧ (stE.opS x.2.1 x.2.2.1).toNat % 64 = 0 ∧
      stE.core.ownedAt (stE.opS x.2.1 x.2.2.1).toNat x.2.2.2 = false) ∧
    (MConfig.ofBytes (stE.core.scratch.read 0x1000 64)).isSome = true ∧ (MWindow.ofBytes (stE.core.scratch.read 0x1080 32)).isSome = true ∧
    anyMod stE .scmv (fun _ => true) = true ∧ stE.thr.markOf [.e 0] = none ∧ stE.ready (.patsw {}) = true ∧
    stE.ready (.sopd { a := 2, d := 1 }) = true := by decide +kernel
theorem witness_MatrixCommands : stE.mayEngine = true ∧ (∀ s ∈ [stE, stFullQ], s.ready (.mstep {}) = true ∧ s.thr.mcfg.isSome = true ∧
      mstepIll {} s = none ∧ s.thr.mctr = (0, 0, 0) ∧ s.ready (.mzero { d := 2 }) = true ∧ 
      anyMod s .amvr (fun _ => true) = true ∧ anyMod s .amvw (fun _ => true) = true ∧ s.ready (.mfin { d := 3 }) = true ∧
      s.ready (.mdrn { d := 2, a := 2 }) = true ∧ okAnd (s.localAt (s.opS 5 2) 65536 true) = true) ∧
    ({ stE with core := { stE.core with acc := 2 } } : State).ready (.mzero { d := 2 }) = true ∧ stE.core.xq.length = 0 ∧ stFullQ.core.xq.length = 16 ∧ stE.claimOf 0 = 0x20000 ∧
    (stE.thr.mcfg.map fun c =>
      (aSpans 0 c.abase c.aps (stepDepth 0 c.bfmt.toNat) none ++ operandSpans c.bfmt.toNat c.bbase c.bps (stepDepth 0 c.bfmt.toNat)).all
        fun x => decide (0 ≤ x.1) && decide (x.1 + x.2 ≤ 0x20000)) = some true := by decide +kernel

/-- An open command of each kind of the matrix engine. -/
def opX : List XOp :=
  [.mstep 2 true 0 0 0 false false 0x2000 0x6000 0 0 Scale.zero Scale.zero none, .mzero 2, .amvr 2 5 3 5 1, .amvw 2 126 1 [Vec.zero, Vec.zero], .mdrn 2 0 0 0x4000 2]
@[inherit_doc opX] def stX (op : XOp) : State := { stE with core := { stE.core with xq := [{ op := op, token := 50, commit := 990 }] } }

theorem witness_MatrixCompletions : (∀ op ∈ opX, (stX op).core.xq[0]?.isSome = true ∧
    (stX op).core.canComplete 0 { op := op, token := 50, commit := 990 } = true) ∧ stE.core.exiting = false ∧ stE.halted stE.thr.launch = false ∧ stE.core.discard = false ∧
    ({ (stX (.mzero 2)).core with discard := true } : Core).canComplete 0 { op := .mzero 2, token := 50, commit := 990 } = true := by
  decide +kernel
theorem witness_ScanCommands : stE.mayEngine = true ∧ (∀ s ∈ [stE, stFullQ],
      (∀ i ∈ [Instr.sid {}, .schk { a := 15 }, .sfix { a := 15 }, .sxch { a := 2 }, .srd { d := 4, wb := true }, .swr { d := 4 },
        .sspl { a := 2 }, .sfil { a := 2 }, .sspl { d := 32, a := 2 }, .sfil { d := 32, a := 2 }], s.ready i = true) ∧
      s.thr.ctl.sbase.toNat + 64 ≤ s.thr.ctl.slim.toNat ∧ (vget 0 s.thr.o 0).getLsbD 3 = false ∧
      okAnd (s.localAt (s.opS 6 15) 64 true) (fun x => x.2 = 0x1100) = true ∧ s.core.ownedAt 0x1100 64 = false ∧
      ((Chunk.ofBytes false (s.core.scratch.read 0x1100 64)).map fun d =>
        d.hd.isPad && d.xd.isPad && d.init.isNone && (s.chunkStreams d).isNone &&
          (s.chunkBound false (d.as_.tiles d.len ++ d.bs.tiles d.len ++ (d.hd.tiles d.len ++ d.xd.tiles d.len))).isNone &&
          (s.chunkBound false (d.hd.tiles d.len ++ d.xd.tiles d.len)).isNone) = some true ∧ s.leafErr_ 0 0 = none ∧ okAnd (s.localAt (s.opS 6 2) 4096 true) = true ∧
      (s.look (s.opS 6 2) 4096 { rd := true } matches .ok _) = true ∧ (s.look (s.opS 6 2) 4096 { wr := true } matches .ok _) = true) ∧
    stE.thr.ctl.hnd = false ∧ stE.core.nq.length = 0 ∧ stFullQ.core.nq.length = 16 ∧ tileUnits false = 1 := by decide +kernel
theorem witness_ScanUpdates : stE.mayEngine = true ∧ stE.ready (.scmb { d := 4, a := 6, b := 8, wb := true }) = true ∧
    (∀ i ∈ [Instr.sstepAff { d := 4, a := 6, b := 2, wb := true }, .swt { d := 3 }], stE.ready i = true) ∧ stE.ready (.sstepSsm { d := 4, a := 6, b := 2, wb := true, mod := 1 }) = true ∧ (stE.opS 6 2).toNat < 2 ^ 12 ∧ (vget 0 stE.thr.o 0).getLsbD 3 = false ∧
    stE.core.unitsBad (tileUnitsAt false 0 ++ tileUnitsAt false (tileUnits false)) = false ∧ stE.thr.markOf [.e 0] = none ∧
    stE.core.unitBusy (tileUnitsAt false 0) = false ∧ stE.core.waitsFor 0 = false ∧
    ({ stE.core with pending := [0] } : Core).waitsFor 0 = true := by decide +kernel

/-- An open command of each kind of the scan engine. -/
def opN : List NOp :=
  [.sid 0 false 0, .schk 0 false 0 ⟨1, .discard, .discard, .discard, .discard, none, []⟩, .sfix 0 false 0 ⟨1, .discard, .discard, .pad 0 0, .pad 0 0, none, []⟩,
   .sxch 0 false 0 0 2, .srd 0 0 1 4 true false, .swr 0 0 false [Vec.zero], .sspl 0 1 1 (.inl 0x4000), .sfil 0 1 1 (.inl 0x4000)]
@[inherit_doc opN] def stN (op : NOp) : State := { stE with core := { stE.core with nq := [{ op := op, token := 50, commit := 990 }] } }

theorem witness_ScanCompletions : (∀ op ∈ opN, (stN op).core.nq[0]?.isSome = true ∧
    (stN op).core.turnN [] { op := op, token := 50, commit := 990 } = true) ∧ stE.core.exiting = false ∧ stE.core.discard = false ∧
    stE.unfrozen = true ∧ (stE.scan? 1 0).isSome = true := by decide +kernel

theorem witness_TrapEntry : stA.thr.ctl.hnd = false ∧ stA.thr.ctl.hbase ≠ 0 ∧ stH.thr.ctl.hnd = true ∧ stH.fw = false ∧
    Table.wf none stH.launches = true ∧ stH.myLaunch.isSome = true := by decide +kernel

/-- Exposed results are due, one of them of the replay buffer; an interlocked result has come; two accesses await acknowledgement; die 0
walks for this core, and die 1 in a context that has no page table. -/
def stFlight : State :=
  { stThr fun t => { t with
      flight := [{ due := 1000, writes := [.scalar 4 7], latch := some (1, .scalar 7) }]
      ilocks := [⟨[.s 9], some { due := 0, writes := [.scalar 9 3], latch := none }, 3, true, none⟩] } with
    launches := [(1, some { launchA with acks := [{ tid := 5, va := none }, { tid := 6, va := some 64 }] })]
    dies := (stA.dies.set 0 { stA.die 0 with walks := [⟨0, 0x4000, 0, {}⟩] }).set 1 { stA.die 1 with walks := [⟨7, 0x4000, 0, {}⟩] } }
@[inherit_doc stFlight] def stReplay : State :=
  stThr fun t => { t with flight := [{ due := 1000, writes := [.scalar 4 7], latch := none, replay := true }] }

theorem witness_ResultsLand : stFlight.lands = true ∧ stReplay.lands = true ∧ stFlight.thr.due stFlight.landLimit true = false ∧
    (match stFlight.walkFor 0 ⟨0, 0x4000, 0, {}⟩ with | .inl e => stFlight.walkOk e ⟨0, 0x4000, 0, {}⟩ | _ => false) = true ∧ stFlight.thr.due stFlight.landLimit false = true ∧ stFlight.landLimit = 1000 ∧
    stReplay.thr.due stReplay.landLimit true = true ∧ stReplay.thr.due stReplay.landLimit false = false ∧
    ((stFlight.thr.ilocks[0]?).bind Ilock.land).isSome = true ∧ stFlight.awaited[1]? = some (1, 1) ∧
    (stFlight.walkFor 0 ⟨0, 0x4000, 0, {}⟩ matches .inl _) = true ∧ (stFlight.die 0).walks[0]? = some ⟨0, 0x4000, 0, {}⟩ ∧
    (stFlight.walkFor 1 ⟨7, 0x4000, 0, {}⟩ matches .inr _) = true ∧ (stFlight.die 1).walks[0]? = some ⟨7, 0x4000, 0, {}⟩ := by decide +kernel

/-- A wait of a limit of two cycles, or of none, has been held for longer than the limit and WLIM. -/
def stWait (limit : Nat) : State :=
  { stThr fun t => { t with waited := 65536 } with
    core := { (stThr fun t => { t with waited := 65536 }).core with waitInfo := some { limit := limit, detail := 1, wlim := true } } }

/-- The core is frozen by a pre-emption; its thread has or has not a frame. -/
def stFrozen : State :=
  { stA with core := { stA.core with freezeReq := some (999, 3), thr := { stA.thr with frame := some 2 } } }

/-- Another package reports an access of thread 5, or of a thread 6 that has exited. -/
def reportOf (tid : Nat) : LateReport := { launch := 1, tid := tid, info := { cause := 5, detail := 2 }, pc := 0x4000 }

theorem witness_BoundaryEvents : (let s : State := { stBarv 1005 (.inl 5) with
        core := { (stBarv 1005 (.inl 5)).core with freezeReq := some (999, 3) } }
      s.running = true ∧ s.core.exiting = false ∧ s.thr.barv.isSome = true ∧ s.canIssue = true) ∧
    (stBarv 1005 (.inl 5)).canIssue = true ∧ reportNames (reportOf 5) (stBarv 1005 (.inl 5)).thr = true ∧
    (stBarv 1005 (.inl 5)).hasExited (reportOf 5) = false ∧ stA.canIssue = true ∧ stA.thr.deferred = none ∧ stA.thr.late = [] ∧ stA.boundaryTrap.isSome = true ∧
    stA.thr.breakSkip = false ∧ (stWait 2).core.waitInfo.isSome = true ∧ (stWait 2).canIssue = true ∧ 2 ≤ (stWait 2).thr.waited ∧
    (stWait 0).thr.wlimF.getD (stWait 0).thr.ctl.wlim.toNat ≤ (stWait 0).thr.waited ∧ (stWait 0).frameFree = true ∧ stA.fw = false ∧
    stA.preemptable = true ∧ (stA.launch? 1).isSome = true ∧ reportOk (reportOf 5).info = true ∧ reportNames (reportOf 5) stA.thr = true ∧
    stFrozen.canIssue = false ∧ stFrozen.core.live = true ∧ stFrozen.hasExited (reportOf 5) = false ∧
    reportNames (reportOf 6) stA.thr = false ∧ (stA.threadsOf 1).any (reportNames (reportOf 6)) = false := by decide +kernel

/-- Streams 1 and 2 of the thread are fed and drained, with an element of eight bytes free and full in turn; a copy of eight bytes into the
scratchpad by the template at 0x8000100, under which the template of launchA lies; segment 0 is being copied. -/
def stFed : State :=
  let sub : Subscription := { drain := false, count := 4, base := 0x40000, n1 := 4, s1 := 8, s2 := 0 }
  let t : Thread := { stSeg.thr with
    q := vset (vset stSeg.thr.q 1 { bound := true, base := 0, lines := 1, subs := some sub, idle := false }) 2
      { bound := true, out := true, base := 128, lines := 1, subs := some { sub with drain := true, base := 0x50000 }, idle := false } }
  { stSeg with
    core := { stSeg.core with thr := t, full := [16], scratch := Mem.write [] 128 (natBytes 8 77), copying := some ⟨0, 0, 0x100, 0x100000⟩ }
    copies := [(3, some { who := some stSeg.me, core := 0, ctx := 0, user := true, ctr := 1, src := 0x60000, dst := 0x200, tmpl := 0x8000100
                          image := none, scope := 0 })]
    mem := ((stSeg.mem.write 0x8000101 [1, 1]).write 0x8000104 [8]).write 0x8000108 [1, 0, 0, 0, 1] }

/-- The template as it is read, a copy whose template is invalid, and one whose destination lies outside the claim. -/
def imageF : List Byte := (stFed.copyImage (((tget none stFed.copies 3)).getD ⟨none, 0, 0, false, 0, 0, 0, 0, none, 0, 0, none, 0, 0, 0, false, 0⟩)).getD []
@[inherit_doc imageF] def copyF : Copy := { who := some stSeg.me, core := 0, ctx := 0, user := true, ctr := 1, src := 0x60000, dst := 0x200
                                            tmpl := 0x8000100, image := none, scope := 0 }

theorem witness_MemoryEngines :
    (let b := stFed.thr.q[1]
     b.subs.isSome = true ∧ stFed.feeds b false = true ∧ stFed.busHeld stFed.ctxOf 0x40000 b.size 0 false = false ∧ (wordsOf b.feedSlot b.size).any stFed.core.full.has = false ∧
      okAnd (stFed.agentRead stFed.ctxOf true 0x40000 b.size) (fun x => !x.2) = true) ∧
    (let b := stFed.thr.q[2]
     b.subs.isSome = true ∧ stFed.feeds b true = true ∧ stFed.busHeld stFed.ctxOf 0x50000 b.size 0 true = false ∧ (wordsOf b.feedSlot b.size).all stFed.core.full.has = true ∧
      (stFed.agentWrite stFed.ctxOf true 0x50000 (stFed.core.scratch.read b.feedSlot b.size)).isSome = true) ∧
    tget none stFed.copies 3 = some copyF ∧ stFed.copyFrozen copyF = false ∧ stFed.owedBefore copyF.who 3 = false ∧ stFed.copyStray copyF = false ∧
    stFed.copyImage copyF = some imageF ∧
    ((Template.ofBytes imageF).map fun tm => tm.words = 1 && (stFed.copyCheck copyF tm tm.words 0).isNone &&
      okAnd (stFed.copySource copyF tm 0) (fun x => !x.2) && tm.full && tm.dsp = 1 &&
      (stFed.copyLocal copyF (copyF.dstAt tm 0) = some (0, 0x200, true)) &&
      ((stFed.copyCheck { copyF with dst := 0x400000000 } tm tm.words 0).isSome) &&
      (stFed.draw.copyLine copyF tm ((copyF.dstAt tm 0).toNat / 128) 16 0).2.2.isNone) = some true ∧
    stFed.copyImage { copyF with tmpl := 0x1000000000 } = none ∧
    ((stFed.copyImage { copyF with tmpl := 0x8000000 }).map fun bs => (Template.ofBytes bs).isNone) = some true ∧
    stFed.core.owner = some copyF.launch ∧ stFed.core.ownedAt 0x200 8 = false ∧ stFed.core.live = true ∧
    (stSeg.fetch matches .stall _) = true ∧ stSeg.canIssue = true ∧ stSeg.core.copying = none ∧
    okAnd (stFed.agentRead stFed.ctxOf stFed.user 0x100000 0x100 true) = true ∧ stFed.canIssue = true := by decide +kernel

/-- Two steps wait on die 0, one for core 3, and nothing on die 1. -/
def stDisp (next : Nat) : State := { stA with launches := [(1, some { launchA with next := next, disp := [⟨0, 8, 10⟩] })] }

theorem witness_StepsStart : (∀ s ∈ [stDisp 10, stDisp 64], Table.wf none s.launches = true ∧ Table.wf {} s.parked = true ∧
      (s.launch? 1).map (fun l => s.canRun l && !l.ganged && l.dies.getLsbD 1 && !(s.die 1).fenced && !l.newOn 1 && !l.stopped.contains 1 &&
        !l.lost && l.again = [] && 0 < l.minc) = some true) ∧
    ((stDisp 10).launch? 1).map (fun l => decide (l.next < l.n)) = some true ∧
    ((stDisp 64).launch? 1).map (fun l => decide (l.n ≤ l.next)) = some true ∧ (stDisp 10).workOn 3 = some (1, .step) ∧
    ((stDisp 10).launch? 1).map (fun l => l.conts = [] && (stDisp 10).canGive 1 l 3 &&
      ((l.disp.find? fun d => d.die = dieOf 3 && d.next < d.stop).isSome)) = some true := by decide +kernel

/-- A continuation of step 6 that stood on core 3, which holds the claim; the quantum of the thread is over; launch 2 of a higher
priority, whose claim fits no core, has a step; a gang's swapped member is still resident. -/
def stCont : State :=
  { stA with
    parked := [(3, { owner := some 1, claim := 0x20000 })]
    launches := [(1, some { launchA with
      conts := [(0, { thr := { launch := 1, step := 6, pc := 0x4000, ctl := { tid := 6 }, frame := some 1 }, core := 3, reason := 3 })] })] }
@[inherit_doc stCont] def stQuantum : State := { stA with now := 2_000_000 }
@[inherit_doc stCont] def stPrio : State :=
  { stA with queues := [(4, { prio := 0 })]
             launches := [(1, some launchA), (2, some { launchA with queue := 4, scr := 0x800000, disp := [⟨0, 0, 1⟩] })] }
@[inherit_doc stCont] def stSwap : State :=
  { stA with launches := [(1, some { launchA with gang := 1, gangs := [{ inst := 0, first := 5, tids := [5], swapped := true }] })] }
@[inherit_doc stCont] def stGang : State := { stA with launches := [(1, some { launchA with gang := 1, gw := 2, next := 8 })] }

theorem witness_ThreadsMove : (∀ s ∈ [stFrozen, stCont, stQuantum, stPrio, stSwap, stGang],
      Table.wf none s.launches = true ∧ Table.wf {} s.parked = true) ∧
    stFrozen.core.freezeReq.isSome = true ∧ stFrozen.myLaunch.isSome = true ∧ stFrozen.canSave = true ∧
    stCont.workOn 3 = some (1, .cont 0) ∧ stQuantum.running = true ∧ stQuantum.fw = false ∧
    stQuantum.thr.quantum + 1000 * (tget {} stQuantum.queues 3).quant.toNat ≤ stQuantum.now ∧
    stPrio.readyPrio 0 = some 0 ∧ stPrio.lacks 0 0 = true ∧ stPrio.victim 0 0 = some 0 ∧
    stSwap.core.live = true ∧ stSwap.core.frozen = false ∧ stSwap.core.exiting = false ∧ stSwap.core.freezeReq = none ∧
    stSwap.thr.ctl.tid.toNat ∈ [5] ∧
    (stGang.launch? 1).map (fun l => stGang.canRun l && l.ganged && stGang.gangCores 1 l [2, 3] && stGang.gangFits 1 l 0 [2, 3] && l.nextGang = some (8, 2, 0) &&
      ([2, 3] : List Nat).all (fun c => !stGang.evictedFor 1 l c)) = some true ∧ (stA.die 3).fenced = false := by decide +kernel

/-- Launch 1 is predicted: its cell at 0x70000 holds 3, its time limit has passed, and its step 5 is confirmed and waits to commit. -/
def stShape (st : StepState) : State :=
  { stA with
    mem := stA.mem.write 0x70000 [3, 0, 0, 0, 0, 0, 0, 0x80]
    psb := [⟨1, 5, 0, 0x600, [.bytes 0x30000 0 [1, 2]]⟩]
    launches := [(1, some { launchA with
      f := 1, n := 64
      shape := some { cell := 0x70000, firm := 1, nmax := 100, slot := 0, learn := false, quota := 100, deadline := some 900, scans := 0
                      spl := 0, pred := some 64, inner := 1, allocs := [] }
      prov := if st = .committing then [{ step := 5, die := 0, st := st }] else [] })] }

/-- Thread 5 has posted leaf 1 of scan 0, leaf 0 is posted too, and the carry of leaf 1 is there; the scan's rounds go over two packages. -/
def stScan : State :=
  let post (l : Nat) : Post := ⟨l, { vals := some [] }, stA.me, 4, 0⟩
  { stA with
    launches := [(1, some { launchA with
      scans := [{ opw := 0, leaves := 4, dsh := 2, psh := 0, dies := [0], rbase := 0, tag := 0, absent := 4
                  posts := [post 0, post 1], carries := [post 1] }] })] }

theorem witness_PredictionAndNetwork : (∀ s ∈ [stShape .provisional, stShape .committing, stScan], Table.wf none s.launches = true) ∧
    ((stShape .provisional).openShape 1).map (fun x => decide (x.2.cell ≠ 0) && (match x.2.deadline with | some d => d ≤ 1000 | none => false) &&
      x.1.prov = [] && x.2.allocs = [] && x.2.scans = 0) = some true ∧
    okAnd ((stShape .provisional).agentRead 0 false 0x70000 8) (fun x => cellShape 100 (bytesNat x.1) = some 3) = true ∧
    ((stShape .committing).launch? 1).map (fun l => l.commitNext.isSome && !l.dead && !l.frozen) = some true ∧
    (stShape .committing).core.live = true ∧ (stShape .committing).thr.step = 5 ∧
    (stScan.scan? 1 0).map (fun c => (c.carryFor 1).isSome && !c.aborted && c.formed false 0 1 && (c.operands false 0 1).isSome) = some true ∧
    stScan.core.frozen = false ∧ stScan.thr.ctl.hnd = false := by decide +kernel

/-- A packet of a type and a length in granules, with the fields at some offsets, in the ring of queue 3 at 0x90000. -/
def pkt (typ len : Nat) (fields : List (Nat × List Byte)) (held : Bool := false) : State :=
  let le (n x : Nat) : List Byte := natBytes n x
  let bs := fields.foldl (fun (m : Mem) f => m.write f.1 f.2) (Mem.write [] 0
    (le 4 (1 + 2 * typ + 256 * len + if held then 65536 else 0) ++ [if held then 1 else 0]))
  { stA with
    mem := stA.mem.write 0x90000 (bs.read 0 (32 * len))
    queues := [(3, { base := 0x90000, en := true, priv := true, widx := BitVec.ofNat 32 len })] }

/-- A LAUNCH of 64 steps, a COPY by a template of zeros, a WAITSIG for 0 or 1 at 0x70000, a SETSIG, a COLL, a MARK, and the QCTL types. -/
def pLaunch : State := pkt 1 6 [(32, natBytes 8 0x8000000), (48, natBytes 8 0x8000100), (64, natBytes 8 0x8002000), (72, natBytes 8 0x8010000),
  (90, [1]), (92, [1]), (94, [1]), (96, natBytes 4 64), (100, [1]), (104, [1]), (108, [1]), (112, [1]), (116, [1]), (127, [255]), (140, [1])]
@[inherit_doc pLaunch] def pCopy : State := pkt 2 2 [(32, natBytes 8 0x8000100), (40, natBytes 8 0x60000), (48, natBytes 8 0x70000)]
@[inherit_doc pLaunch] def pWait (v : Nat) : State := pkt 3 2 [(40, natBytes 8 v), (48, natBytes 8 0x70000)]
@[inherit_doc pLaunch] def pSet : State := pkt 4 2 [(40, natBytes 8 5), (48, natBytes 8 0x70000)]
@[inherit_doc pLaunch] def pColl : State := pkt 5 2 [(32, natBytes 8 0x92000)]
@[inherit_doc pLaunch] def pMark : State := pkt 7 1 []
@[inherit_doc pLaunch] def pReset : State := pkt 8 2 [(32, [1]), (34, [4])]
@[inherit_doc pLaunch] def pShoot : State := pkt 8 2 [(32, [2]), (48, natBytes 8 0x4000)]
@[inherit_doc pLaunch] def pFree : State :=
  { pkt 8 2 [(32, [3]), (36, [1]), (40, natBytes 8 0x200000), (48, natBytes 8 128)] with
    pools := [(0, { base := 0x4000, tag := 1, v := true, lines := 64, taken := [(0, 128)] })] }

/-- A SHAPE packet for the launch whose packet started at index 5 of queue 3; and a handle that names none. -/
def pShape (v : Bool) : State :=
  { pkt 6 2 [(32, natBytes 8 (3 + 5 * 65536 + if v then 2 ^ 63 else 0)), (40, natBytes 4 2)] with
    launches := (stShape .provisional).launches
    packets := [(9, some { queue := 3, index := 5, typ := 1, cmode := 0, ivec := 0, sig := 0, amt := 0, stat := 0, succ := [], body := [] })] }

/-- A state's next packet in queue 3 is of a type. -/
def startsAs (s : State) (typ : Nat) : Bool := match s.nextPacket 3 with | .packet p _ => p.typ = typ | _ => false

/-- A started packet that has its code, with a status word, an interrupt and a release; a RESET of queue 4 that is stopped; a launch of no
steps whose packet is 9, and one that waits for scan contexts. -/
def stPacket (typ : Nat) (code : Option Nat) : State :=
  { pMark with
    core := { stA.core with live := false }
    packets := [(9, some { queue := 3, index := 5, typ := typ, cmode := 2, ivec := 9, sig := 0x70000, amt := 1, stat := 0x71000
                           succ := [(7, 3)], body := Mem.read [(32, 1), (34, 4)] 0 64, code := code })]
    queues := [(3, { base := 0x90000, en := true, wait := some 9 }), (4, { st := 3, widx := 5 })]
    launches := [(1, some { launchA with n := 0, f := 0, next := 0 }), (2, some { launchA with unstarted := true, packet := 10 })] }

theorem witness_QueuesAndPackets :
    (∀ s ∈ [pLaunch, pCopy, pWait 0, pWait 1, pSet, pColl, pMark, pReset, pShoot, pFree, pShape true, pShape false, stPacket 4 (some 0)],
      Table.wf {} s.queues = true ∧ Table.wf none s.packets = true ∧ Table.wf none s.copies = true ∧ Table.wf none s.records = true ∧
      Table.wf none s.launches = true ∧ Table.wf 0 s.releasesQ = true) ∧ stA.host.qen = true ∧ (stA.coreAt 259).frozen = false ∧
    stA.nextPacket 3 = .nothing ∧ ((pkt 7 1 [] true).nextPacket 3 matches .held (some _)) = true ∧ ((pkt 0 1 []).nextPacket 3 matches .bad _) = true ∧
    ([pLaunch, pCopy, pWait 0, pWait 1, pSet, pColl, pMark, pReset].zip [1, 2, 3, 3, 4, 5, 7, 8]).all (fun x => startsAs x.1 x.2) = true ∧
    ([pShoot, pFree, pShape true, pShape false, { pkt 7 1 [] true with releasesQ := [(3, 1)] }].zip [8, 8, 6, 6, 7]).all
      (fun x => startsAs x.1 x.2) = true ∧
    [pMark, pSet].all (fun s => match s.nextPacket 3 with
      | .packet p len => (s.startPacket 3 p len).nextPacket 3 = .nothing
      | _ => false) = true ∧
    ((pShape true).launchNamed (3 + 5 * 65536 + 2 ^ 63)).bind (pShape true).openShape ≠ none ∧
    ((pShape false).launchNamed (3 + 5 * 65536)).bind (pShape false).openShape = none ∧
    (pLaunch.scanTable 0 0 255 0).isSome = true ∧ (pLaunch.scanTable 0 0x1000000000 255 1) = none ∧
    (({ pMark with queues := [(3, { base := 0x1000000000, en := true, priv := true, widx := 1 })] } : State).nextPacket 3 matches .fault false) = true ∧
    (({ pMark with poison := [0x1200] } : State).nextPacket 3 matches .fault true) = true ∧
    (∀ s ∈ [stPacket 4 (some 0), stPacket 8 none, stPacket 1 none], (tget none s.packets 9).map (fun p =>
      !s.releaseStuck p && (s.packetDone 9 p).isSome && p.succ.length = 1 && p.cmode = 2) = some true) ∧
    (stPacket 1 none).allLaunches.any (fun x => x.2.packet = 9) = true ∧
    ((stPacket 4 none).agentWrite 0 false 0x71000 (natBytes 8 0)).isSome = true ∧
    ((stPacket 4 none).launch? 2).map (fun l => l.unstarted && !l.dead && (stPacket 4 none).contextsFree 2 l.scans) = some true ∧
    ((stPacket 3 none).queue 3).wait = some 9 ∧ (tget none (stPacket 3 none).packets 9).map (stPacket 3 none).waitMet = some false ∧
    (tget none (stPacket 3 none).packets 9).map (fun p => ({ stPacket 3 none with mem := stA.mem } : State).waitMet
      { p with body := Mem.read [(32, 0), (48, 0), (50, 7)] 0 64 }) = some true ∧
    okAnd (stA.xlate 0 (stA.jobCount 0) 0x70000 { rd := true, wr := true, user := false }) (fun x => x matches .phys ..) = true ∧
    [pLaunch, pSet, pMark, pkt 7 1 [] true].all (fun s => (s.queue 3).seen.isNone) = true := by
  decide +kernel

/-- Record 5 at 0x92000 moves eight bytes from 0x60000 to 0x70000 of this package; its completion queue is at 0x93000. -/
def recW : Record := { launch := 0, ctx := 0, user := true, packet := none, addr := 0x92000, die := 0 }
@[inherit_doc recW] def stColl (r : Record) (arm : Bool := false) : State :=
  let le (n x : Nat) : List Byte := natBytes n x
  { stA with
    mem := stA.mem.write 0x92000 (le 3 0 ++ [1] ++ le 4 8 ++ le 8 0x60000 ++ le 8 0x70000 ++ le 2 1 ++ le 2 0 ++ le 4 (if arm then 1 else 0) ++
      le 8 0 ++ le 2 1 ++ le 46 0 ++ le 16 0 ++ le 8 0x93000 ++ le 8 0 ++ le 8 4)
    triggers := [(0, { en := true })]
    records := [(5, some r)] }

/-- The record as it is once it is read, started or finished; one that reduces, one that gets, and one for another package. -/
def recR : Record := { recW with
  loaded := true, started := true, tlen := 8, src := 0x60000, dst := 0x70000, ranks := [0], levels := [⟨1, 0, 0, 0⟩], cq := 0x93000
  total := 1 }

/-- A value of window element 0x70000 of the context's job key, at home in this package; and its sibling held there. -/
def contR (index : Nat) : Contribution :=
  { job := 8, rid := 0, home := 0, addr := 0x70000, level := 0, index := index, value := 3, group := 2, ifmt := 3, afmt := 3, ofmt := 3, rop := 0 }

/-- Job 0 of two packages, of which this is rank 0, with a keyed switch; its channel to rank 1 with one flit unacknowledged. -/
def jobW : Job :=
  { jobid := 5, rank := 0, count := 2, ctxs := [2], keys := [1], swd := [], paths := [(1, [7])], swid := [7], rechk := 1, tdi := 0
    ekeys := [(0, ⟨1, 2⟩)], verifier := [1], switches := [⟨7, [1], 0⟩] }
@[inherit_doc jobW] def flitW : Flit := { seq := 3, kind := 1, kf := 0, src := 0, dst := 1, ct := [], tag := [] }
@[inherit_doc jobW] def chanW : Channel :=
  { job := 0, peer := 1, tx0 := some ⟨0, 0⟩, rx0 := some ⟨0, 0⟩, seq := 4, ilim := 1024, margin := 64, unacked := [flitW], drops := 16
    retryAt := 1, drain := some (1, true) }
@[inherit_doc jobW] def stChan (c : Channel) : State :=
  { stA with now := 10_000_000, trust := { stA.trust with jobs := [(0, some jobW)], channels := [(1, some c)] } }

/-- The first page of context 0, which is job 0's, lies in package 1. -/
def stAway : State :=
  { stA with
    core := { stA.core with utlb := [⟨0, 0, 36, 0x1001F⟩], thr := { stA.thr with ctl := { stA.thr.ctl with count := 2 } } }
    mem := (Mem.write [] 0x4000 [0x01, 0x80]).write 0x8000 [0x1F, 0, 1]
    contexts := [(0, { v := true, root := 1, keymask := 1, job := true })]
    trust := { stA.trust with jobs := [(0, some { jobW with ctxs := [0] })] } }

theorem witness_QueuesAndPackets_away :
    okAnd (stAway.xlate 0 (stAway.jobCount 0) 0x70000 { rd := true, wr := true, user := false }) (fun x => x = .away 1) = true ∧
    anyMod stAway .aadd (fun w => okAnd (stAway.placeOf w (sizeOf_ w) (sizeOf_ w) { rd := true, wr := true }) fun x => x.1.rank = some 1) = true := by
  decide +kernel

/-- The homes of job 0's element lie in package 1, behind its attested switch. -/
def stSwitch : State := { stChan chanW with routes := [(1, { v := true, att := true })] }

theorem witness_CollectivesAndLinks_more :
    (stColl { recR with sent := [.put, .get 0, .root 8, .parts [8, 16]] }).sentAway = [(5, 0), (5, 1), (5, 2), (5, 3)] ∧ (stA.job 7).isNone = true ∧
    16 < linkCount ∧ chanW.installTx.idleOld = false ∧ ((stChan { chanW with retryDue := true }).transmit 1 4 []).isSome = true ∧
    (jobW.openRed flitW).isNone = true ∧ chanW.rxNext = none := by decide +kernel
theorem witness_CollectivesAndLinks :
    (∀ s ∈ [stColl recW, stColl recR, stChan chanW], Table.wf none s.records = true ∧ Table.wf none s.packets = true ∧
      Table.wf none s.trust.channels = true ∧ Table.wf {} s.ports = true) ∧
    (stColl recW).heldBack recW = false ∧ ((stColl recW).die 0).fenced = false ∧
    okAnd ((stColl recW).agentRead 0 true 0x1000000000 128) = false ∧
    (∀ arm ∈ [false, true], okAnd ((stColl recW arm).agentRead 0 true 0x92000 128) (fun x => !x.2 &&
      (let r := (recW.ofBytes x.1).1
       (recW.ofBytes x.1).2 && r.arm = arm && ((stColl recW arm).rankTable r 0) = some [0] && (stColl recW arm).recordOk { r with ranks := [0] } &&
        (stColl recW arm).reach 0 true r.cq 1 false true && (stColl recW arm).armRoom 0)) = true) ∧
    (stColl recW).reach 0 true 0x1000000000 1 false true = false ∧
    (∀ op ∈ [0, 1, 2], ∀ ranks ∈ [[0], [1]], let r : Record := { recR with op := op, ranks := ranks }
      (stColl r).walkerNext 0 = some (5, r) ∧ (stColl r).busHeld 0 0x60000 8 0 false = false ∧ r.transfer 0 = (0, 0x60000, 0x70000) ∧ (stColl r).routeStopped 1 = false) ∧
    okAnd ((stColl recR).sourceOf recR 0x60000) = true ∧ okAnd ((stColl recR).sourceOf recR 0x1000000000) = false ∧
    ((stColl recR).badTarget recR 0x70000 8 = none ∧ (stColl recR).badTarget recR 0x1000000000 8 = some 2) ∧
    (nodeOk (contR 1) = true ∧ (contR 1).home = stA.rankOfJob 8 ∧
      ({ stA with partials := [⟨contR 0, false⟩] } : State).held (contR 1) = [⟨contR 0, false⟩] ∧
      (({ stA with partials := [⟨contR 1, false⟩] } : State).held (contR 1)).any (fun p => nodesMeet p.val (contR 1)) = true ∧
      (stA.agentWrite (stA.windowCtx 8) true 0x70000 (natBytes 4 6)).isSome = true) ∧
    (nodeOk { contR 0 with job := 0 } = true ∧ sameElement { contR 0 with job := 0 } { contR 1 with job := 0 } = true ∧
      (tget none (stChan chanW).trust.jobs 0) = some jobW ∧ stSwitch.switchFor { contR 0 with job := 0, level := 1, index := 0 } = true) ∧
    (let r : Record := { recR with iter := 1 }
     ((stColl r).cqHeader r).isSome = true ∧ (stColl { r with cq := 0x1000000000 }).cqHeader { r with cq := 0x1000000000 } = none ∧
      ((stColl r).writeSlot r 0x93020 0).isSome = true) ∧
    (stChan chanW).channel 1 = some chanW ∧ (stChan chanW).channel 2 = none ∧ (stChan chanW).job (1 / 65536) = some jobW ∧
    (chanW.installTx.tx false).isSome = true ∧ chanW.installTx.atMarker = false ∧
    (let c : Channel := { chanW with tx1 := some ⟨0, 1⟩, seq := 992 }
     c.installTx.atMarker = true ∧ (c.installTx.tx true).isSome = true ∧ (c.installTx.tx false).isSome = true) ∧
    ((stChan chanW).openFlit chanW 0 { flitW with kind := 0 }).isNone = true ∧ chanW.retryAt ≤ (stChan chanW).now ∧
    chanW.unacked.any (fun f => f.seq = 3 && f.kf.getLsbD 0 = false) = true ∧ chanW.dropAt + (stChan chanW).micros 10000 < (stChan chanW).now := by
  decide +kernel

/-- Queue 3 waits for a page; stream 2 is frozen; line 0 is the job's; memory is trained. -/
def stHost : State :=
  { stChan chanW with
    mem := stA.mem, queues := [(3, { st := 2 }), (4, { en := true })], tags := [(0, (1, 1))]
    trust := { (stChan chanW).trust with streams := [(2, { frozen := true })] } }

theorem witness_HostRequests : Table.wf {} stHost.queues = true ∧ (stHost.queue 3).st = 2 ∧ (stHost.queue 4).en = true ∧ (stHost.queue 5).en = false ∧
    stHost.streamFrozen { stream := some 2, tdi := none, off := 0, write := true } = true ∧
    stHost.streamFrozen { stream := none, tdi := none, off := 0, write := true } = false ∧ stHost.hostBacked (2 ^ 45) 8 = false ∧
    stHost.hostBacked (stHost.host.w4base.toNat * 2 ^ 30) 8 = true ∧ (stHost.lineJob 0).isSome = true ∧
    stHost.mayReach { stream := none, tdi := none, off := 0, write := true } jobW = false ∧ (stHost.lineJob 1).isNone = true := by decide +kernel
theorem witness_HostRequests_size : 0 + 8 ≤ barSize ∧ barSize < 2 ^ 50 :=
  ⟨Nat.le_trans (by decide) (Nat.pow_le_pow_right (by decide) (Nat.le_add_right 30 _)),
    Nat.pow_lt_pow_right (by decide) (by have := Nat.mod_lt Config.bar4Log (show 0 < 12 by decide); omega)⟩
theorem witness_ResetErrorsAndPower : 3 < stA.core.claim / 8 ∧ stA.host.tlim = false ∧ (State.reset.die 0).temp.toInt < 840 ∧
    (let h : HostIf := { stA.host with below := 9, clk := 500 }
     9 ≤ h.below ∧ h.clk.toNat < 600 ∧ 100 + 50 < h.cap.toNat) ∧
    ({ stA with host := { stA.host with qen := false } } : State).host.qen = false ∧ Table.wf {} stHost.queues = true ∧ Table.wf {} stHost.parked = true ∧
    Table.wf {} stHost.trust.streams = true ∧ stA.host.trdone = true ∧ stA.host.qen = true ∧ State.reset.host.trdone = false ∧
    ({ stA with host := { stA.host with training := true } } : State).host.training = true ∧ stA.placeOn 0 (.line 0) = true ∧
    stA.placeOn 0 (.scratch 0 3) = true ∧ (List.replicate 8 (30 : Int)).length = 8 := by decide +kernel

/-- The job has a revocation to apply, and a session with its verifier is open. -/
def stTrust : State :=
  { stHost with trust := { stHost.trust with jobs := [(0, some { jobW with revoke := some (1, 1) })], session := some ⟨true, [1]⟩ } }

/-- A request is being processed. -/
def stBusy : State := { stTrust with trust := { stTrust.trust with mbBusy := true } }

theorem witness_BootAndTrust_busy : stBusy.takesRequest .cert = false ∨ stBusy.takesRequest (.challenge []) = false := by
  unfold State.takesRequest
  rcases h : Config.requestOf stBusy.requestBytes with _ | x
  · simp [stBusy]
  · rcases x with _ | _ | _ | _ | _ | _ | _ | _ | _ | _ <;> simp [stBusy]

theorem witness_BootAndTrust : (∀ i ∈ [MailRequest.cert, .algorithms true true, .challenge [], .measurements [], .extend 4 []],
      stTrust.takesRequest i = true) ∧ stTrust.heldBy jobW = true ∧ stHost.heldBy jobW = false ∧ stTrust.trust.mbBusy = false ∧
    jobW.newKeys = none ∧ stTrust.now < 0 + stTrust.micros (jobW.rechk * 1000000) ∧
    0 + stTrust.micros (jobW.rechk * 1000000) ≤ ({ stTrust with now := 10 ^ 10 } : State).now ∧ jobW.revoke = none ∧
    (∀ s ∈ [stTrust, stHost, stA], Table.wf none s.trust.jobs = true ∧ Table.wf {} s.trust.keys = true ∧
      Table.wf {} s.contexts = true ∧ Table.wf {} s.routes = true ∧ Table.wf {} s.trust.streams = true ∧
      Table.wf .configUnlocked s.trust.tdis = true ∧ Table.wf {} s.parked = true ∧ s.trust.meas.length = 16) ∧
    (∀ x ∈ stTrust.trust.jobs, x.1 < 8) ∧ stA.image 0 4 ≠ 0x00384A41 ∧ stTrust.trust.session = some ⟨true, [1]⟩ ∧ stHost.trust.session = none ∧
    (stTrust.jobSlot 5).isSome = true ∧ stTrust.jobSlot 6 = none ∧ ((stTrust.job 0).bind Job.revoke).isSome = true ∧
    jobW.onPath 7 = true ∧ (jobW.switches.find? fun x => x.sw = 7).isSome = true := by decide +kernel
theorem witness_DeviceInterfaceStates : (∀ s ∈ [stA, { stA with trust := { stA.trust with tdis := [(0, .configLocked)] } },
      { stA with trust := { stA.trust with tdis := [(0, .run)] } }],
      Table.wf .configUnlocked s.trust.tdis = true ∧ Table.wf {} s.trust.streams = true) := by decide +kernel

end Sys2Proof.Test
end

section
/-! Encoding: little-endian bytes, the presence bits and the header halfword, slot words, and what the decoder reads back of a
bundle that was encoded (R3, R57 to R62, R82). -/

namespace Sys2Proof

open Machine

/-! ### Little-endian bytes (R3) -/

@[simp] theorem length_leBytes (n x : Nat) : (leBytes n x).length = n := by
  induction n generalizing x with
  | zero => rfl
  | succ n ih => simp [leBytes, ih]

/-- Reading n bytes back gives the number that they were written from. -/
theorem leNat_leBytes {n x : Nat} (h : x < 256 ^ n) : leNat (leBytes n x) = x := by
  induction n generalizing x with
  | zero => simp at h; simp [leBytes, leNat, h]
  | succ n ih =>
    have hx : x / 256 < 256 ^ n := Nat.div_lt_of_lt_mul (by rwa [Nat.pow_succ, Nat.mul_comm] at h)
    simp only [leBytes, leNat, BitVec.toNat_ofNat, ih hx]
    omega

@[simp] theorem take_leBytes (n x : Nat) (r : List Byte) : (leBytes n x ++ r).take n = leBytes n x := by
  simp

@[simp] theorem drop_leBytes (n x : Nat) (r : List Byte) : (leBytes n x ++ r).drop n = r := by
  simp

/-! ### Presence bits (R58, R59) -/

theorem Slot.num_injective : Function.Injective Slot.num :=
  Function.LeftInverse.injective (g := fun n => allSlots.getD n .c) fun k => by cases k <;> rfl

theorem Slot.num_lt (k : Slot) : k.num < 8 := by cases k <;> decide

theorem mem_allSlots (k : Slot) : k ∈ allSlots := by cases k <;> decide

theorem presence_cons (k : Slot) (ks : List Slot) : presence (k :: ks) = 2 ^ k.num + presence ks := by
  simp only [presence, List.map_cons, List.sum_cons]

/-- Slots numbered from m on have no presence bit below m. -/
theorem two_pow_dvd_presence {m : Nat} {ks : List Slot} (h : ∀ k ∈ ks, m ≤ k.num) : 2 ^ m ∣ presence ks := by
  induction ks with
  | nil => exact Nat.dvd_zero _
  | cons k ks ih =>
    rw [presence_cons]
    exact Nat.dvd_add (Nat.pow_dvd_pow 2 (h k List.mem_cons_self)) (ih fun k' hk' => h k' (List.mem_cons_of_mem k hk'))

/-- Of slots in ascending number, the presence bits are those of their numbers: the bit of the first lies below those of the others. -/
theorem testBit_presence {ks : List Slot} (h : (ks.map Slot.num).Pairwise (· < ·)) (j : Nat) :
    (presence ks).testBit j = true ↔ j ∈ ks.map Slot.num := by
  induction ks with
  | nil => simp only [presence, List.map_nil, List.sum_nil, Nat.zero_testBit, Bool.false_eq_true, List.not_mem_nil]
  | cons k ks ih =>
    rw [List.map_cons, List.pairwise_cons] at h
    obtain ⟨hlt, htail⟩ := h
    obtain ⟨q, hq⟩ : 2 ^ (k.num + 1) ∣ presence ks := two_pow_dvd_presence fun k' hk' => hlt k'.num (List.mem_map_of_mem hk')
    have hk : 2 ^ k.num < 2 ^ (k.num + 1) := Nat.pow_lt_pow_right (by decide) (Nat.lt_succ_self _)
    rw [presence_cons, hq, Nat.add_comm, Nat.testBit_two_pow_mul_add q hk, List.map_cons, List.mem_cons]
    have ih := ih htail
    rw [hq, Nat.testBit_two_pow_mul] at ih
    split
    case isTrue hj =>
      have hno : j ∉ ks.map Slot.num := fun hm => absurd (hlt j hm) (by omega)
      simp only [Nat.testBit_two_pow, decide_eq_true_eq, hno, or_false]
      exact eq_comm
    case isFalse hj =>
      have hne : j ≠ k.num := by omega
      simp only [← ih, hne, false_or, ge_iff_le, Nat.not_lt.mp hj, decide_true, Bool.true_and]

/-- Slots numbered below m have no presence bit from m on. -/
theorem presence_lt {ks : List Slot} (h : (ks.map Slot.num).Pairwise (· < ·)) {m : Nat} (hm : ∀ k ∈ ks, k.num < m) :
    presence ks < 2 ^ m := by
  refine Nat.lt_pow_two_of_testBit _ fun j hj => ?_
  rw [Bool.eq_false_iff, ne_eq, testBit_presence h, List.mem_map]
  rintro ⟨k, hk, rfl⟩
  exact absurd (hm k hk) (Nat.not_lt.mpr hj)

/-- Two lists of slots in ascending number with the same members are the same list. -/
theorem slots_eq_of_mem_iff {ks ls : List Slot} (hk : (ks.map Slot.num).Pairwise (· < ·)) (hl : (ls.map Slot.num).Pairwise (· < ·))
    (h : ∀ k, k ∈ ks ↔ k ∈ ls) : ks = ls := by
  rw [List.pairwise_map] at hk hl
  have hne : ∀ {k k' : Slot}, k.num < k'.num → k ≠ k' := fun hlt e => Nat.lt_irrefl _ (e ▸ hlt)
  exact ((List.perm_ext_iff_of_nodup (hk.imp hne) (hl.imp hne)).mpr h).eq_of_pairwise
    (fun _ _ _ _ hab hba => absurd hab (Nat.lt_asymm hba)) hk hl

/-- The slots whose presence bits are set are the slots that the presence bits were made of. -/
theorem presentSlots_presence {ks : List Slot} (h : (ks.map Slot.num).Pairwise (· < ·)) : presentSlots (presence ks) = ks := by
  have hall : (allSlots.map Slot.num).Pairwise (· < ·) := by decide
  refine slots_eq_of_mem_iff (hall.sublist (List.filter_sublist.map _)) h fun k => ?_
  rw [presentSlots, List.mem_filter, testBit_presence h, List.mem_map, and_iff_right (mem_allSlots k)]
  refine ⟨fun hm => ?_, fun hm => ⟨k, hm, rfl⟩⟩
  obtain ⟨k', hk', heq⟩ := hm
  exact Slot.num_injective heq ▸ hk'

theorem presence_ne_zero {ks : List Slot} (h : (ks.map Slot.num).Pairwise (· < ·)) (hne : ks ≠ []) : presence ks ≠ 0 := by
  intro h0
  rw [← presentSlots_presence h, h0] at hne
  exact hne (by decide)

/-! ### The header halfword (R58) -/

/-- A presence byte and the header fields make a halfword from which they are read back. -/
theorem headerWord_fields (h : Header) (lx : Bool) {p : Nat} (hp : p < 256) :
    headerWord h lx p < 8192 ∧ headerWord h lx p % 256 = p ∧ (headerWord h lx p).testBit 12 = lx ∧
      BitVec.ofNat 2 (headerWord h lx p / 1024) = h.idle ∧ (headerWord h lx p).testBit 9 = h.brk ∧
      (headerWord h lx p).testBit 8 = h.seg := by
  obtain ⟨idle, brk, seg⟩ := h
  have hi := idle.isLt
  simp only [headerWord, Nat.testBit_eq_decide_div_mod_eq, ← BitVec.toNat_inj, BitVec.toNat_ofNat]
  cases lx <;> cases brk <;> cases seg <;> simp <;> omega

/-- The halfword is no line pad (R60) unless every field of it is zero. -/
theorem headerWord_ne_zero {h : Header} {lx : Bool} {p : Nat} (hn : h ≠ {} ∨ p ≠ 0 ∨ lx = true) : headerWord h lx p ≠ 0 := by
  obtain ⟨idle, brk, seg⟩ := h
  intro h0
  simp only [headerWord] at h0
  have hi : idle.toNat = 0 := by omega
  have hidle : idle = 0 := BitVec.eq_of_toNat_eq hi
  cases lx <;> cases brk <;> cases seg <;> simp_all

/-! ### Slot words (R62) -/

/-- The slot words after the header are those that were written. -/
theorem takeWords_leBytes (words : List (Slot × BitVec 40)) (r : List Byte) :
    takeWords (words.map Prod.fst) (words.flatMap (fun x => leBytes 5 x.2.toNat) ++ r) = words := by
  induction words with
  | nil => rfl
  | cons x ws ih =>
    have hx : leNat (leBytes 5 x.2.toNat) = x.2.toNat := leNat_leBytes x.2.isLt
    simp only [List.map_cons, List.flatMap_cons, List.append_assoc, takeWords, take_leBytes, drop_leBytes, ih, hx,
      BitVec.ofNat_toNat, BitVec.setWidth_eq]

theorem length_flatMap_leBytes (words : List (Slot × BitVec 40)) :
    (words.flatMap fun x => leBytes 5 x.2.toNat).length = 5 * words.length := by
  induction words with
  | nil => rfl
  | cons x ws ih =>
    simp only [List.flatMap_cons, List.length_append, length_leBytes, List.length_cons, ih]
    omega

/-- The number that a slot word is (R62). -/
theorem packWord_toNat (op : BitVec 6) (w : SlotWord) :
    (packWord op w).toNat = w.mod.toNat + 16 * (w.hold.toNat + 4 * (w.wb.toNat + 2 * (w.pn.toNat + 2 * (w.pred.toNat + 32 *
      (w.b.toNat + 64 * (w.a.toNat + 64 * (w.d.toNat + 64 * (w.fmt.toNat + 8 * op.toNat)))))))) := by
  have := w.mod.isLt; have := w.hold.isLt; have := w.wb.toNat_lt; have := w.pn.toNat_lt; have := w.pred.isLt
  have := w.b.isLt; have := w.a.isLt; have := w.d.isLt; have := w.fmt.isLt; have := op.isLt
  rw [packWord, BitVec.toNat_ofNat]
  omega

theorem toNat_getLsbD {n : Nat} (x : BitVec n) (i : Nat) : (x.getLsbD i).toNat = x.toNat / 2 ^ i % 2 := by
  rw [← BitVec.testBit_toNat, Nat.toNat_testBit]

theorem getLsbD_eq_iff {n : Nat} (x : BitVec n) (i : Nat) (b : Bool) : x.getLsbD i = b ↔ x.toNat / 2 ^ i % 2 = b.toNat := by
  rw [← toNat_getLsbD]
  cases x.getLsbD i <;> cases b <;> decide

/-- The opcode and the fields are read back from a slot word. -/
theorem decodeSlot_packWord (k : Slot) (op : BitVec 6) (w : SlotWord) : decodeSlot k (packWord op w) = ofOpcode k op w := by
  have hx := packWord_toNat op w
  generalize packWord op w = x at hx
  obtain ⟨fmt, d, a, b, pred, pn, wb, hold, mod⟩ := w
  dsimp only at hx
  have := mod.isLt; have := hold.isLt; have := wb.toNat_lt; have := pn.toNat_lt; have := pred.isLt
  have := b.isLt; have := a.isLt; have := d.isLt; have := fmt.isLt; have := op.isLt
  have hop : x.extractLsb' 34 6 = op := BitVec.eq_of_toNat_eq (by
    rw [BitVec.extractLsb'_toNat, Nat.shiftRight_eq_div_pow]; omega)
  have hw : slotFields x = ⟨fmt, d, a, b, pred, pn, wb, hold, mod⟩ := by
    simp only [slotFields, SlotWord.mk.injEq, ← BitVec.toNat_inj, getLsbD_eq_iff, BitVec.extractLsb'_toNat,
      Nat.shiftRight_eq_div_pow]
    omega
  rw [decodeSlot, hop, hw]

/-- The opcode and the fields of a slot word are all its bits. -/
theorem packWord_slotFields (x : BitVec 40) : packWord (x.extractLsb' 34 6) (slotFields x) = x := by
  have hx := x.isLt
  refine BitVec.eq_of_toNat_eq ?_
  rw [packWord_toNat]
  simp only [slotFields, BitVec.extractLsb'_toNat, toNat_getLsbD, Nat.shiftRight_eq_div_pow]
  omega

/-! ### The opcode table (R82) -/

/-- The slot, the opcode and the fields of a well-formed slot instruction name it in the opcode table. -/
theorem Laws.Fields.all (i : Instr) : Laws.Fields.Statement i := by
  cases i with
  | sstepAff w => exact Laws.Fields.sstepAff w
  | sstepSsm w => exact Laws.Fields.sstepSsm w
  | vadd u w | vsub u w | vmul u w | vfma u w | vfms u w | vfnma u w | vmin u w | vmax u w | vabs u w | vneg u w | vand u w
  | vor u w | vxor u w | vandn u w | vshl u w | vshr u w | vsar u w | vmulh u w | vclamp u w | vcmp u w | vsel u w | vcvt u w
  | vpack u w | vunpk u w | vrcp u w | vrsq u w | vsqrt u w | vexp2 u w | vlog2 u w | vmovi u w | vmov u w | vmovn u w
  | vbcast u w | vext u w | vidx u w | vshuf u w | vxc u w | vred u w | vscan u w | kand u w | kor u w | kxor u w | knot u w
  | kpop u w =>
    rintro _ _ _ ⟨⟩
    cases u <;> rfl
  | _ => rintro _ _ _ ⟨⟩ <;> rfl

/-- An instruction that the opcode table names has its row at that slot and opcode, with the fields it was named with. -/
theorem row_of_ofOpcode {k : Slot} {op : BitVec 6} {w : SlotWord} {i : Instr} (h : ofOpcode k op w = some i) :
    ∃ r, row i = some (w, r) ∧ r.slot = k ∧ r.op = op := by
  cases k with
  | n =>
    simp only [ofOpcode] at h
    split at h <;> cases h
    case h_8.refl hop => split <;> exact ⟨_, rfl, rfl, BitVec.eq_of_toNat_eq hop.symm⟩
    all_goals exact ⟨_, rfl, rfl, BitVec.eq_of_toNat_eq (Eq.symm ‹op.toNat = _›)⟩
  | _ =>
    simp only [ofOpcode] at h
    split at h <;> cases h <;> exact ⟨_, rfl, rfl, BitVec.eq_of_toNat_eq (Eq.symm ‹op.toNat = _›)⟩

/-- The word of the instruction that a listed word decodes to is that word. -/
theorem encodeSlot_of_decodeSlot {k : Slot} {x : BitVec 40} {i : Instr} (h : decodeSlot k x = some i) :
    encodeSlot i = some (k, x) := by
  obtain ⟨r, hr, rfl, hop⟩ := row_of_ofOpcode h
  simp [encodeSlot, hr, hop, packWord_slotFields]

/-- The word of a well-formed slot instruction decodes to it. -/
theorem decodeSlot_of_encodeSlot {i : Instr} {k : Slot} {x : BitVec 40} (hwf : i.wf = true) (h : encodeSlot i = some (k, x)) :
    decodeSlot k x = some i := by
  obtain ⟨⟨w, r⟩, hr, hx⟩ := Option.map_eq_some_iff.mp h
  cases hx
  rw [decodeSlot_packWord]
  exact Laws.Fields.all i hwf w r hr

/-! ### Bundles (R57, R58) -/

theorem length_encodeBundle (h : Header) (words : List (Slot × BitVec 40)) (limm : Option Word) :
    (encodeBundle h words limm).length = bundleLen words.length limm.isSome := by
  have hpad : (if words.length % 2 = 1 then [(0 : Byte)] else []).length = words.length % 2 := by split <;> simp <;> omega
  cases limm <;> simp only [encodeBundle, List.length_append, length_leBytes, length_flatMap_leBytes, hpad, bundleLen] <;> rfl

/-- What follows the slot words of an encoded bundle: the pad byte of an odd number of words, and the long-immediate word. -/
def bundleTail (n : Nat) (limm : Option Word) : List Byte :=
  (if n % 2 = 1 then [0] else []) ++ match limm with | some l => leBytes 4 l.toNat | none => []

theorem encodeBundle_eq (h : Header) (words : List (Slot × BitVec 40)) (limm : Option Word) :
    encodeBundle h words limm = leBytes 2 (headerWord h limm.isSome (presence (words.map Prod.fst))) ++
      (words.flatMap (fun x => leBytes 5 x.2.toNat) ++ bundleTail words.length limm) := by
  cases limm <;> simp only [encodeBundle, bundleTail, List.append_assoc]

/-- The pad byte and the long-immediate word are read back. -/
theorem bundleTail_fields (n : Nat) (limm : Option Word) (rest : List Byte) :
    (if n % 2 = 1 then (bundleTail n limm ++ rest).headD 0 else 0) = 0 ∧
      (if limm.isSome = true then some (BitVec.ofNat 32 (leNat (((bundleTail n limm ++ rest).drop (n % 2)).take 4))) else none) =
        limm := by
  have hl : ∀ l : Word, leNat (leBytes 4 l.toNat) = l.toNat := fun l => leNat_leBytes l.isLt
  rcases Nat.mod_two_eq_zero_or_one n with hn | hn <;> cases limm <;> simp [bundleTail, hn, hl]

/-- A bundle of slot words in ascending slot decodes to what was encoded, at every place in a line where it fits. -/
theorem decodeBundle_encodeBundle {fw : Bool} {off : Nat} {h : Header} {words : List (Slot × BitVec 40)} {limm : Option Word}
    (rest : List Byte) (hs : (words.map fun x => x.1.num).Pairwise (· < ·)) (hf : fw = true → ∀ x ∈ words, x.1.num ≤ 2)
    (hfit : off + bundleLen words.length limm.isSome ≤ 64) (hne : h ≠ {} ∨ words ≠ [] ∨ limm.isSome = true) :
    decodeBundle fw off (encodeBundle h words limm ++ rest) =
      .bundle { hdr := h, words := words, pad := 0, limm := limm, len := bundleLen words.length limm.isSome } := by
  have hks : ((words.map Prod.fst).map Slot.num).Pairwise (· < ·) := by
    rw [List.map_map]; exact hs
  have hp8 : presence (words.map Prod.fst) < 256 := presence_lt hks (m := 8) fun k _ => k.num_lt
  have hp3 : fw = true → presence (words.map Prod.fst) < 8 := fun hfw => presence_lt hks (m := 3) fun k hk => by
    obtain ⟨x, hx, rfl⟩ := List.mem_map.mp hk
    exact Nat.lt_succ_of_le (hf hfw x hx)
  have hp0 : words ≠ [] → presence (words.map Prod.fst) ≠ 0 := fun hw => presence_ne_zero hks (mt List.map_eq_nil_iff.mp hw)
  obtain ⟨hlt, hmod, hlx, hidle, hbrk, hseg⟩ := headerWord_fields h limm.isSome hp8
  have hnz := headerWord_ne_zero (h := h) (hne.imp_right (Or.imp_left hp0))
  have hps := presentSlots_presence hks
  rw [encodeBundle_eq]
  generalize presence (words.map Prod.fst) = p at *
  generalize headerWord h limm.isSome p = hw at *
  have hlead : leNat (leBytes 2 hw) = hw := leNat_leBytes (by omega)
  obtain ⟨hpad, hlimm⟩ := bundleTail_fields words.length limm rest
  have htail : (words.flatMap (fun x => leBytes 5 x.2.toNat) ++ (bundleTail words.length limm ++ rest)).drop (5 * words.length) =
      bundleTail words.length limm ++ rest := List.drop_left' (length_flatMap_leBytes words)
  have hfw : (fw && decide (p ≥ 8)) = false := by
    cases fw with
    | false => rfl
    | true => simpa using hp3 rfl
  simp only [decodeBundle, List.append_assoc, take_leBytes, drop_leBytes, hlead, hmod, hps, List.length_map, hlx, hidle, hbrk,
    hseg, takeWords_leBytes, htail, hpad, hlimm, hnz, hfw, if_false, Bool.false_eq_true, Nat.div_eq_of_lt hlt, ne_eq,
    not_true_eq_false, Nat.not_lt.mpr hfit]

/-- A slot word alone in its bundle on a tile core, at byte 0 of a line. -/
theorem decodeBundle_alone (x : Slot × BitVec 40) (h : Header) (limm : Option Word) :
    decodeBundle false 0 (encodeBundle h [x] limm) =
      .bundle { hdr := h, words := [x], pad := 0, limm := limm, len := bundleLen 1 limm.isSome } := by
  have hfit : 0 + bundleLen 1 limm.isSome ≤ 64 := by cases limm <;> simp [bundleLen]
  simpa using decodeBundle_encodeBundle (fw := false) (h := h) (words := [x]) [] (by simp) (by simp) hfit (by simp)

/-- Settles O14: the slot word is read back from the bytes (`decodeBundle_alone`) and names it in the opcode table
(`decodeSlot_of_encodeSlot`), and the checks that the decoder makes are those of the hypotheses. -/
theorem instructionRoundTrip : Obligations.InstructionRoundTrip := by
  intro i h limm hwf hrow hok
  obtain ⟨⟨k, x⟩, hx⟩ : ∃ y, encodeSlot i = some y := Option.isSome_iff_exists.mp (by rw [encodeSlot, Option.isSome_map]; exact hrow)
  have henc : encode i h limm = encodeBundle h [(k, x)] limm := by simp only [encode, hx]
  have hdec := decodeSlot_of_encodeSlot hwf hx
  rw [henc, decodeBundle_alone, length_encodeBundle]
  refine ⟨?_, _, rfl, rfl, rfl, rfl⟩
  have hlist : [(k, x)].filterMap (fun y => decodeSlot y.1 y.2) = [i] := by simp [hdec]
  simp only [decodeBytes, decodeBundle_alone, RawBundle.first, RawBundle.err, RawBundle.listed, hlist, hok, hdec, hwf, and_self,
    if_true]

/-- Settles O15, by `decodeBundle_encodeBundle` and `encodeSlot_of_decodeSlot`. -/
theorem bundleAndWordRoundTrip : Obligations.BundleAndWordRoundTrip :=
  ⟨fun _ _ _ _ _ rest hs hf hfit hne => decodeBundle_encodeBundle rest hs hf hfit hne, fun _ _ _ h => encodeSlot_of_decodeSlot h⟩

/-- Settles O16: the decoder runs on the bytes that the spec writes out. -/
theorem writtenWords : Obligations.WrittenWords := by
  have h : decodeBundle false 0 [0x0A, 0x10, 0x40, 0xC0, 0x27, 0x0A, 0x04, 0xC0, 0x63, 0x04, 0x04, 0x10, 0x45, 0x23, 0x01, 0x00] =
      .bundle { hdr := {}, words := [(.a, 0x040A27C040), (.v0, 0x10040463C0)], pad := 0, limm := some 0x12345, len := 16 } := by
    decide
  refine ⟨by decide, by decide, ?_⟩
  rw [h]
  exact ⟨by decide, rfl⟩

end Sys2Proof
end

section
/-! One slot and one step: encoding checks, guards and interlocks of a slot alone in its bundle (R70, R74, R79), and the step that issues
the bundle at the program counter (R57, R77, R82). -/

namespace Sys2Proof.Machine

/-! ### A slot alone in its bundle (R70, R74, R79) -/

/-- The encoding check that LOOP and LOOPR make at their bundle's address passes (R112). -/
def LoopEncodes (i : Instr) (s : State) : Prop := ∀ v, i = .loop v ∨ i = .loopr v → s.loopEnc v = none

/-- An instruction whose own encoding check passes looks at its slot without one. -/
theorem exec_slot_encodes {i : Instr} {w : SlotWord} {r : Row} (hr : row i = some (w, r)) {s : State} (hl : LoopEncodes i s) :
    ∃ ill f, exec i s = s.runSlot i w (slotNo i) none ill f := by
  by_cases h : ∃ v, i = .loop v ∨ i = .loopr v
  · obtain ⟨v, hv⟩ := h
    have henc := hl v hv
    rcases hv with rfl | rfl <;> cases hr <;> exact ⟨_, _, by rw [← henc]; rfl⟩
  · obtain ⟨enc, ill, f, he, hn⟩ := exec_slot hr s
    have hnone : enc = none := hn fun v => ⟨fun e => h ⟨v, .inl e⟩, fun e => h ⟨v, .inr e⟩⟩
    exact ⟨ill, f, hnone ▸ he⟩

/-- A slot whose guard is false issues without any effect (R70, R75). -/
theorem passes_of_off {i : Instr} {s : State} (hs : s.core.stage = none) (h : exec i s = .next (s.closeBundle [(slotNo i, .off)])) :
    Passes i s := by
  rw [State.closeBundle_off hs] at h
  exact ⟨_, h, State.finish_quiet s s.thr.held s.thr.q s.core.full s.mmst s.seqWords [] (by simp) rfl⟩

/-- A slot whose look holds, holds its bundle. -/
theorem holds_of_hold {i : Instr} {s : State} (hs : s.core.stage = none) (h : exec i s = .next (s.closeBundle [(slotNo i, .hold {} [])])) :
    Holds i s {} := by
  rw [Holds, h, State.closeBundle_hold hs]

/-- The guard is false where its predicate has the value of PN (R70). -/
theorem Thread.guard_eq_false (t : Thread) (w : SlotWord) : t.guard w = false ↔ t.getP w.pred.toNat = w.pn := by
  simp [Thread.guard]

/-- The first thing that a slot looks at is its encoding checks (R79). -/
theorem State.lookSlot_enc {s : State} {i : Instr} {d : Nat} (h : encErr s.fw i = some d) (w : SlotWord) (k : Nat)
    (enc ill : Option TrapInfo) (f : State → Res) : s.lookSlot i w k enc ill f = .enc (trapAt k cIllegalOp d) := by
  unfold State.lookSlot
  rw [h]

/-- After them it looks at the interlock of its guard, at the guard, and at the interlocks of the registers that it names, in this order
(R70, R74); CSEL's PRED is no guard (R134). -/
theorem State.lookSlot_order {s : State} {i : Instr} (h : encErr s.fw i = none) (w : SlotWord) (k : Nat) (ill : Option TrapInfo)
    (f : State → Res) : ∃ r, s.lookSlot i w k none ill f =
      if s.thr.locked (.p w.pred.toNat) then .hold {} []
      else if !selects i && !s.thr.guard w then .off
      else if (uses s i).any fun u => s.thr.locked u.reg then .hold {} []
      else r := by
  unfold State.lookSlot
  rw [h]
  exact ⟨_, rfl⟩

/-! ### The step that issues a bundle (R57, R77, R82) -/

/-- A slot word alone is looked at as the instruction that it decodes to. -/
theorem State.lookWord_listed {k : Slot} {x : BitVec 40} {i : Instr} (h : decodeSlot k x = some i) (s : State) :
    s.lookWord (k, x) = exec i s := by simp only [State.lookWord, h]

/-- An unlisted slot word alone raises ILLEGAL_OP with DETAIL 1 (R79). -/
theorem State.lookWord_unlisted {k : Slot} {x : BitVec 40} (h : decodeSlot k x = none) {s : State} (hs : s.core.stage = none) :
    s.lookWord (k, x) = .next (s.raises { cause := 0x02, detail := 1, slot := BitVec.ofNat 3 k.num }) := by
  simp only [State.lookWord, h, hs]
  rw [unlisted, State.closeBundle_enc hs, State.voidBundle_raises (by rfl)]
  rfl

/-- Fetched bytes that raise nothing and begin a bundle are issued as that bundle, from the bank that holds them (R306). -/
theorem State.issueBytes_bundle {s : State} {bank : Bool} {bytes : List Byte} {b : RawBundle}
    (ht : (s.setCore { s.core with active := bank }).boundaryTrap = none)
    (hd : decodeBundle s.fw (s.thr.pc.toNat % 64) bytes = .bundle b) :
    s.issueBytes bank bytes = ((s.setCore { s.core with active := bank }).prepare b).issueWords b := by
  have hb : (if bank = s.core.active then s else s.setCore { s.core with active := bank }) =
      s.setCore { s.core with active := bank } := by
    split
    · next h => subst h; rfl
    · rfl
  have hd' : decodeBundle (s.setCore { s.core with active := bank }).fw ((s.setCore { s.core with active := bank }).thr.pc.toNat % 64)
      bytes = .bundle b := hd
  simp only [State.issueBytes, hb, ht, hd']

/-- At a bundle boundary where no event of the core is due and nothing is kept for the thread, a step issues the fetched bytes. -/
theorem step_issues {s : State} (hrun : s.host.stopped = false) (hi : s.inputs = []) (he : s.firstOf s.coreEvents = none)
    (hb : s.atBoundary = true) (hl : s.thr.late = []) (hd : s.thr.deferred = none) {bank : Bool} {bytes : List Byte}
    (hf : s.fetch = .bytes bank bytes) : step s = s.issueBytes bank bytes := by
  have hissue : s.issue = some (s.issueBytes bank bytes) := by
    simp only [State.issue, hl, hd, hf, ite_self]
  simp only [step, hi, hrun, State.goOn, he, hb, hissue, if_true, Bool.false_eq_true, if_false]

end Sys2Proof.Machine

namespace Sys2Proof

open Machine

/-- Settles O18: the order of `State.lookSlot`, with what closing a bundle of one slot makes of each answer. -/
theorem checksGuardsAndInterlocks : Obligations.ChecksGuardsAndInterlocks := by
  intro i w r s hr hs
  refine ⟨fun d hd => ?_, fun he hl => ?_⟩
  · obtain ⟨enc, ill, f, hx, -⟩ := exec_slot hr s
    rw [State.runSlot_alone hs, State.lookSlot_enc hd, State.closeBundle_enc hs, State.voidBundle_raises (by rfl)] at hx
    exact hx
  · obtain ⟨ill, f, hx⟩ := exec_slot_encodes hr hl
    obtain ⟨rest, ho⟩ := State.lookSlot_order he w (slotNo i) ill f
    rw [State.runSlot_alone hs, ho] at hx
    split
    case isTrue hp =>
      rw [if_pos hp] at hx
      exact holds_of_hold hs hx
    case isFalse hp =>
      rw [if_neg hp] at hx
      split
      case isTrue hg =>
        rw [if_pos (by simp [hg.1, (Thread.guard_eq_false _ _).mpr hg.2])] at hx
        exact passes_of_off hs hx
      case isFalse hg =>
        intro hu
        rw [← Thread.guard_eq_false, ← Bool.not_eq_true', ← Bool.not_eq_true', ← Bool.and_eq_true] at hg
        rw [if_neg hg, if_pos hu] at hx
        exact holds_of_hold hs hx

/-- Settles O17, by `step_issues` and the equations of the bundle's issue. -/
theorem stepRunsTheDecodedInstruction : Obligations.StepRunsTheDecodedInstruction := by
  intro s hrun
  refine ⟨fun i rest hi => by simp [step, hi, hrun], fun hi he hb hl hd bank bytes b hf ht hdec => ?_⟩
  have hstep : step s = ((s.setCore { s.core with active := bank }).prepare b).issueWords b :=
    (step_issues hrun hi he hb hl hd hf).trans (State.issueBytes_bundle ht hdec)
  refine ⟨fun hw => ?_, fun k x i hw hx => ?_, fun k x hw hx => ?_, fun t hw ht => ?_⟩
  · simp only [hstep, State.issueWords, hw]; rfl
  · simp only [hstep, State.issueWords, hw, State.lookWord_listed hx]; rfl
  · simp only [hstep, State.issueWords, hw]
    exact State.lookWord_unlisted hx rfl
  · match hws : b.words, hw with
    | x :: y :: ws, _ =>
      rw [hws] at ht
      simp only [hstep, State.issueWords, hws]
      exact ht ▸ rfl

end Sys2Proof
end

section
/-! Exceptions and boundary events: what taking an exception leaves (R255, R259, R264), spill frames and freezes (R299, R302), and late
reports (R260 to R262). -/

namespace Sys2Proof.Machine

/-! ### The handler's first bundle (R75) -/

theorem le_lastDue (c : Nat) (fl : List Landing) : c ≤ lastDue c fl := by
  induction fl generalizing c with
  | nil => exact Nat.le_refl c
  | cons l fl ih => exact Nat.le_trans (Nat.le_max_left c l.due) (ih _)

theorem due_le_lastDue {l : Landing} {fl : List Landing} (h : l ∈ fl) (c : Nat) : l.due ≤ lastDue c fl := by
  induction fl generalizing c with
  | nil => cases h
  | cons m fl ih =>
    rcases List.mem_cons.mp h with rfl | h
    · exact Nat.le_trans (Nat.le_max_right c l.due) (le_lastDue _ fl)
    · exact ih h _

/-- At user level with a handler, the handler is entered (R255). -/
theorem State.takeTrap_enters {s : State} (hh : s.thr.ctl.hnd = false) (hb : s.thr.ctl.hbase ≠ 0) (x : TrapInfo) (epc a : DWord) :
    s.takeTrap x epc a = s.setCore { s.core with
      thr := s.thr.enter x epc, stage := none, waitInfo := none, wfaults := [], found := [], viaBranch := true
      nextIssue := lastDue (s.now + 3) s.thr.flight
      freezeReq := s.core.freezeReq.map fun y => (max y.1 (lastDue (s.now + 3) s.thr.flight), y.2) } :=
  if_neg (by simp only [hh, hb, decide_false, Bool.or_false, Bool.false_eq_true, not_false_eq_true])

/-- In handler mode, or without a handler, the thread freezes (R259). -/
theorem State.takeTrap_freezes {s : State} (h : s.thr.ctl.hnd = true ∨ s.thr.ctl.hbase = 0) (x : TrapInfo) (epc a : DWord) :
    s.takeTrap x epc a = s.doubleFault x a := by
  rcases h with h | h <;> simp [State.takeTrap, h]

/-! ### The launch error record (R264) -/

/-- A launch after one more error entry: its count saturates, and its vector has been sent. -/
def Launch.erred (l : Launch) : Launch := { l with errs := min (l.errs + 1) 0xFFFFFFFF, errSent := true }

theorem OnlyWrites.core_eq {s t : State} (h : OnlyWrites s t) : t.core = s.core := by rw [h]

theorem OnlyWrites.launches_eq {s t : State} (h : OnlyWrites s t) : t.launches = s.launches := by rw [h]

theorem State.agentWrite_getD_only (s : State) (ctx : Nat) (user : Bool) (va : DWord) (bs : List Byte) (whose : AwayBy) :
    OnlyWrites s ((s.agentWrite ctx user va bs whose).getD s) := by
  cases e : s.agentWrite ctx user va bs whose with
  | none => exact OnlyWrites.refl s
  | some t => exact (State.agentWrite_keeps e).1

theorem State.interrupt_only (s : State) (vec : Nat) : OnlyWrites s (s.interrupt vec) := by
  unfold State.interrupt
  split
  · exact OnlyWrites.refl s
  · rfl

/-- An error entry counts one more for its launch, and writes the record and sends the vector where it does. -/
theorem State.appendError_only {s : State} {n : Nat} {l : Launch} (h : s.launch? n = some l) (e : ErrEntry) :
    OnlyWrites (s.modLaunch n fun l' => { l' with errs := min (l.errs + 1) 0xFFFFFFFF, errSent := true }) (s.appendError n e) := by
  unfold State.appendError
  rw [h]
  dsimp only
  generalize s.modLaunch n _ = a
  have h1 := State.agentWrite_getD_only a l.ctx false l.erec (natBytes 4 (min (l.errs + 1) 0xFFFFFFFF) ++ List.replicate 28 0)
    { queue := some l.queue }
  generalize (a.agentWrite _ _ _ _ _).getD a = b at h1 ⊢
  have h2 := h1.trans (State.agentWrite_getD_only b l.ctx false (l.erec + BitVec.ofNat 64 (32 + 32 * l.errs)) e.bytes
    { queue := some l.queue })
  generalize (b.agentWrite _ _ _ _ _).getD b = c at h2 ⊢
  split <;> split
  · exact h2.trans (State.interrupt_only _ _)
  · exact h1.trans (State.interrupt_only _ _)
  · exact h2
  · exact h1

theorem State.appendError_core (s : State) (n : Nat) (e : ErrEntry) : (s.appendError n e).core = s.core := by
  cases h : s.launch? n with
  | none => simp only [State.appendError, h]
  | some l => rw [OnlyWrites.core_eq (State.appendError_only h e), State.modLaunch_core]

/-- The count of a launch's record after an error entry (R264). -/
theorem State.appendError_launch {s : State} (hw : Table.wf none s.launches = true) {n : Nat} {l : Launch} (h : s.launch? n = some l)
    (e : ErrEntry) : (s.appendError n e).launch? n = some (Launch.erred l) := by
  rw [State.launch?, OnlyWrites.launches_eq (State.appendError_only h e)]
  refine (tget_tmod_self n _ hw).trans ?_
  rw [State.launch?] at h
  rw [h]; rfl

theorem State.cause_core (s : State) (b : Nat) : (s.cause b).core = s.core := by
  unfold State.cause
  split <;> rfl

theorem State.doubleFault_core (s : State) (x : TrapInfo) (pc : DWord) :
    (s.doubleFault x pc).core = { s.core with frozen := true, stage := none, waitInfo := none } := by
  unfold State.doubleFault
  dsimp only
  split
  · exact State.cause_core _ 0
  · exact State.appendError_core _ _ _

theorem State.doubleFault_launch {s : State} (hf : s.fw = false) (hw : Table.wf none s.launches = true) {l : Launch}
    (h : s.launch? s.thr.launch = some l) (x : TrapInfo) (pc : DWord) :
    (s.doubleFault x pc).launch? s.thr.launch = some (Launch.erred l) := by
  have hf' : (s.setCore { s.core with frozen := true, stage := none, waitInfo := none }).fw = false := hf
  unfold State.doubleFault
  simp only [hf', Bool.false_eq_true, if_false]
  exact State.appendError_launch (s := s.setCore { s.core with frozen := true, stage := none, waitInfo := none }) hw h _

/-! ### Spill frames and freezes (R299, R302) -/

/-- The thread on the focus core is one of its launch's. -/
theorem State.thr_mem_threadsOf {s : State} (hl : s.core.live = true) : s.thr ∈ s.threadsOf s.thr.launch := by
  refine List.mem_append_left _ (List.mem_filterMap.mpr ⟨s.cur, List.mem_cons_self, ?_⟩)
  simp [State.coreAt, hl]

/-- A resident thread for which a frame is free has one or finds one (R302). -/
theorem State.canFrame_of_frameFree {s : State} (hf : s.frameFree = true) (hl : s.core.live = true) : s.canFrame = true := by
  unfold State.frameFree at hf
  split at hf
  case h_1 => cases hf
  case h_2 l h =>
    have hlen := of_decide_eq_true hf
    rw [State.canFrame, h, Option.bind_some, Launch.freeFrame]
    cases hn : s.thr.frame with
    | some k => rfl
    | none =>
      have hme : s.thr ∈ (s.threadsOf s.thr.launch).filter fun t =>
          t.frame.isNone && (t.ctl.tid = s.thr.ctl.tid || ((l.gangOf s.thr.ctl.tid.toNat).isSome &&
            l.gangOf t.ctl.tid.toNat = l.gangOf s.thr.ctl.tid.toNat)) :=
        List.mem_filter.mpr ⟨State.thr_mem_threadsOf hl, by rw [hn]; simp only [Option.isNone_none, decide_true, Bool.true_or, Bool.and_self]⟩
      obtain ⟨i, hi⟩ := List.exists_mem_of_length_pos (Nat.lt_of_lt_of_le (List.length_pos_of_mem hme) hlen)
      exact List.find?_isSome.mpr ⟨i, List.mem_filter.mp hi⟩

/-- A thread that has a frame or can take one has one after taking it; only its launch's frames and its own change. -/
theorem State.takeFrame_eq {s : State} (h : s.canFrame = true) :
    ∃ ls k, s.takeFrame = { s with launches := ls, core := { s.core with thr := { s.thr with frame := some k } } } := by
  rw [State.canFrame, Bool.or_eq_true] at h
  unfold State.takeFrame
  cases hn : s.thr.frame with
  | some k => exact ⟨s.launches, k, by show s = _; rw [← hn]⟩
  | none =>
    rw [hn] at h
    obtain ⟨k, hk⟩ := Option.isSome_iff_exists.mp (h.resolve_left Bool.false_ne_true)
    exact ⟨_, k, by rw [hk]; rfl⟩

/-- A freeze that is asked for takes a frame and waits for a trap entry that is under way (R258, R299, R302). -/
theorem State.freezeAt_eq {s : State} (h : s.canFrame = true) (z reason : Nat) :
    ∃ ls k, s.freezeAt z reason = { s with
      launches := ls
      core := { s.core with thr := { s.thr with frame := some k }, freezeReq := some (Claim.freezeAfter s z, reason) } } := by
  obtain ⟨ls, k, h⟩ := State.takeFrame_eq h
  exact ⟨ls, k, by rw [State.freezeAt, h]; rfl⟩

/-! ### Late reports (R260 to R262) -/

/-- A kept report stands with the thread on the focus core that it names, and the interlock of its access is released. -/
theorem State.report_kept {s : State} {r : LateReport} (hl : s.core.live = true) (hn : reportNames r s.thr = true)
    (he : s.hasExited r = false) : s.report r = s.modThr fun t =>
      { t.cancel r.token with late := if t.late.contains r then t.late else t.late ++ [r] } := by
  have hname : s.thr.launch = r.launch ∧ s.thr.ctl.tid.toNat = r.tid := by simpa [reportNames] using hn
  have hany : (s.threadsOf r.launch).any (reportNames r) = true :=
    List.any_eq_true.mpr ⟨s.thr, hname.1 ▸ State.thr_mem_threadsOf hl, hn⟩
  have hfind : s.busyCores.find? (fun n =>
      let c := s.coreAt n
      c.live && c.thr.launch = r.launch && c.thr.ctl.tid.toNat = r.tid) = some s.cur :=
    List.find?_cons_of_pos (by simp [State.coreAt, hl, hname])
  simp only [State.report, he, hany, Bool.not_false, Bool.and_self, if_true, State.onThread, hfind, State.modCore]
  rfl

/-- A report of a thread that has exited, or that no thread answers to, becomes an error entry. -/
theorem State.report_entry {s : State} {r : LateReport}
    (h : s.hasExited r = true ∨ (s.threadsOf r.launch).any (reportNames r) = false) :
    s.report r = s.appendError r.launch (reportEntry r) := by
  rw [State.report, if_neg]
  rcases h with h | h <;> simp [h]

section
variable {s : State} {r : LateReport} {l : Launch} (hl : s.launch? r.launch = some l) (hr : reportOk r.info = true)
include hl hr

/-- A report that the thread on the focus core can take is taken at its boundary. -/
theorem exec_lateReport_taken (hc : s.canIssue = true) (hb : s.thr.barv = none) (hn : reportNames r s.thr = true) :
    exec (.lateReport r) s = .next ((s.modThr fun t => { t.cancel r.token with late := t.late.erase r }).takeTrap
      { r.info with remote := true } s.thr.pc r.pc) := by
  show execLateReport r s = _
  simp [execLateReport, hl, hr, hc, hb, hn]

/-- Any other report is kept or recorded. -/
theorem exec_lateReport_other (h : s.canIssue = false ∨ s.thr.barv.isSome = true ∨ reportNames r s.thr = false) :
    exec (.lateReport r) s = .next (s.report r) := by
  show execLateReport r s = _
  have hno : (s.canIssue && s.thr.barv.isNone && reportNames r s.thr) = false := by
    rcases h with h | h | h
    · simp [h]
    · simp [Option.isNone_eq_false_iff.mpr h]
    · simp [h]
  simp [execLateReport, hl, hr, hno]

end

/-! ### Waits and pre-emption (R117, R299) -/

theorem State.live_of_running {s : State} (h : s.running = true) : s.core.live = true := by
  simp only [State.running, Bool.and_eq_true] at h
  obtain ⟨⟨hlive, -⟩, -⟩ := h
  exact hlive

theorem State.running_of_canIssue {s : State} (h : s.canIssue = true) : s.running = true := by
  simp only [State.canIssue, Bool.and_eq_true] at h
  obtain ⟨⟨hrun, -⟩, -⟩ := h
  exact hrun

theorem State.canFrame_of_preemptable {s : State} (h : s.preemptable = true) : s.canFrame = true := by
  simp only [State.preemptable, Bool.and_eq_true] at h
  obtain ⟨⟨⟨⟨hrun, -⟩, -⟩, -⟩, hfree⟩ := h
  exact State.canFrame_of_frameFree hfree (State.live_of_running hrun)

/-- The exception of fetch or decode is taken at the bundle boundary (R77, R255). -/
theorem exec_trapEntry {s : State} {t : TrapInfo} (hc : s.canIssue = true) (hd : s.thr.deferred = none) (hl : s.thr.late = [])
    (hb : s.boundaryTrap = some t) :
    exec (.trapEntry t) s = .next (((s.tableFetched.setCore { s.core with segFails := s.failRaised }).modThr fun x =>
      { x with breakSkip := s.thr.breakSkip && !(t.cause = cIllegalBundle && 4 ≤ t.detail) }).takeTrap t s.thr.pc) := by
  show execTrapEntry t s = _
  unfold execTrapEntry
  exact if_pos (by simp [hc, hd, hl, hb])

/-- A wait at its limit raises WAIT_TIMEOUT (R117). -/
theorem exec_waitTimeout {s : State} {w : WaitInfo} (hw : s.core.waitInfo = some w) (hc : s.canIssue = true) (h0 : w.limit ≠ 0)
    (hle : w.limit ≤ s.thr.waited) : exec .waitTimeout s = .next (s.timeout w.slot w) := by
  show execWaitTimeout s = _
  simp [execWaitTimeout, hw, hc, h0, hle]

/-- A wait at WLIM asks for suspension (R117, R304). -/
theorem exec_waitSuspend {s : State} {w : WaitInfo} (hw : s.core.waitInfo = some w) (hc : s.canIssue = true) (hl : w.wlim = true)
    (hle : s.thr.wlimF.getD s.thr.ctl.wlim.toNat ≤ s.thr.waited) (h0 : w.limit = 0 ∨ s.thr.waited < w.limit)
    (hf : s.frameFree = true) (hfw : s.fw = false) : exec .waitSuspend s =
      .next (s.modThr fun t => { t with wlimF := some (s.thr.wlimF.getD s.thr.ctl.wlim.toNat) }).waitOut := by
  show execWaitSuspend s = _
  simp [execWaitSuspend, hw, hc, hl, hle, h0, hf, hfw]

/-- A core that runs and is not ending issues until its freeze falls due, and on while an arrival of a BARV is in flight (R299, R409). -/
theorem State.canIssue_iff {s : State} {z r : Nat} (hz : s.core.freezeReq = some (z, r)) (hr : s.running = true)
    (he : s.core.exiting = false) : s.canIssue = true ↔ s.now < z ∨ s.thr.barv.isSome = true := by
  simp [State.canIssue, State.unfrozen, hz, hr, he]

/-- A pre-emption asks for a freeze three cycles on (R299). -/
theorem exec_preemptRequest {s : State} {r : Nat} (h3 : 3 ≤ r) (h5 : r ≤ 5) (hp : s.preemptable = true) :
    exec (.preemptRequest r) s = .next (s.freezeAt (s.now + 3) r) := by
  show execPreemptRequest r s = _
  simp [execPreemptRequest, h3, h5, hp]

end Sys2Proof.Machine

namespace Sys2Proof

open Machine

/-- Settles O46: a trap entry is `Thread.enter` with the first issue that `lastDue` gives, or a double fault. -/
theorem trapEntry : Obligations.TrapEntry := by
  intro s x epc t
  refine ⟨fun hh hb => ?_, fun h => ?_⟩
  · have ht : t = _ := State.takeTrap_enters hh hb x epc epc
    rw [ht]
    exact ⟨rfl, rfl, le_lastDue _ _, fun l hl => due_le_lastDue hl _, rfl, rfl, rfl, rfl, rfl⟩
  · have ht : t = _ := State.takeTrap_freezes h x epc epc
    have hc : t.core = _ := ht ▸ State.doubleFault_core s x epc
    refine ⟨by rw [hc], by rw [State.thr, hc], by rw [hc], by rw [hc], by rw [hc], fun hf hw l hl => ⟨l.erred, ?_, rfl⟩⟩
    rw [ht]
    exact State.doubleFault_launch hf hw hl x epc

/-- Settles O50, clause by clause by the equations of the boundary's events; a freeze changes what `State.freezeAt_eq` says. -/
theorem boundaryEvents : Obligations.BoundaryEvents := by
  intro s
  refine ⟨fun t hc hd hl hb => ⟨_, exec_trapEntry hc hd hl hb, fun h => by simp [h]⟩,
    fun w hw hc h0 hle => exec_waitTimeout hw hc h0 hle,
    fun w hw hc hl hle h0 hf hfw => ?suspend,
    fun z r hz hr he => State.canIssue_iff hz hr he,
    fun r h3 h5 hp => ?preempt,
    fun r l hl hr => ⟨exec_lateReport_taken hl hr, fun hc hlive hn he => ?kept, fun h hn => ?recorded⟩⟩
  case suspend =>
    have hcan := State.canFrame_of_frameFree hf (State.live_of_running (State.running_of_canIssue hc))
    obtain ⟨ls, k, h⟩ := State.freezeAt_eq
      (s := s.modThr fun t => { t with wlimF := some (s.thr.wlimF.getD s.thr.ctl.wlim.toNat) }) hcan s.now 2
    refine ⟨_, exec_waitSuspend hw hc hl hle h0 hf hfw, ?_⟩
    rw [State.waitOut, State.modThr_now, h]
    exact ⟨rfl, rfl, rfl, rfl, rfl⟩
  case preempt =>
    obtain ⟨ls, k, h⟩ := State.freezeAt_eq (State.canFrame_of_preemptable hp) (s.now + 3) r
    refine ⟨_, exec_preemptRequest h3 h5 hp, ?_⟩
    rw [h]
    exact ⟨rfl, rfl, rfl, rfl, rfl⟩
  case kept =>
    have hk : exec (.lateReport r) s = .next (s.report r) := exec_lateReport_other hl hr (hc.imp_right .inl)
    rw [State.report_kept hlive hn he] at hk
    refine ⟨_, hk, ?_, rfl⟩
    show r ∈ if s.thr.late.contains r then s.thr.late else s.thr.late ++ [r]
    split
    case isTrue h => exact List.contains_iff_mem.mp h
    case isFalse => exact List.mem_append_right _ (List.mem_singleton_self r)
  case recorded =>
    have hk : s.canIssue = false ∨ reportNames r s.thr = false := by
      cases hc : s.canIssue with
      | false => exact .inl rfl
      | true => exact .inr (hn hc)
    rw [exec_lateReport_other hl hr (hk.imp_right .inr), State.report_entry h]
    rfl

end Sys2Proof
end

section
/-! What handler mode forbids: engine instructions without a lease (R85, R210), and the instructions that raise ILLEGAL_OP in it (R128,
R225). -/

namespace Sys2Proof.Machine

section
variable {s : State} {i : Instr} {w : SlotWord} {r : Row}

/-! ### Engine instructions without a lease (R85, R199, R210) -/

theorem State.mayEngine_eq_false : s.mayEngine = false ↔ s.thr.ctl.hnd = true ∧ s.thr.ctl.lease = false := by
  simp [State.mayEngine]

theorem State.engineErr_handler (hm : s.mayEngine = false) (k : Nat) : s.engineErr k = some (trapAt k cEngine) := by
  obtain ⟨hh, hl⟩ := State.mayEngine_eq_false.mp hm
  simp [State.engineErr, hh, hl]

/-- X and F slots look at the lease before their operands (R85). -/
theorem withEngine_handler (hm : s.mayEngine = false) (k : Nat) (f : State → Res) :
    withEngine k i f s = .trap (trapAt k cEngine) [] := by
  simp [withEngine, State.engineErr_handler hm]

/-- A free slot that raises no ILLEGAL_OP or PRIVILEGE at issue, and whose look raises an exception at once, traps. -/
theorem traps_of_look (hr : row i = some (w, r)) (h : s.ready i = true) (hn : s.roomHold i = false) {f : State → Res} {x : TrapInfo}
    (he : exec i s = s.runSlot i w (slotNo i) none none f) (hf : f s = .trap x []) (hx : promptTrap x = true) : Traps i s x := by
  have hs := ((State.ready_iff hr).mp h).1
  have hl : s.lookSlot i w (slotNo i) none none f = .trap x [] := by rw [State.lookSlot_free hr h hn, hf]
  rw [Traps, he, State.runSlot_alone hs, hl, State.closeBundle_trap hs, State.voidBundle_raises hx]

/-- An X-slot instruction that raises no ILLEGAL_OP at issue raises ENGINE_IN_HANDLER (R85, R199). -/
theorem traps_of_runX (hr : row i = some (w, r)) (hk : slotNo i = 5) {ill : Option TrapInfo} {f : State → Res}
    (he : exec i s = s.runX i w ill f) (hm : s.mayEngine = false) (h : s.ready i = true) (hn : s.roomHold i = false)
    (hi : ill = none) : Traps i s (trapAt 5 cEngine) := by
  rw [State.runX, hi, ← hk] at he
  exact traps_of_look hr h hn he (hk ▸ withEngine_handler hm 5 f) (by rfl)

/-- An F-slot instruction raises ENGINE_IN_HANDLER (R210). -/
theorem traps_of_runF (hr : row i = some (w, r)) (hk : slotNo i = 7) {f : State → Res} (he : exec i s = s.runF i w f)
    (hm : s.mayEngine = false) (h : s.ready i = true) (hn : s.roomHold i = false) : Traps i s (trapAt 7 cEngine) := by
  rw [State.runF, ← hk] at he
  exact traps_of_look hr h hn he (hk ▸ withEngine_handler hm 7 f) (by rfl)

/-- An N-slot instruction that raises no ILLEGAL_OP at issue raises ENGINE_IN_HANDLER before its other exceptions (R85, R232). -/
theorem traps_of_runN (hr : row i = some (w, r)) (hk : slotNo i = 6) {ill : Option TrapInfo} {bound : State → Option Nat}
    {f : State → Res} (he : exec i s = s.runN i w ill bound f) (hm : s.mayEngine = false) (h : s.ready i = true)
    (hn : s.roomHold i = false) (hi : ill = none) : Traps i s (trapAt 6 cEngine) := by
  rw [State.runN, hi, ← hk] at he
  exact traps_of_look hr h hn he (by simp only [hk, State.engineErr_handler hm]) (by rfl)

/-! ### Instructions that handler mode makes illegal (R128, R225) -/

/-- An N-slot instruction that raises ILLEGAL_OP at issue traps, whatever its other checks say (R232). -/
theorem traps_of_runN_ill (hr : row i = some (w, r)) (hk : slotNo i = 6) {ill : Option TrapInfo} {bound : State → Option Nat}
    {f : State → Res} (he : exec i s = s.runN i w ill bound f) {d : Nat} (hi : ill = some (trapAt 6 cIllegalOp d))
    (h : s.ready i = true) (hn : s.roomHold i = false) : Traps i s (trapAt 6 cIllegalOp d) := by
  rw [State.runN, hi, ← hk] at he
  exact hk ▸ traps_of_ill hr h hn he (by rfl)

/-- A C-slot instruction that raises ILLEGAL_OP at issue traps. -/
theorem traps_of_runC_ill (hr : row i = some (w, r)) (hk : slotNo i = 0) {ill : Option TrapInfo} {f : State → Res}
    (he : exec i s = s.runC i w ill f) {d : Nat} (hi : ill = some (trapAt 0 cIllegalOp d)) (h : s.ready i = true)
    (hn : s.roomHold i = false) : Traps i s (trapAt 0 cIllegalOp d) := by
  rw [State.runC, hi, ← hk] at he
  exact hk ▸ traps_of_ill hr h hn he (by rfl)

theorem State.notInHandler_hnd (h : s.thr.ctl.hnd = true) : s.notInHandler = some (trapAt 0 cIllegalOp 12) := if_pos h

theorem handlerIll_hnd (h : s.thr.ctl.hnd = true) : handlerIll s = some (trapAt 6 cIllegalOp 12) := if_pos h

end

end Sys2Proof.Machine

namespace Sys2Proof

open Machine

/-- Settles O38: without a lease every engine slot looks at ENGINE_IN_HANDLER first (`traps_of_runX`, `traps_of_runF`, `traps_of_runN`),
after an ILLEGAL_OP of the instruction, which in handler mode SXCH, SWT and the C-slot instructions of R128 always raise. -/
theorem notInHandlerMode : Obligations.NotInHandlerMode := by
  simp only [Obligations.NotInHandlerMode, List.mem_cons, List.not_mem_nil, or_false, forall_eq_or_imp, forall_eq]
  refine ⟨fun w s hm => ⟨?matrix, fun h hn hi => ?mstep, ?shape, ?scan, fun h hi => ?sopd, fun h hn hi => ?schk, fun h hn hi => ?sfix⟩,
    fun w s hh => ⟨?exchange, ?control⟩⟩
  case matrix => refine ⟨?_, ?_, ?_, ?_, ?_, ?_, ?_⟩ <;> exact fun h hn => traps_of_runX rfl rfl rfl hm h hn rfl
  case mstep => exact traps_of_runX rfl rfl rfl hm h hn hi
  case shape => refine ⟨?_, ?_, ?_, ?_⟩ <;> exact traps_of_runF rfl rfl rfl hm
  case scan =>
    -- `execScmb` is named, and `execSopd` below: left to unfold `exec`, unification would go on into the instruction's own look.
    refine ⟨?_, fun h hn => traps_of_runN rfl rfl (Eq.refl (execScmb w s)) hm h hn rfl, ?_, ?_, ?_, ?_, ?_, ?_⟩ <;>
      exact fun h hn => traps_of_runN rfl rfl rfl hm h hn rfl
  case sopd => exact traps_of_runN rfl rfl (Eq.refl (execSopd w s)) hm h rfl hi
  case schk => exact traps_of_runN rfl rfl rfl hm h hn hi
  case sfix => exact traps_of_runN rfl rfl rfl hm h hn hi
  case exchange =>
    have hi := handlerIll_hnd hh
    exact ⟨traps_of_runN_ill rfl rfl rfl hi, traps_of_runN_ill rfl rfl rfl hi⟩
  case control =>
    have hi := State.notInHandler_hnd hh
    refine ⟨fun h hg => traps_of_runC_ill rfl rfl rfl (by rw [hg, Option.none_or, hi]) h rfl, ?_, ?_, ?_, ?_⟩ <;>
      exact fun h _ => traps_of_runC_ill rfl rfl rfl hi h rfl

end Sys2Proof
end

section
/-! Vector results of the V slots: the lanes and elements of a result under its mask, with the flags that it raises (R11, R175, R176);
element-wise instructions (R178, R180, R185), and lane moves, selections and shuffles (R179, R182, R186, R187, R189, R190). -/

namespace Sys2Proof.Machine

/-! ### Bits of a union -/

/-- A bit of a union of bit vectors is set where some member has it. -/
theorem getLsbD_foldl_or {α : Type} {n : Nat} (g : α → BitVec n) (b : Nat) (xs : List α) (a : BitVec n) :
    (xs.foldl (fun acc x => acc ||| g x) a).getLsbD b = true ↔ a.getLsbD b = true ∨ ∃ x ∈ xs, (g x).getLsbD b = true := by
  induction xs generalizing a with
  | nil => simp
  | cons x xs ih => simp [ih, or_assoc]

/-- A fold over pairs whose parts do not look at each other is the pair of the folds. -/
theorem foldl_pair {α β γ : Type} (f : β → α → β) (g : γ → α → γ) (xs : List α) (b : β) (c : γ) :
    xs.foldl (fun acc x => (f acc.1 x, g acc.2 x)) (b, c) = (xs.foldl f b, xs.foldl g c) := by
  induction xs generalizing b c with
  | nil => rfl
  | cons x xs ih => exact ih _ _

/-! ### Elements of a lane (R11) -/

theorem elemWidth_mul_kel (fmt : Nat) : elemWidth fmt * kel fmt = 32 := by
  unfold elemWidth kel
  repeat' split
  all_goals rfl

theorem laneOf_eq (fmt : Nat) (g : Nat → Flt) :
    laneOf fmt g =
      ((List.range (kel fmt)).foldl
          (fun acc j => acc ||| BitVec.ofNat 32 ((g j).val % 2 ^ elemWidth fmt * 2 ^ (elemWidth fmt * j))) 0,
        (List.range (kel fmt)).foldl (fun acc j => acc ||| (g j).flags) 0) :=
  foldl_pair (fun acc j => acc ||| BitVec.ofNat 32 ((g j).val % 2 ^ elemWidth fmt * 2 ^ (elemWidth fmt * j)))
    (fun acc j => acc ||| (g j).flags) (List.range (kel fmt)) 0 0

/-- A lane raises the flags that its elements raise (R176). -/
theorem laneOf_flag (fmt : Nat) (g : Nat → Flt) (b : Nat) :
    (laneOf fmt g).2.getLsbD b = true ↔ ∃ j, j < kel fmt ∧ (g j).flags.getLsbD b = true := by
  simp [laneOf_eq, getLsbD_foldl_or]

/-- A position within element j lies in no other element. -/
theorem element_unique {n j k i : Nat} (hi : i < n) (hk : n * k ≤ n * j + i) (hk' : n * j + i - n * k < n) : k = j := by
  have hkj : k < j + 1 := Nat.lt_of_mul_lt_mul_left (a := n) (by rw [Nat.mul_succ]; omega)
  have hjk : j < k + 1 := Nat.lt_of_mul_lt_mul_left (a := n) (by rw [Nat.mul_succ]; omega)
  omega

/-- Bit i of element j of a lane built from its elements is bit i of that element's result. -/
theorem laneOf_getLsbD (fmt : Nat) (g : Nat → Flt) {j i : Nat} (hj : j < kel fmt) (hi : i < elemWidth fmt) :
    (laneOf fmt g).1.getLsbD (elemWidth fmt * j + i) = (g j).val.testBit i := by
  have hin : elemWidth fmt * j + i < 32 := by
    have h := Nat.mul_le_mul_left (elemWidth fmt) (Nat.succ_le_of_lt hj)
    rw [elemWidth_mul_kel, Nat.mul_succ] at h
    omega
  rw [Bool.eq_iff_iff, laneOf_eq, getLsbD_foldl_or]
  simp only [BitVec.getLsbD_ofNat, hin, decide_true, Bool.true_and, Nat.testBit_mul_two_pow, Nat.testBit_mod_two_pow,
    Bool.and_eq_true, decide_eq_true_eq, List.mem_range]
  constructor
  · rintro (h | ⟨k, -, hk, hk', hb⟩)
    · simp at h
    · obtain rfl := element_unique hi hk hk'
      simpa using hb
  · intro hb
    exact .inr ⟨j, hj, by omega, by simpa using ⟨hi, hb⟩⟩

/-- Element j of a lane built from its elements is the result for j, cut to the element's width. -/
theorem elemOf_laneOf (fmt : Nat) (g : Nat → Flt) {j : Nat} (hj : j < kel fmt) :
    elemOf fmt (laneOf fmt g).1 j = (g j).val % 2 ^ elemWidth fmt := by
  refine Nat.eq_of_testBit_eq fun i => ?_
  rw [elemOf, bits, Nat.testBit_mod_two_pow, Nat.testBit_div_two_pow, Nat.testBit_mod_two_pow, Nat.add_comm i]
  by_cases hi : i < elemWidth fmt
  · rw [← BitVec.getLsbD, laneOf_getLsbD fmt g hj hi]
  · simp [hi]

/-! ### Lanes of a result (R175, R176) -/

theorem vlane_ofLanes (f : Nat → Word) {l : Nat} (h : l < 128) : vlane (Vec.ofLanes f) l = f l := by
  simp [vlane, vget, Vec.ofLanes, h]

/-- A masked-off lane of a result is zero. -/
theorem vlane_laneResults (m : BitVec 128) (f : Nat → Word × BitVec 5) {l : Nat} (h : l < 128) :
    vlane (laneResults m f).1 l = if m.getLsbD l then (f l).1 else 0 := by
  have hv : vlane (laneResults m f).1 l = (if m.getLsbD l then f l else (0, 0)).1 := by
    simp [laneResults, vlane, vget, h]
  rw [hv]
  split <;> rfl

/-- A result raises the flags of its active lanes. -/
theorem laneResults_flag (m : BitVec 128) (f : Nat → Word × BitVec 5) (b : Nat) :
    (laneResults m f).2.getLsbD b = true ↔ ∃ l, l < 128 ∧ m.getLsbD l = true ∧ (f l).2.getLsbD b = true := by
  have hlane (l : Nat) : (if m.getLsbD l then f l else (0, 0)).2.getLsbD b = true ↔
      m.getLsbD l = true ∧ (f l).2.getLsbD b = true := by
    split <;> simp [*]
  rw [laneResults, ← Vector.foldl_toList, getLsbD_foldl_or, Vector.toList_ofFn]
  constructor
  · rintro (h0 | ⟨_, hx, hb⟩)
    · simp at h0
    · obtain ⟨l, rfl⟩ := List.mem_ofFn.mp hx
      exact ⟨l, l.isLt, (hlane l).mp hb⟩
  · rintro ⟨l, hl, h⟩
    exact .inr ⟨_, List.mem_ofFn.mpr ⟨⟨l, hl⟩, rfl⟩, (hlane l).mpr h⟩

/-! ### Instructions that land lanes under their mask -/

theorem writtenLanes_eq (w : SlotWord) (m : BitVec 128) :
    writtenLanes w m = if w.mod.getLsbD 3 then BitVec.allOnes 128 else m := by
  have hz : w.mod.toNat < 8 ↔ ¬ w.mod.getLsbD 3 = true := by
    generalize w.mod = x
    revert x; decide
  simp only [writtenLanes, hz, ite_not]

theorem State.giveV_eq (s : State) (u : VSlot) (w : SlotWord) (lat : Nat) (g : Nat → Word × BitVec 5) :
    s.giveV u w lat g = .ok [.land (vectorLanding u.slot.num w (s.now + lat) (laneResults (s.laneMask w) g).1
      (if w.mod.getLsbD 3 then BitVec.allOnes 128 else s.laneMask w) (laneResults (s.laneMask w) g).1
      (laneResults (s.laneMask w) g).2)] := by
  simp [State.giveV, writtenLanes_eq]

section
variable {s : State} {i : Instr} {u : VSlot} {w : SlotWord} {r : Row} {f : State → Res} {lat : Nat}

/-- A V-slot instruction that is free to act and answers a result under its mask lands its lanes, with the flags of the active ones. -/
theorem landsLanes_of_giveV (hr : row i = some (w, r)) (hk : slotNo i = u.slot.num) (hn : s.roomHold i = false)
    {ill : Option TrapInfo} (he : exec i s = s.runV i u w ill f) (hi : ill = none)
    {g : Nat → Word × BitVec 5} (hf : f s = s.giveV u w lat g) (h : s.ready i = true) :
    Claim.LandsLanes i u w s lat (fun l => (g l).1)
      fun b => ∃ l, l < 128 ∧ (s.laneMask w).getLsbD l = true ∧ (g l).2.getLsbD b = true := by
  rw [State.runV, hi, ← hk] at he
  exact ⟨_, _, gives_of_land hr h hn he (hf.trans (s.giveV_eq u w lat g)), fun l hl => vlane_laneResults _ g hl,
    fun b _ => laneResults_flag _ g b⟩

/-- A V-slot instruction that raises ILLEGAL_OP at issue traps. -/
theorem traps_of_runV_ill (hr : row i = some (w, r)) (hk : slotNo i = u.slot.num) (hn : s.roomHold i = false)
    {ill : Option TrapInfo} (he : exec i s = s.runV i u w ill f) {d : Nat} (hi : ill = some (trapAt u.slot.num cIllegalOp d))
    (h : s.ready i = true) : Traps i s (trapAt u.slot.num cIllegalOp d) := by
  rw [State.runV, hi, ← hk] at he
  exact hk ▸ traps_of_ill hr h hn he (by rfl)

/-- Lanes that raise no flags land without flags. -/
theorem landsLanes_of_flagless (hr : row i = some (w, r)) (hk : slotNo i = u.slot.num) (hn : s.roomHold i = false)
    {ill : Option TrapInfo} (he : exec i s = s.runV i u w ill f) (hi : ill = none)
    {lane : Nat → Word} (hf : f s = s.giveV u w lat fun l => (lane l, 0)) (h : s.ready i = true) :
    Claim.LandsLanes i u w s lat lane fun _ => False := by
  simpa using landsLanes_of_giveV hr hk hn he hi hf h

end

/-! ### Element-wise instructions (R178, R180, R185) -/

/-- An instruction is element-wise: it looks at its slot and lands the results of an element operation in each rounding mode, its
latency on. -/
def Elementwise (i : Instr) (u : VSlot) (w : SlotWord) (lat : Nat) (g : RMode → Nat → Nat → Nat → Flt) : Prop :=
  (∃ r, row i = some (w, r)) ∧ slotNo i = u.slot.num ∧
    ∀ s : State, s.roomHold i = false ∧ exec i s = s.runV i u w none fun t => t.giveEl u w lat (g t.rmode)

theorem elementOps_elementwise : ∀ x ∈ Claim.elementOps, ∀ (u : VSlot) (w : SlotWord), Elementwise (x.1 u w) u w (x.2.1 w) (x.2.2 w) := by
  simp only [Claim.elementOps, List.forall_mem_cons, List.not_mem_nil, false_imp_iff, implies_true, and_true]
  and_intros <;> exact fun u w => ⟨⟨_, rfl⟩, rfl, fun s => ⟨rfl, rfl⟩⟩

/-! ### Lane moves and shuffles (R186, R187, R189, R190) -/

section
variable {s : State} {i : Instr} {u : VSlot} {w : SlotWord} {r : Row} {f : State → Res}

/-- Lanes built from values of their elements land without flags, two cycles on. -/
theorem landsElems_of_giveV (hr : row i = some (w, r)) (hk : slotNo i = u.slot.num) (hn : s.roomHold i = false)
    (he : exec i s = s.runV i u w none f) {v : Nat → Nat → Nat}
    (hf : f s = s.giveV u w 2 fun l => laneOf w.fmt.toNat fun j => ⟨v l j, 0⟩) :
    ∃ lane : Nat → Word, (s.ready i = true → Claim.LandsLanes i u w s 2 lane fun _ => False) ∧
      ∀ l j, l < 128 → j < kel w.fmt.toNat → elemOf w.fmt.toNat (lane l) j = v l j % 2 ^ elemWidth w.fmt.toNat := by
  refine ⟨_, fun h => ?_, fun l j _ hj => elemOf_laneOf _ (fun j => ⟨v l j, 0⟩) hj⟩
  simpa [laneOf_flag] using landsLanes_of_giveV hr hk hn he rfl hf h

end

/-- Selector j is the j-th field of six bits (R16). -/
theorem selector_eq (p : BitVec 96) (j : Nat) : selector p j = (p.extractLsb' (6 * j) 6).toNat := by
  simp [selector, bits, Nat.shiftRight_eq_div_pow]

/-- Some selector of VSHUF's pattern entry is above 31 (R16). -/
def WideSelector (w : SlotWord) (s : State) : Prop := ∃ j, j < 16 ∧ 32 ≤ selector (s.shufEntry w) j

theorem shufIll_of_wide {u : VSlot} {w : SlotWord} {s : State} (h : WideSelector w s) :
    shufIll u w s = some (trapAt u.slot.num cIllegalOp 15) :=
  if_pos (by simpa [WideSelector] using h)

theorem shufIll_of_not_wide {u : VSlot} {w : SlotWord} {s : State} (h : ¬ WideSelector w s) : shufIll u w s = none :=
  if_neg (by simpa [WideSelector] using h)

/-- The lane that VSHUF reads for lane l: a selector below 16 names one of A's cluster, any other one of D's (R189). -/
def shuffled (p : BitVec 96) (a d : Vec) (l : Nat) : Word :=
  if selector p (l % 16) < 16 then vlane a (16 * (l / 16) + selector p (l % 16))
  else vlane d (16 * (l / 16) + (selector p (l % 16) - 16))

theorem issueVshuf_eq {u : VSlot} {w : SlotWord} {s : State} (h : ¬ WideSelector w s) :
    issueVshuf u w s = s.giveV u w 3 fun l => (shuffled (s.shufEntry w) (s.opV u.slot.num w.a) (s.opV u.slot.num w.d) l, 0) := by
  have hsel (l : Nat) : selector (s.shufEntry w) (l % 16) % 32 = selector (s.shufEntry w) (l % 16) :=
    Nat.mod_eq_of_lt (Nat.lt_of_not_le fun hw => h ⟨l % 16, Nat.mod_lt l (by decide), hw⟩)
  simp only [issueVshuf, hsel]
  congr 1
  funext l
  simp only [shuffled]
  split
  case isTrue => rfl
  case isFalse hge => rw [Nat.add_sub_assoc (Nat.le_of_not_lt hge)]

end Sys2Proof.Machine

namespace Sys2Proof

open Machine

/-- Settles O23: each instruction of the table answers `State.giveEl` of its element operation (`elementOps_elementwise`), whose lanes are
built from the elements' results (`elemOf_laneOf`, `laneOf_flag`). -/
theorem vectorElementResults : Obligations.VectorElementResults := by
  intro x hx u w s h
  obtain ⟨⟨r, hr⟩, hk, hs⟩ := elementOps_elementwise x hx u w
  obtain ⟨hn, he⟩ := hs s
  have hl := landsLanes_of_giveV hr hk hn he rfl rfl h
  simp only [laneOf_flag, ← exists_and_left] at hl
  exact ⟨_, fun l j _ hj => elemOf_laneOf _ _ hj, hl⟩

/-- Settles O24: a move answers `State.giveV` of its lanes without flags (`landsLanes_of_flagless`, and `landsElems_of_giveV` where the
lanes are built from elements); VSEL lands every lane; VSHUF first looks at its entry's selectors (`shufIll_of_wide`). -/
theorem vectorLaneMoves : Obligations.VectorLaneMoves := by
  intro u w s
  refine ⟨?and, ?or, ?xor, ?andn, ?mov, ?movi, ?idx, ?bcast, ?xc, ?sel, fun h => ?shuf⟩
  case and | or | xor | andn | mov | xc => exact landsLanes_of_flagless rfl rfl rfl rfl rfl rfl
  case movi | idx => exact landsElems_of_giveV rfl rfl rfl rfl rfl
  case bcast =>
    simp only [Nat.mul_comm 16]
    exact landsElems_of_giveV rfl rfl rfl rfl rfl
  case sel => exact fun h => ⟨_, fun l hl => vlane_ofLanes _ hl, gives_of_land rfl h rfl rfl rfl⟩
  case shuf =>
    simp only [← selector_eq]
    split
    case isTrue hw => exact traps_of_runV_ill rfl rfl rfl rfl (shufIll_of_wide hw) h
    case isFalse hw => exact landsLanes_of_flagless rfl rfl rfl rfl (shufIll_of_not_wide hw) (issueVshuf_eq hw) h

end Sys2Proof
end

section
/-! Configuration of the engines: what an engine instruction does where it may act (R85, R210), reads of the own scratchpad (R72, R141,
R146), the matrix engine's record and window (R194, R195, R200), scale registers and patterns (R208, R209), combine words (R214). -/

namespace Sys2Proof.Machine

section
variable {s : State} {i : Instr} {w : SlotWord} {r : Row} {f : State → Res}

/-! ### Engine instructions where they may act (R85, R210) -/

theorem State.engineErr_mayEngine (hm : s.mayEngine = true) (k : Nat) : s.engineErr k = none := by
  simp only [State.mayEngine, Bool.or_eq_true, Bool.not_eq_true'] at hm
  rcases hm with hh | hl
  · simp [State.engineErr, hh]
  · simp [State.engineErr, hl]

/-- A slot looks at its instruction in the state of issue alone. -/
theorem State.runSlot_congr {g : State → Res} (h : f s = g s) (i : Instr) (w : SlotWord) (k : Nat) (enc ill : Option TrapInfo) :
    s.runSlot i w k enc ill f = s.runSlot i w k enc ill g := by
  simp only [State.runSlot, State.lookSlot, h]

theorem withEngine_mayEngine (hm : s.mayEngine = true) (k : Nat) (i : Instr) (f : State → Res) :
    withEngine k i f s = withOperands k i f s := by
  simp only [withEngine, State.engineErr_mayEngine hm]

/-- The operands of a free slot are bound and carry no poison. -/
theorem State.operands_clean (hr : row i = some (w, r)) (h : s.ready i = true) :
    s.streamErr (slotNo i) i = none ∧ s.poisonErr (slotNo i) i = none :=
  Option.or_eq_none_iff.mp (State.operandErr_ready hr h)

/-- Where engine instructions may act, an X-slot instruction looks at its operands and then at itself. -/
theorem looks_of_runX (hm : s.mayEngine = true) (hk : slotNo i = 5) (he : exec i s = s.runX i w none f) :
    exec i s = s.runSlot i w (slotNo i) none none (withOperands (slotNo i) i f) := by
  rw [he, State.runX, hk, State.runSlot_congr (withEngine_mayEngine hm 5 i f)]

/-- Where engine instructions may act, an F-slot instruction looks at its operands and then at itself. -/
theorem looks_of_runF (hm : s.mayEngine = true) (hk : slotNo i = 7) (he : exec i s = s.runF i w f) :
    exec i s = s.runSlot i w (slotNo i) none none (withOperands (slotNo i) i f) := by
  rw [he, State.runF, hk, State.runSlot_congr (withEngine_mayEngine hm 7 i f)]

/-- A free N-slot instruction that raises neither ILLEGAL_OP nor STATE_BOUND does the same, though it checks POISON last (R232): its
operands are clean. -/
theorem looks_of_runN (hr : row i = some (w, r)) (h : s.ready i = true) (hm : s.mayEngine = true) (hk : slotNo i = 6)
    {ill : Option TrapInfo} {bound : State → Option Nat} (he : exec i s = s.runN i w ill bound f) (hi : ill = none)
    (hb : bound s = none) : exec i s = s.runSlot i w (slotNo i) none none (withOperands (slotNo i) i f) := by
  obtain ⟨hs, hp⟩ := State.operands_clean hr h
  rw [he, State.runN, hi, hk]
  refine State.runSlot_congr ?_ i w 6 none none
  rw [← hk, withOperands_ready hr h]
  rw [hk] at hs hp ⊢
  simp only [State.engineErr_mayEngine hm, hb, hs, hp]
  cases f s <;> rfl

/-! ### Reads of the own scratchpad (R72, R141, R146) -/

/-- An instruction that looks at its operands first and then holds, holds its bundle, whether it has room or not. -/
theorem holds_of_look (hr : row i = some (w, r)) (h : s.ready i = true)
    (he : exec i s = s.runSlot i w (slotNo i) none none (withOperands (slotNo i) i f)) (hf : f s = .hold {} []) : Holds i s {} := by
  cases hn : s.roomHold i with
  | false => exact holds_of_operands hr h hn he hf
  | true =>
    have hs := ((State.ready_iff hr).mp h).1
    rw [Holds, he, State.runSlot_alone hs, State.lookSlot_full hr h hn, State.closeBundle_hold hs]

section
variable {va : DWord} {core off n align : Nat}

theorem State.ownAddr_inl (hl : s.localAt va n true = .inl (core, off)) (ha : va.toNat % align = 0) (k : Nat) (wr : Bool) :
    s.ownAddr k va n align wr = .inl off := by
  simp [State.ownAddr, hl, ha]

/-- A read of an engine-owned block holds. -/
theorem State.ownRead_owned (hl : s.localAt va n true = .inl (core, off)) (ha : va.toNat % n = 0)
    (ho : s.core.ownedAt off n = true) (k : Nat) (g : Nat → List Byte → Res) : s.ownRead k va n g = .hold {} [] := by
  simp only [State.ownRead, State.ownAddr_inl hl ha, ho, if_true]

theorem State.ownRead_free (hl : s.localAt va n true = .inl (core, off)) (ha : va.toNat % n = 0)
    (ho : ¬ s.core.ownedAt off n = true) (k : Nat) (g : Nat → List Byte → Res) :
    s.ownRead k va n g = g off (s.core.scratch.read off n) := by
  simp only [State.ownRead, State.ownAddr_inl hl ha, if_neg ho]

/-- A read of blocks that no open command names has room. -/
theorem State.ownedRead_free (hl : s.localAt va n true = .inl (core, off)) (ho : ¬ s.core.ownedAt off n = true) (align : Nat) :
    s.ownedRead va n align = false := by
  simp [State.ownedRead, hl, ho]

end

section
variable {core off : Nat}

/-! ### The configuration record and the window (R194, R195, R200) -/

/-- A valid record names at least one tile. -/
theorem MConfig.tiles_pos {bs : List Byte} {c : MConfig} (h : MConfig.ofBytes bs = some c) : 0 < c.mt * c.nt := by
  simp only [MConfig.ofBytes, Option.ite_none_right_eq_some, Option.some.injEq] at h
  obtain ⟨⟨-, -, -, -, -, -, -, -, hm, -, hn, -⟩, rfl⟩ := h
  exact Nat.mul_pos hm hn

/-- The last tile of a valid record lies beyond the claim where the record's tiles do. -/
theorem State.tileErr_last {bs : List Byte} {c : MConfig} (hc : MConfig.ofBytes bs = some c) :
    s.tileErr (c.amap + c.mt * c.nt - 1) =
      if s.core.acc < c.amap + c.mt * c.nt then some (raise 5 cStateBound 1) else none := by
  have hpos := MConfig.tiles_pos hc
  have hlast : s.core.acc ≤ c.amap + c.mt * c.nt - 1 ↔ s.core.acc < c.amap + c.mt * c.nt := by omega
  simp only [State.tileErr, hlast]

theorem issueMcfg_owned (hl : s.localAt (s.opS 5 w.a) 64 true = .inl (core, off)) (ha : (s.opS 5 w.a).toNat % 64 = 0)
    (ho : s.core.ownedAt off 64 = true) : issueMcfg w s = .hold {} [] := by
  rw [issueMcfg, State.ownRead_owned hl ha ho]

theorem issueMcfg_invalid (hl : s.localAt (s.opS 5 w.a) 64 true = .inl (core, off)) (ha : (s.opS 5 w.a).toNat % 64 = 0)
    (ho : ¬ s.core.ownedAt off 64 = true) (hc : MConfig.ofBytes (s.core.scratch.read off 64) = none) :
    issueMcfg w s = raise 5 cIllegalOp 16 (s.opS 5 w.a) := by
  simp only [issueMcfg, State.ownRead_free hl ha ho, hc]

theorem issueMcfg_valid (hl : s.localAt (s.opS 5 w.a) 64 true = .inl (core, off)) (ha : (s.opS 5 w.a).toNat % 64 = 0)
    (ho : ¬ s.core.ownedAt off 64 = true) {c : MConfig} (hc : MConfig.ofBytes (s.core.scratch.read off 64) = some c) :
    issueMcfg w s = if s.core.acc < c.amap + c.mt * c.nt then raise 5 cStateBound 1 else .ok [.mcfg c] := by
  simp only [issueMcfg, State.ownRead_free hl ha ho, hc, State.tileErr_last hc]
  split <;> rfl

theorem issueMwin_owned (hl : s.localAt (s.opS 5 w.a) 32 true = .inl (core, off)) (ha : (s.opS 5 w.a).toNat % 32 = 0)
    (ho : s.core.ownedAt off 32 = true) : issueMwin w s = .hold {} [] := by
  rw [issueMwin, State.ownRead_owned hl ha ho]

theorem issueMwin_invalid (hl : s.localAt (s.opS 5 w.a) 32 true = .inl (core, off)) (ha : (s.opS 5 w.a).toNat % 32 = 0)
    (ho : ¬ s.core.ownedAt off 32 = true) (hd : MWindow.ofBytes (s.core.scratch.read off 32) = none) :
    issueMwin w s = raise 5 cIllegalOp 16 (s.opS 5 w.a) := by
  simp only [issueMwin, State.ownRead_free hl ha ho, hd]

theorem issueMwin_valid (hl : s.localAt (s.opS 5 w.a) 32 true = .inl (core, off)) (ha : (s.opS 5 w.a).toNat % 32 = 0)
    (ho : ¬ s.core.ownedAt off 32 = true) {d : MWindow} (hd : MWindow.ofBytes (s.core.scratch.read off 32) = some d) :
    issueMwin w s = .ok [.mwin d] := by
  simp only [issueMwin, State.ownRead_free hl ha ho, hd]

/-! ### Scale registers and combine words (R208, R214) -/

theorem issueScld_owned (hl : s.localAt (s.opS 7 w.a) 256 true = .inl (core, off)) (ha : (s.opS 7 w.a).toNat % 64 = 0)
    (ho : s.core.ownedAt off 256 = true) : issueScld w s = .hold {} [] := by
  simp only [issueScld, State.ownAddr_inl hl ha, ho, if_true]

/-- The scale register whose elements stand at an offset of a memory. -/
def scaleAt (m : Mem) (off : Nat) : Scale := Vector.ofFn fun j => BitVec.ofNat 16 (m.le (off + 2 * j) 2)

theorem vget_scaleAt (m : Mem) (off : Nat) {j : Nat} (hj : j < 128) :
    vget 0 (scaleAt m off) j = BitVec.ofNat 16 (m.le (off + 2 * j) 2) := by
  simp [vget, scaleAt, hj]

theorem issueScld_free (hl : s.localAt (s.opS 7 w.a) 256 true = .inl (core, off)) (ha : (s.opS 7 w.a).toNat % 64 = 0)
    (ho : ¬ s.core.ownedAt off 256 = true) :
    issueScld w s = s.giveE w.d.toNat (scaleAt s.core.scratch off)
      (if (wordsOf off 256).any s.core.spoison.has then [⟨.e w.d.toNat, 0, 0⟩] else []) := by
  simp only [issueScld, State.ownAddr_inl hl ha, if_neg ho]
  rfl

theorem issueScmv_clean (hp : s.thr.markOf [.e w.a.toNat] = none) :
    issueScmv w s = s.giveE w.d.toNat
      (if w.mod = 0 then vget Scale.zero s.thr.e w.a.toNat
       else Vector.replicate 128 (vget 0 (vget Scale.zero s.thr.e w.a.toNat) ((s.opS 7 w.b).toNat % 128))) [] := by
  simp [issueScmv, hp]

/-- A combine word is invalid where its operator is above 5 or a bit above 6 is set (R214). -/
def InvalidCombine (w : SlotWord) (s : State) : Prop := 6 ≤ (s.opS 6 w.a).toNat % 8 ∨ 2 ^ 7 ≤ (s.opS 6 w.a).toNat % 2 ^ 32

/-- SOPD raises ILLEGAL_OP with DETAIL 19 exactly on an invalid combine word. -/
theorem sopdIll_eq_some_iff (h : s.ready (.sopd w) = true) :
    sopdIll w s = some (trapAt 6 cIllegalOp 19) ↔ InvalidCombine w s := by
  obtain ⟨hs, -⟩ := State.operands_clean rfl h
  have hs' : s.streamErr 6 (.sopd w) = none := hs
  have hmod : (s.opS 6 w.a).toNat % 2 ^ 32 % 8 = (s.opS 6 w.a).toNat % 8 := Nat.mod_mod_of_dvd _ (by decide)
  simp only [sopdIll, hs', hmod, InvalidCombine, Option.isNone_none, Bool.true_and, Bool.or_eq_true, decide_eq_true_eq,
    Option.ite_none_right_eq_some, and_true]

theorem sopdIll_invalid (h : s.ready (.sopd w) = true) (hc : InvalidCombine w s) :
    sopdIll w s = some (trapAt 6 cIllegalOp 19) := (sopdIll_eq_some_iff h).mpr hc

theorem sopdIll_valid (h : s.ready (.sopd w) = true) (hc : ¬ InvalidCombine w s) : sopdIll w s = none :=
  if_neg fun hif => hc ((sopdIll_eq_some_iff h).mp (if_pos hif))

end

end

end Sys2Proof.Machine

namespace Sys2Proof

open Machine

/-- Settles O39: where engine instructions may act, each looks at its operands and itself (`looks_of_runX`, `looks_of_runF`, `looks_of_runN`).
A read of the own scratchpad holds on an owned block (`holds_of_look`) and otherwise has room (`State.ownedRead_free`); then MCFG and MWIN
answer as their record is valid or not, and the F slots land what they read. SOPD looks at its combine word first (`sopdIll_invalid`). -/
theorem engineConfiguration : Obligations.EngineConfiguration := by
  intro w s hm
  refine ⟨fun core off h hl ha => ?mcfg, fun core off h hl ha => ?mwin, fun core off h hl ha => ?scld, fun h hp => ?scmv,
    fun core off h hl ha => ?patld, fun h => ?patsw, fun h => ?sopd⟩
  case mcfg =>
    have he := looks_of_runX (i := .mcfg w) (f := issueMcfg w) hm rfl rfl
    split
    case isTrue ho => exact holds_of_look rfl h he (issueMcfg_owned hl ha ho)
    case isFalse ho =>
      have hn : s.roomHold (.mcfg w) = false := State.ownedRead_free hl ho 64
      split
      case h_1 hc => exact traps_of_operands rfl h hn he (issueMcfg_invalid hl ha ho hc) rfl
      case h_2 c hc =>
        have hi := issueMcfg_valid hl ha ho hc
        split
        case isTrue hb => exact traps_of_operands rfl h hn he (hi.trans (if_pos hb)) rfl
        case isFalse hb => exact does_of_operands rfl h hn he (hi.trans (if_neg hb)) (List.forall_mem_singleton.mpr rfl)
  case mwin =>
    have he := looks_of_runX (i := .mwin w) (f := issueMwin w) hm rfl rfl
    split
    case isTrue ho => exact holds_of_look rfl h he (issueMwin_owned hl ha ho)
    case isFalse ho =>
      have hn : s.roomHold (.mwin w) = false := State.ownedRead_free hl ho 32
      split
      case h_1 hd => exact traps_of_operands rfl h hn he (issueMwin_invalid hl ha ho hd) rfl
      case h_2 d hd => exact does_of_operands rfl h hn he (issueMwin_valid hl ha ho hd) (List.forall_mem_singleton.mpr rfl)
  case scld =>
    have he := looks_of_runF (i := .scld w) (f := issueScld w) hm rfl rfl
    split
    case isTrue ho => exact holds_of_look rfl h he (issueScld_owned hl ha ho)
    case isFalse ho =>
      have hn : s.roomHold (.scld w) = false := State.ownedRead_free hl ho 256
      exact ⟨_, _, fun j hj => vget_scaleAt _ _ hj, fun hc => if_neg (by simp [hc]),
        gives_of_land rfl h hn he (issueScld_free hl ha ho)⟩
  case scmv => exact gives_of_land rfl h rfl (looks_of_runF (i := .scmv w) (f := issueScmv w) hm rfl rfl) (issueScmv_clean hp)
  case patld =>
    have he := looks_of_runF (i := .patld w) (f := issuePatld w) hm rfl rfl
    split
    case isTrue ho => exact holds_of_look rfl h he (State.ownRead_owned hl ha ho 7 _)
    case isFalse ho => exact gives_of_land rfl h (State.ownedRead_free hl ho 16) he (State.ownRead_free hl ha ho 7 _)
  case patsw =>
    have he := looks_of_runF (i := .patsw w) (f := fun _ => .ok [.patsw]) hm rfl rfl
    exact does_of_operands (es := [.patsw]) rfl h rfl he rfl (List.forall_mem_singleton.mpr rfl)
  case sopd =>
    split
    case isTrue hc => exact traps_of_runN_ill (i := .sopd w) rfl rfl (Eq.refl (execSopd w s)) (sopdIll_invalid h hc) h rfl
    case isFalse hc =>
      have he := looks_of_runN (i := .sopd w) rfl h hm rfl (Eq.refl (execSopd w s)) (sopdIll_valid h hc) rfl
      exact does_of_operands (es := [.sopd w.d.toNat ((s.opS 6 w.a).setWidth 32)]) rfl h rfl he rfl (List.forall_mem_singleton.mpr rfl)

end Sys2Proof
end
